-- ==== Sys2Proof/Word.lean ====
section
/-! DEFINITION. The word types of the Halut instruction set (R2, R3). -/

namespace Sys2Proof

/-- A 64-bit word: an instruction word, a G register, a CSR. -/
abbrev Word := BitVec 64

/-- One byte of memory or of a segment. -/
abbrev Byte := BitVec 8

/-- One 32-bit element slot of a line (R139). -/
abbrev Slot := BitVec 32

end Sys2Proof
end

