-- ==== Sys2Proof/Syntax.lean ====
section
/-! DEFINITION. The syntax of the Halut instruction set and of the device's events: one
constructor of `Instr` for each row of the opcode table. An instruction form carries the fields of its
format (R28) without the zero bits; an event carries the number of the unit it acts on and what the
outside world supplies. -/

namespace Sys2Proof

/-- Format F-R (R28). -/
structure FR where
  rd : BitVec 6
  ra : BitVec 6
  rb : BitVec 6
  rc : BitVec 6
  fn : BitVec 8
  sync : BitVec 4
  deriving DecidableEq, Repr

/-- Format F-I (R28). -/
structure FI where
  rd : BitVec 6
  ra : BitVec 6
  imm : BitVec 40
  sync : BitVec 4
  deriving DecidableEq, Repr

/-- Format F-B (R28). -/
structure FB where
  cond : BitVec 4
  ra : BitVec 6
  rb : BitVec 6
  off : BitVec 32
  sync : BitVec 4
  deriving DecidableEq, Repr

/-- Format F-M (R28). -/
structure FM where
  rd : BitVec 6
  ar : BitVec 4
  rx : BitVec 6
  sz : BitVec 2
  sh : BitVec 4
  ord : BitVec 2
  wb : BitVec 10
  disp : BitVec 18
  sync : BitVec 4
  deriving DecidableEq, Repr

/-- Format F-G (R28). -/
structure FG where
  rd : BitVec 6
  rb : BitVec 6
  rx : BitVec 6
  sz : BitVec 2
  sh : BitVec 4
  ord : BitVec 2
  scope : BitVec 3
  aop : BitVec 5
  disp : BitVec 18
  sync : BitVec 4
  deriving DecidableEq, Repr

/-- Format F-L (R28). -/
structure FL where
  ld : BitVec 12
  la : BitVec 12
  lb : BitVec 12
  ty : BitVec 4
  rm : BitVec 3
  pred : BitVec 3
  pe : BitVec 1
  pn : BitVec 1
  fn : BitVec 4
  sync : BitVec 4
  deriving DecidableEq, Repr

/-- Format F-Q (R28). -/
structure FQ where
  qn : BitVec 4
  ar : BitVec 4
  rc : BitVec 6
  aux : BitVec 10
  wb : BitVec 10
  disp : BitVec 18
  sync : BitVec 4
  deriving DecidableEq, Repr

/-- Format F-X (R28). -/
structure FX where
  an : BitVec 3
  ar1 : BitVec 4
  ar2 : BitVec 4
  rk : BitVec 6
  fn : BitVec 6
  wb : BitVec 10
  tw : BitVec 4
  ta : BitVec 4
  flags : BitVec 10
  sync : BitVec 4
  deriving DecidableEq, Repr

/-- Format F-P (R28). -/
structure FP where
  cnt : BitVec 10
  sd : BitVec 4
  sa : BitVec 4
  sb : BitVec 4
  sync : BitVec 4
  deriving DecidableEq, Repr

/-- Format F-S (R28). -/
structure FS where
  fn8 : BitVec 8
  ra : BitVec 6
  rb : BitVec 6
  imm : BitVec 32
  sync : BitVec 4
  deriving DecidableEq, Repr

/-- Format F-D (R28). -/
structure FD where
  len : BitVec 16
  deriving DecidableEq, Repr

/-- A program counter of the device: strand `q` (C 0, L 1, X 2, S 3) of tile `t`, or the
core program of Signal box `g` (R69, R363). -/
inductive CoreId where
  | tile (t q : Nat)
  | sbox (g : Nat)
  deriving DecidableEq, Repr

/-- Where an uncorrectable error strikes (R320): a device-memory sector, a sector of a segment copy, an
accumulator row, a sector of the M file, a line of an operand or drain queue, or a shared structure. -/
inductive EccSite where
  | mem (pa : Nat)
  | seg (ctx name tile sector : Nat)
  | acc (ctx name tile row : Nat)
  | mfile (tile sector : Nat)
  | opq (tile q line : Nat)
  | drq (tile q line : Nat)
  | shared (group : Nat)
  deriving DecidableEq, Repr

/-- What a flit carries to this device (R328, R329, R332). -/
inductive FlitBody where
  /-- The bytes of a portion that a command reads from the sending device. -/
  | data (cmd : Nat) (bytes : List (BitVec 8))
  /-- The acknowledgement of the flit of a command, a write or of a COLLECTIVE, with a sequence number. -/
  | ack (cmd seq : Nat)
  /-- The sending device could not translate a command's access: 16 PAGEFAULT, 17 PAGEPROT. -/
  | failed (cmd cond : Nat)
  /-- A read by another device of this one's memory, under the context of the same number. -/
  | read (ctx va len : Nat)
  /-- A write by another device. -/
  | write (ctx va : Nat) (bytes : List (BitVec 8))
  /-- Source bytes of another participant of a COLLECTIVE, from a byte offset, with the instance's parameters. -/
  | collective (tag : BitVec 64) (inst rank op rm root fmt n off : Nat) (bytes : List (BitVec 8))
  deriving DecidableEq, Repr

/-- A flit (R328). -/
structure Flit where
  dest : Nat
  src : Nat
  /-- Its sequence number, as its sender counts. -/
  seq : Nat
  gen : Nat
  crcOk : Bool
  body : FlitBody
  deriving DecidableEq, Repr

/-- What a part finds when it comes up (R334, R338): firmware that verifies, the units present and the links up. -/
structure PowerUp where
  firmware : Bool
  stackMask : BitVec 8
  clusters : BitVec 64
  ports : BitVec 4
  fabric : BitVec 16
  host : Bool
  device : Nat
  /-- OP slots that its ISA record marks executable (R337). -/
  isa : BitVec 256
  /-- Lanes and GT/s at which the host link trains (R323). -/
  hostWidth : Nat
  hostRate : Nat
  deriving DecidableEq, Repr

/-- A driver's request for a Signal box core program (R363). -/
structure CoreStart where
  ctx : Nat
  tile : Nat
  base : Nat
  args : List (BitVec 64)
  deriving DecidableEq, Repr

/-- One constructor for each row of the opcode table. -/
inductive Instr where
  /-- ZEROWORD (R37). -/
  | zeroword
  /-- ILLOP (R41). -/
  | illop (w : BitVec 64)
  /-- NOP (OP 0x01, R84). -/
  | nop (f : FR)
  /-- BR (OP 0x02, R78). -/
  | br (f : FB)
  /-- BCC (OP 0x03, R78). -/
  | bcc (f : FB)
  /-- BCALL (OP 0x04, R78). -/
  | bcall (f : FB)
  /-- JR (OP 0x05, R79). -/
  | jr (f : FR)
  /-- JRL (OP 0x06, R79). -/
  | jrl (f : FR)
  /-- LOOP (OP 0x07, R78). -/
  | loop (f : FB)
  /-- REP (OP 0x08, R86). -/
  | rep (f : FP)
  /-- FORK (OP 0x09, R80). -/
  | fork (f : FS)
  /-- RDV (OP 0x0A, R81). -/
  | rdv (f : FQ)
  /-- RDV_JOIN (R81). -/
  | rdvJoin (tile : Nat)
  /-- END (OP 0x0B, R82). -/
  | endTask (f : FR)
  /-- TASK_RETIRE (R82). -/
  | taskRetire (tile : Nat)
  /-- YIELD (OP 0x0C, R83). -/
  | yield (f : FR)
  /-- PAUSE_END (R83). -/
  | pauseEnd (core : CoreId)
  /-- TKGIVE (OP 0x0D, R85). -/
  | tkgive (f : FQ)
  /-- TKTAKE (OP 0x0E, R85). -/
  | tktake (f : FQ)
  /-- TKCNT (OP 0x0F, R85). -/
  | tkcnt (f : FQ)
  /-- COUPLING_TAKE (R27). -/
  | couplingTake (core : CoreId)
  /-- STALL (R75). -/
  | stall (core : CoreId)
  /-- ADD (OP 0x10, R94). -/
  | add (f : FR)
  /-- SUB (OP 0x11, R94). -/
  | sub (f : FR)
  /-- MUL (OP 0x12, R94). -/
  | mul (f : FR)
  /-- MULH (OP 0x13, R94). -/
  | mulh (f : FR)
  /-- DIV (OP 0x14, R94). -/
  | div (f : FR)
  /-- REM (OP 0x15, R94). -/
  | rem (f : FR)
  /-- AND (OP 0x16, R94). -/
  | and (f : FR)
  /-- OR (OP 0x17, R94). -/
  | or (f : FR)
  /-- XOR (OP 0x18, R94). -/
  | xor (f : FR)
  /-- SHL (OP 0x19, R94). -/
  | shl (f : FR)
  /-- SHR (OP 0x1A, R94). -/
  | shr (f : FR)
  /-- SAR (OP 0x1B, R94). -/
  | sar (f : FR)
  /-- MIN (OP 0x1C, R94). -/
  | min (f : FR)
  /-- MAX (OP 0x1D, R94). -/
  | max (f : FR)
  /-- SETCC (OP 0x1E, R94). -/
  | setcc (f : FR)
  /-- SEL (OP 0x1F, R94). -/
  | sel (f : FR)
  /-- ADDI (OP 0x20, R96). -/
  | addi (f : FI)
  /-- ANDI (OP 0x21, R96). -/
  | andi (f : FI)
  /-- ORI (OP 0x22, R96). -/
  | ori (f : FI)
  /-- XORI (OP 0x23, R96). -/
  | xori (f : FI)
  /-- SHLI (OP 0x24, R96). -/
  | shli (f : FI)
  /-- SHRI (OP 0x25, R96). -/
  | shri (f : FI)
  /-- SARI (OP 0x26, R96). -/
  | sari (f : FI)
  /-- SETCCI (OP 0x27, R96). -/
  | setcci (f : FI)
  /-- LIMM (OP 0x28, R96). -/
  | limm (f : FI)
  /-- LIMMH (OP 0x29, R96). -/
  | limmh (f : FI)
  /-- CLZ (OP 0x2A, R97). -/
  | clz (f : FR)
  /-- POPC (OP 0x2B, R97). -/
  | popc (f : FR)
  /-- AMAKE (OP 0x30, R98). -/
  | amake (f : FI)
  /-- AOFF (OP 0x31, R99). -/
  | aoff (f : FR)
  /-- AOFFI (OP 0x32, R99). -/
  | aoffi (f : FI)
  /-- AGETS (OP 0x33, R100). -/
  | agets (f : FR)
  /-- AGETO (OP 0x34, R100). -/
  | ageto (f : FR)
  /-- CSRR (OP 0x35, R103). -/
  | csrr (f : FI)
  /-- CSRW (OP 0x36, R103). -/
  | csrw (f : FI)
  /-- CSRSET (OP 0x37, R103). -/
  | csrset (f : FI)
  /-- CSRCLR (OP 0x38, R103). -/
  | csrclr (f : FI)
  /-- LD (OP 0x40, R133). -/
  | ld (f : FM)
  /-- ST (OP 0x41, R133). -/
  | st (f : FM)
  /-- LDL (OP 0x42, R134). -/
  | ldl (f : FQ)
  /-- STL (OP 0x43, R134). -/
  | stl (f : FQ)
  /-- SCOPY (OP 0x44, R135). -/
  | scopy (f : FR)
  /-- SZERO (OP 0x45, R135). -/
  | szero (f : FR)
  /-- SALLOC (OP 0x46, R136). -/
  | salloc (f : FR)
  /-- SFREE (OP 0x47, R136). -/
  | sfree (f : FR)
  /-- SGROW (OP 0x48, R136). -/
  | sgrow (f : FR)
  /-- SATTR (OP 0x49, R136). -/
  | sattr (f : FR)
  /-- SQUERY (OP 0x4A, R136). -/
  | squery (f : FR)
  /-- SRECALL (OP 0x4B, R136). -/
  | srecall (f : FR)
  /-- SPUSH (OP 0x4C, R136). -/
  | spush (f : FR)
  /-- SEGMENT_WAIT_END (R136). -/
  | segmentWaitEnd (core : CoreId)
  /-- GRANT (R126). -/
  | grant (tile : Nat)
  /-- PUSH (R123). -/
  | push (tile : Nat) (ctx : Nat) (seg : Nat)
  /-- RECALL (R123). -/
  | recallMove (tile : Nat) (ctx : Nat) (seg : Nat)
  /-- SHUNTER_MOVE (R124). -/
  | shunterMove (tile : Nat) (ctx : Nat) (seg : Nat)
  /-- QRD (OP 0x50, R146). -/
  | qrd (f : FQ)
  /-- QRD_LINE_ISSUE (R146). -/
  | qrdLineIssue (tile : Nat)
  /-- QRD_LINE_FILL (R146). -/
  | qrdLineFill (tile : Nat) (q : Nat)
  /-- QWR (OP 0x51, R146). -/
  | qwr (f : FQ)
  /-- QWR_LINE_WRITE (R146). -/
  | qwrLineWrite (tile : Nat)
  /-- QCNT (OP 0x52, R148). -/
  | qcnt (f : FQ)
  /-- LINE_OPERANDS_READY (R143). -/
  | lineOperandsReady (tile : Nat)
  /-- MOVL (OP 0x53, R152). -/
  | movl (f : FL)
  /-- BCAST (OP 0x54, R152). -/
  | bcast (f : FL)
  /-- EXTR (OP 0x55, R152). -/
  | extr (f : FL)
  /-- INS (OP 0x56, R152). -/
  | ins (f : FL)
  /-- LIMML (OP 0x57, R152). -/
  | limml (f : FL)
  /-- FADD (OP 0x60, R153). -/
  | fadd (f : FL)
  /-- FSUB (OP 0x61, R153). -/
  | fsub (f : FL)
  /-- FMUL (OP 0x62, R153). -/
  | fmul (f : FL)
  /-- FMA (OP 0x63, R153). -/
  | fma (f : FL)
  /-- FMAX (OP 0x64, R154). -/
  | fmax (f : FL)
  /-- FMIN (OP 0x65, R154). -/
  | fmin (f : FL)
  /-- FABS (OP 0x66, R154). -/
  | fabs (f : FL)
  /-- FNEG (OP 0x67, R154). -/
  | fneg (f : FL)
  /-- FEXP2 (OP 0x68, R153). -/
  | fexp2 (f : FL)
  /-- FLOG2 (OP 0x69, R153). -/
  | flog2 (f : FL)
  /-- FRCP (OP 0x6A, R153). -/
  | frcp (f : FL)
  /-- FRSQ (OP 0x6B, R153). -/
  | frsq (f : FL)
  /-- FCVT (OP 0x6C, R153). -/
  | fcvt (f : FL)
  /-- FSCALE (OP 0x6D, R153). -/
  | fscale (f : FL)
  /-- IADD (OP 0x70, R155). -/
  | iadd (f : FL)
  /-- ISUB (OP 0x71, R155). -/
  | isub (f : FL)
  /-- IMUL (OP 0x72, R155). -/
  | imul (f : FL)
  /-- IMAD (OP 0x73, R155). -/
  | imad (f : FL)
  /-- IAND (OP 0x74, R155). -/
  | iand (f : FL)
  /-- IOR (OP 0x75, R155). -/
  | ior (f : FL)
  /-- IXOR (OP 0x76, R155). -/
  | ixor (f : FL)
  /-- ISHL (OP 0x77, R155). -/
  | ishl (f : FL)
  /-- ISHR (OP 0x78, R155). -/
  | ishr (f : FL)
  /-- IMIN (OP 0x79, R155). -/
  | imin (f : FL)
  /-- IMAX (OP 0x7A, R155). -/
  | imax (f : FL)
  /-- FCMP (OP 0x7B, R156). -/
  | fcmp (f : FL)
  /-- ICMP (OP 0x7C, R156). -/
  | icmp (f : FL)
  /-- PSET (OP 0x7D, R157). -/
  | pset (f : FL)
  /-- PSEL (OP 0x7E, R158). -/
  | psel (f : FL)
  /-- REDSUM (OP 0x80, R159). -/
  | redsum (f : FL)
  /-- REDMAX (OP 0x81, R159). -/
  | redmax (f : FL)
  /-- REDMIN (OP 0x82, R159). -/
  | redmin (f : FL)
  /-- SCANADD (OP 0x83, R159). -/
  | scanadd (f : FL)
  /-- PERM (OP 0x84, R152). -/
  | perm (f : FL)
  /-- BPPACK (OP 0x85, R160). -/
  | bppack (f : FL)
  /-- BPUNP (OP 0x86, R160). -/
  | bpunp (f : FL)
  /-- OSMINIT (OP 0x87, R161). -/
  | osminit (f : FL)
  /-- OSMX (OP 0x88, R161). -/
  | osmx (f : FL)
  /-- MLDW (OP 0x90, R181). -/
  | mldw (f : FX)
  /-- MSWAP (OP 0x91, R181). -/
  | mswap (f : FX)
  /-- MSTREAM (OP 0x92, R182). -/
  | mstream (f : FX)
  /-- MRANK1 (OP 0x93, R183). -/
  | mrank1 (f : FX)
  /-- ACCZERO (OP 0x94, R184). -/
  | acczero (f : FX)
  /-- ACCRD (OP 0x95, R185). -/
  | accrd (f : FX)
  /-- ACCWR (OP 0x96, R185). -/
  | accwr (f : FX)
  /-- ACCPIN (OP 0x97, R184). -/
  | accpin (f : FX)
  /-- ACCUNPIN (OP 0x98, R184). -/
  | accunpin (f : FX)
  /-- ACCSPILL (OP 0x99, R186). -/
  | accspill (f : FX)
  /-- ACCSPILL_OTHER (OP 0x99, R186). -/
  | accspillOther (f : FX)
  /-- ACCFILL (OP 0x9A, R186). -/
  | accfill (f : FX)
  /-- ACCFILL_OTHER (OP 0x9A, R186). -/
  | accfillOther (f : FX)
  /-- ACC_REFILL (R167). -/
  | accRefill (tile : Nat)
  /-- GDELTA (OP 0x9B, R187). -/
  | gdelta (f : FX)
  /-- GDREAD (OP 0x9C, R188). -/
  | gdread (f : FX)
  /-- ECMD (OP 0xA0, R210). -/
  | ecmd (f : FQ)
  /-- QUEUE_SPACE_WAIT_END (R210). -/
  | queueSpaceWaitEnd (core : CoreId)
  /-- EWAIT (OP 0xA1, R211). -/
  | ewait (f : FQ)
  /-- EWAIT_COMPLETE (R211). -/
  | ewaitComplete (core : CoreId)
  /-- EPOLL (OP 0xA2, R212). -/
  | epoll (f : FQ)
  /-- ELINK (OP 0xA3, R213). -/
  | elink (f : FQ)
  /-- EKICK (OP 0xA4, R214). -/
  | ekick (f : FQ)
  /-- EQSTAT (OP 0xA5, R215). -/
  | eqstat (f : FQ)
  /-- SPAWN_SEG (OP 0xA6, R223). -/
  | spawnSeg (f : FQ)
  /-- SPAWN_VA (OP 0xA6, R223). -/
  | spawnVa (f : FQ)
  /-- WITHDRAW (OP 0xA7, R233). -/
  | withdraw (f : FQ)
  /-- TTREAD (OP 0xA8, R234). -/
  | ttread (f : FR)
  /-- SKEWACK (OP 0xA9, R235). -/
  | skewack (f : FR)
  /-- LDG (OP 0xB0, R251). -/
  | ldg (f : FG)
  /-- STG (OP 0xB1, R251). -/
  | stg (f : FG)
  /-- ATG (OP 0xB2, R252). -/
  | atg (f : FG)
  /-- REL_ORDER_WAIT_END (R248). -/
  | relOrderWaitEnd (core : CoreId)
  /-- PREFG (OP 0xB3, R253). -/
  | prefg (f : FG)
  /-- FENCE (OP 0xB4, R254). -/
  | fence (f : FG)
  /-- FENCE_COMPLETE (R254). -/
  | fenceComplete (core : CoreId)
  /-- PARKED_FAULT_ADMIT (R242). -/
  | parkedFaultAdmit
  /-- FAULT_ENTRY_POST (R243). -/
  | faultEntryPost (ctx : Nat)
  /-- RESP_RETRY (R244). -/
  | respRetry (ctx : Nat) (seq : Nat)
  /-- RESP_ABORT (R244). -/
  | respAbort (ctx : Nat) (seq : Nat)
  /-- ATL (OP 0xC0, R269). -/
  | atl (f : FM)
  /-- SEMPOST (OP 0xC1, R258). -/
  | sempost (f : FQ)
  /-- SEMWAIT (OP 0xC2, R258). -/
  | semwait (f : FQ)
  /-- SEMWAIT_GRANT (R258). -/
  | semwaitGrant (group : Nat) (sem : Nat)
  /-- SEMTRY (OP 0xC3, R258). -/
  | semtry (f : FQ)
  /-- ACQBUF_P (OP 0xC4, R264). -/
  | acqbufP (f : FQ)
  /-- ACQBUF_C (OP 0xC4, R264). -/
  | acqbufC (f : FQ)
  /-- ACQBUF_GRANT (R264). -/
  | acqbufGrant (core : CoreId)
  /-- RELBUF_P (OP 0xC5, R264). -/
  | relbufP (f : FQ)
  /-- RELBUF_C (OP 0xC5, R264). -/
  | relbufC (f : FQ)
  /-- RELBUF_SET (OP 0xC5, R264). -/
  | relbufSet (f : FQ)
  /-- RINGWAIT (OP 0xC6, R261). -/
  | ringwait (f : FQ)
  /-- RINGWAIT_RELEASE (R262). -/
  | ringwaitRelease (ctx : Nat) (ctr : Nat)
  /-- RINGPOST (OP 0xC7, R261). -/
  | ringpost (f : FQ)
  /-- BAR (OP 0xC8, R266). -/
  | bar (f : FQ)
  /-- BAR_COMPLETE (R266). -/
  | barComplete (core : CoreId)
  /-- AGSET (OP 0xD0, R276). -/
  | agset (f : FQ)
  /-- AGGET (OP 0xD1, R276). -/
  | agget (f : FQ)
  /-- SLRES (OP 0xD2, R276). -/
  | slres (f : FQ)
  /-- TRAP (OP 0xF0, R317). -/
  | trap (f : FS)
  /-- ERET (OP 0xF1, R317). -/
  | eret (f : FS)
  /-- HELD_ERROR_TAKE (R315). -/
  | heldErrorTake (core : CoreId)
  /-- ENGINE_ERROR_TRAP (R203). -/
  | engineErrorTrap (core : CoreId)
  /-- WFE (OP 0xF2, R318). -/
  | wfe (f : FS)
  /-- WFE_WAKE (R318). -/
  | wfeWake (core : CoreId)
  /-- TLBINV_VA (OP 0xF3, R319). -/
  | tlbinvVa (f : FS)
  /-- TLBINV_CTX (OP 0xF3, R319). -/
  | tlbinvCtx (f : FS)
  /-- TLBINV_ALL (OP 0xF3, R319). -/
  | tlbinvAll (f : FS)
  /-- PREEMPT_K (OP 0xF4, R177). -/
  | preemptK (f : FS)
  /-- PREEMPT_R (OP 0xF4, R178). -/
  | preemptR (f : FS)
  /-- PREEMPT_R_EFFECT (R178). -/
  | preemptREffect (tile : Nat)
  /-- PREEMPT_R_FALLBACK (R178). -/
  | preemptRFallback (tile : Nat)
  /-- TASK_SAVE (R298). -/
  | taskSave (tile : Nat)
  /-- TASK_RESUME (R176). -/
  | taskResume (group : Nat)
  /-- QKILL (OP 0xF5, R300). -/
  | qkill (f : FS)
  /-- PRESET (OP 0xF6, R301). -/
  | preset (f : FS)
  /-- SEMMAP_MAP (OP 0xF7, R306). -/
  | semmapMap (f : FS)
  /-- SEMMAP_UNMAP (OP 0xF7, R306). -/
  | semmapUnmap (f : FS)
  /-- PARTSET_DEF (OP 0xF8, R290). -/
  | partsetDef (f : FS)
  /-- PARTSET_DEL (OP 0xF8, R306). -/
  | partsetDel (f : FS)
  /-- PARTSET_VFQUOTA (OP 0xF8, R302). -/
  | partsetVfquota (f : FS)
  /-- PARTSET_VFUSED (OP 0xF8, R302). -/
  | partsetVfused (f : FS)
  /-- CTXLD_LOAD (OP 0xF9, R295). -/
  | ctxldLoad (f : FS)
  /-- CTXLD_DESTROY (OP 0xF9, R306). -/
  | ctxldDestroy (f : FS)
  /-- CTXLD_HOLD (OP 0xF9, R364). -/
  | ctxldHold (f : FS)
  /-- CTXLD_RELEASE (OP 0xF9, R306). -/
  | ctxldRelease (f : FS)
  /-- DBGSCAN_OUT (OP 0xFA, R322). -/
  | dbgscanOut (f : FS)
  /-- DBGSCAN_IN (OP 0xFA, R322). -/
  | dbgscanIn (f : FS)
  /-- DBGSCAN_RUN (OP 0xFA, R322). -/
  | dbgscanRun (f : FS)
  /-- POOL (OP 0xFE, R89). -/
  | pool (f : FD)
  /-- FETCH_BLOCK_FILL (R71). -/
  | fetchBlockFill (core : CoreId)
  /-- COMMAND_DISPATCH (R192). -/
  | commandDispatch (cmd : Nat) (engine : Nat)
  /-- COMMAND_RETIRE (R193). -/
  | commandRetire (cmd : Nat)
  /-- WITHDRAWN_STOP (R231). -/
  | withdrawnStop (cmd : Nat)
  /-- CHAIN_ENTRY_FETCH (R206). -/
  | chainEntryFetch (cmd : Nat)
  /-- COPY (R200). -/
  | copy (cmd : Nat)
  /-- MCAST (R200). -/
  | mcast (cmd : Nat)
  /-- GATHER (R200). -/
  | gather (cmd : Nat)
  /-- FILL (R200). -/
  | fill (cmd : Nat)
  /-- FENCEREC (R201). -/
  | fencerec (cmd : Nat)
  /-- MATTASK (R226). -/
  | mattask (cmd : Nat)
  /-- SELECT (R281). -/
  | select (cmd : Nat)
  /-- TOPK (R282). -/
  | topk (cmd : Nat)
  /-- ATTNPART (R285). -/
  | attnpart (cmd : Nat)
  /-- COLLECTIVE (R332). -/
  | collective (cmd : Nat)
  /-- TAIL_WRITE (R325). -/
  | tailWrite (queue : Nat)
  /-- PACKET_READ (R325). -/
  | packetRead (queue : Nat)
  /-- NGUKA_LAUNCH_CHECK (R351). -/
  | ngukaLaunchCheck (launch : Nat) (base : Option Nat)
  /-- DISPATCH (R22). -/
  | dispatch (group : Nat)
  /-- LAP_ENTRY (R221). -/
  | lapEntry (launch : Nat)
  /-- LAUNCH_COMPLETION (R326). -/
  | launchCompletion (launch : Nat)
  /-- QUEUE_ENABLE (R324). -/
  | queueEnable (queue : Nat)
  /-- TIER3_PROMOTION (R293). -/
  | tier3Promotion (group : Nat)
  /-- SLOT_SPILL (R169). -/
  | slotSpill (tile : Nat)
  /-- BAR0_WRITE (R324). -/
  | bar0Write (off : Nat) (value : BitVec 64)
  /-- HOST_CXL_MEM_READ (R245). -/
  | hostCxlMemRead (pa : Nat) (len : Nat)
  /-- HOST_CXL_MEM_WRITE (R245). -/
  | hostCxlMemWrite (pa : Nat) (bytes : List (BitVec 8))
  /-- HOST_ATOMIC (R249). -/
  | hostAtomic (pa : Nat) (aop : BitVec 5) (width : BitVec 2) (a : BitVec 64) (b : BitVec 64) (race : Bool)
  /-- VF_DISABLE (R303). -/
  | vfDisable
  /-- VF_ENABLE (R303). -/
  | vfEnable
  /-- PERIOD_START (R291). -/
  | periodStart
  /-- SHARE_WINDOW (R293). -/
  | shareWindow
  /-- FABRIC_ARRIVAL (R268). -/
  | fabricArrival (queue : Nat) (device : Nat) (gen : Nat) (inst : Nat)
  /-- FLIT_RECEIVE (R328). -/
  | flitReceive (port : Nat) (flit : Flit)
  /-- FABRIC_PORT_DOWN (R328). -/
  | fabricPortDown (port : Nat)
  /-- LINKERR (R327). -/
  | linkerr (port : Nat)
  /-- LINK_RETRAIN (R327). -/
  | linkRetrain (port : Nat)
  /-- ECCUNC (R320). -/
  | eccunc (site : EccSite)
  /-- MACHINECHECK (R321). -/
  | machinecheck (group : Nat)
  /-- WATCHDOG (R321). -/
  | watchdog (group : Nat)
  /-- POWER_GOOD (R334). -/
  | powerGood (part : PowerUp)
  /-- HOST_LINK_RETRY (R334). -/
  | hostLinkRetry (ok : Bool)
  /-- THERMAL_SHUTDOWN (R339). -/
  | thermalShutdown
  /-- GET_MEASUREMENTS (R335). -/
  | getMeasurements
  /-- CORE_PROGRAM_START (R363). -/
  | coreProgramStart (group : Nat) (prog : CoreStart)
  /-- CORRECTED_ERROR (R320). -/
  | correctedError
  /-- IDLE_CLOCK_INSERTION (R339). -/
  | idleClockInsertion (insert : Bool)
  deriving DecidableEq, Repr

end Sys2Proof
end

