-- ==== Sys2Proof/Machine/Form.lean ====
section
/-! DEFINITION. The opcode and format of every instruction form (R28, R36). -/

namespace Sys2Proof.Machine

/-- The fields of a word in one of the eleven formats (R28). -/
inductive Form where
  | r (f : FR)
  | i (f : FI)
  | b (f : FB)
  | m (f : FM)
  | g (f : FG)
  | l (f : FL)
  | q (f : FQ)
  | x (f : FX)
  | p (f : FP)
  | s (f : FS)
  | d (f : FD)
  deriving DecidableEq, Repr

/-- The opcode and the fields of an instruction form; none for a word without a format and for an event. -/
def formOf : Instr → Option (BitVec 8 × Form)
  | .zeroword => none
  | .illop _ => none
  | .nop f => some (0x01, .r f)
  | .br f => some (0x02, .b f)
  | .bcc f => some (0x03, .b f)
  | .bcall f => some (0x04, .b f)
  | .jr f => some (0x05, .r f)
  | .jrl f => some (0x06, .r f)
  | .loop f => some (0x07, .b f)
  | .rep f => some (0x08, .p f)
  | .fork f => some (0x09, .s f)
  | .rdv f => some (0x0A, .q f)
  | .rdvJoin _ => none
  | .endTask f => some (0x0B, .r f)
  | .taskRetire _ => none
  | .yield f => some (0x0C, .r f)
  | .pauseEnd _ => none
  | .tkgive f => some (0x0D, .q f)
  | .tktake f => some (0x0E, .q f)
  | .tkcnt f => some (0x0F, .q f)
  | .couplingTake _ => none
  | .stall _ => none
  | .add f => some (0x10, .r f)
  | .sub f => some (0x11, .r f)
  | .mul f => some (0x12, .r f)
  | .mulh f => some (0x13, .r f)
  | .div f => some (0x14, .r f)
  | .rem f => some (0x15, .r f)
  | .and f => some (0x16, .r f)
  | .or f => some (0x17, .r f)
  | .xor f => some (0x18, .r f)
  | .shl f => some (0x19, .r f)
  | .shr f => some (0x1A, .r f)
  | .sar f => some (0x1B, .r f)
  | .min f => some (0x1C, .r f)
  | .max f => some (0x1D, .r f)
  | .setcc f => some (0x1E, .r f)
  | .sel f => some (0x1F, .r f)
  | .addi f => some (0x20, .i f)
  | .andi f => some (0x21, .i f)
  | .ori f => some (0x22, .i f)
  | .xori f => some (0x23, .i f)
  | .shli f => some (0x24, .i f)
  | .shri f => some (0x25, .i f)
  | .sari f => some (0x26, .i f)
  | .setcci f => some (0x27, .i f)
  | .limm f => some (0x28, .i f)
  | .limmh f => some (0x29, .i f)
  | .clz f => some (0x2A, .r f)
  | .popc f => some (0x2B, .r f)
  | .amake f => some (0x30, .i f)
  | .aoff f => some (0x31, .r f)
  | .aoffi f => some (0x32, .i f)
  | .agets f => some (0x33, .r f)
  | .ageto f => some (0x34, .r f)
  | .csrr f => some (0x35, .i f)
  | .csrw f => some (0x36, .i f)
  | .csrset f => some (0x37, .i f)
  | .csrclr f => some (0x38, .i f)
  | .ld f => some (0x40, .m f)
  | .st f => some (0x41, .m f)
  | .ldl f => some (0x42, .q f)
  | .stl f => some (0x43, .q f)
  | .scopy f => some (0x44, .r f)
  | .szero f => some (0x45, .r f)
  | .salloc f => some (0x46, .r f)
  | .sfree f => some (0x47, .r f)
  | .sgrow f => some (0x48, .r f)
  | .sattr f => some (0x49, .r f)
  | .squery f => some (0x4A, .r f)
  | .srecall f => some (0x4B, .r f)
  | .spush f => some (0x4C, .r f)
  | .segmentWaitEnd _ => none
  | .grant _ => none
  | .push _ _ _ => none
  | .recallMove _ _ _ => none
  | .shunterMove _ _ _ => none
  | .qrd f => some (0x50, .q f)
  | .qrdLineIssue _ => none
  | .qrdLineFill _ _ => none
  | .qwr f => some (0x51, .q f)
  | .qwrLineWrite _ => none
  | .qcnt f => some (0x52, .q f)
  | .lineOperandsReady _ => none
  | .movl f => some (0x53, .l f)
  | .bcast f => some (0x54, .l f)
  | .extr f => some (0x55, .l f)
  | .ins f => some (0x56, .l f)
  | .limml f => some (0x57, .l f)
  | .fadd f => some (0x60, .l f)
  | .fsub f => some (0x61, .l f)
  | .fmul f => some (0x62, .l f)
  | .fma f => some (0x63, .l f)
  | .fmax f => some (0x64, .l f)
  | .fmin f => some (0x65, .l f)
  | .fabs f => some (0x66, .l f)
  | .fneg f => some (0x67, .l f)
  | .fexp2 f => some (0x68, .l f)
  | .flog2 f => some (0x69, .l f)
  | .frcp f => some (0x6A, .l f)
  | .frsq f => some (0x6B, .l f)
  | .fcvt f => some (0x6C, .l f)
  | .fscale f => some (0x6D, .l f)
  | .iadd f => some (0x70, .l f)
  | .isub f => some (0x71, .l f)
  | .imul f => some (0x72, .l f)
  | .imad f => some (0x73, .l f)
  | .iand f => some (0x74, .l f)
  | .ior f => some (0x75, .l f)
  | .ixor f => some (0x76, .l f)
  | .ishl f => some (0x77, .l f)
  | .ishr f => some (0x78, .l f)
  | .imin f => some (0x79, .l f)
  | .imax f => some (0x7A, .l f)
  | .fcmp f => some (0x7B, .l f)
  | .icmp f => some (0x7C, .l f)
  | .pset f => some (0x7D, .l f)
  | .psel f => some (0x7E, .l f)
  | .redsum f => some (0x80, .l f)
  | .redmax f => some (0x81, .l f)
  | .redmin f => some (0x82, .l f)
  | .scanadd f => some (0x83, .l f)
  | .perm f => some (0x84, .l f)
  | .bppack f => some (0x85, .l f)
  | .bpunp f => some (0x86, .l f)
  | .osminit f => some (0x87, .l f)
  | .osmx f => some (0x88, .l f)
  | .mldw f => some (0x90, .x f)
  | .mswap f => some (0x91, .x f)
  | .mstream f => some (0x92, .x f)
  | .mrank1 f => some (0x93, .x f)
  | .acczero f => some (0x94, .x f)
  | .accrd f => some (0x95, .x f)
  | .accwr f => some (0x96, .x f)
  | .accpin f => some (0x97, .x f)
  | .accunpin f => some (0x98, .x f)
  | .accspill f => some (0x99, .x f)
  | .accspillOther f => some (0x99, .x f)
  | .accfill f => some (0x9A, .x f)
  | .accfillOther f => some (0x9A, .x f)
  | .accRefill _ => none
  | .gdelta f => some (0x9B, .x f)
  | .gdread f => some (0x9C, .x f)
  | .ecmd f => some (0xA0, .q f)
  | .queueSpaceWaitEnd _ => none
  | .ewait f => some (0xA1, .q f)
  | .ewaitComplete _ => none
  | .epoll f => some (0xA2, .q f)
  | .elink f => some (0xA3, .q f)
  | .ekick f => some (0xA4, .q f)
  | .eqstat f => some (0xA5, .q f)
  | .spawnSeg f => some (0xA6, .q f)
  | .spawnVa f => some (0xA6, .q f)
  | .withdraw f => some (0xA7, .q f)
  | .ttread f => some (0xA8, .r f)
  | .skewack f => some (0xA9, .r f)
  | .ldg f => some (0xB0, .g f)
  | .stg f => some (0xB1, .g f)
  | .atg f => some (0xB2, .g f)
  | .relOrderWaitEnd _ => none
  | .prefg f => some (0xB3, .g f)
  | .fence f => some (0xB4, .g f)
  | .fenceComplete _ => none
  | .parkedFaultAdmit => none
  | .faultEntryPost _ => none
  | .respRetry _ _ => none
  | .respAbort _ _ => none
  | .atl f => some (0xC0, .m f)
  | .sempost f => some (0xC1, .q f)
  | .semwait f => some (0xC2, .q f)
  | .semwaitGrant _ _ => none
  | .semtry f => some (0xC3, .q f)
  | .acqbufP f => some (0xC4, .q f)
  | .acqbufC f => some (0xC4, .q f)
  | .acqbufGrant _ => none
  | .relbufP f => some (0xC5, .q f)
  | .relbufC f => some (0xC5, .q f)
  | .relbufSet f => some (0xC5, .q f)
  | .ringwait f => some (0xC6, .q f)
  | .ringwaitRelease _ _ => none
  | .ringpost f => some (0xC7, .q f)
  | .bar f => some (0xC8, .q f)
  | .barComplete _ => none
  | .agset f => some (0xD0, .q f)
  | .agget f => some (0xD1, .q f)
  | .slres f => some (0xD2, .q f)
  | .trap f => some (0xF0, .s f)
  | .eret f => some (0xF1, .s f)
  | .heldErrorTake _ => none
  | .engineErrorTrap _ => none
  | .wfe f => some (0xF2, .s f)
  | .wfeWake _ => none
  | .tlbinvVa f => some (0xF3, .s f)
  | .tlbinvCtx f => some (0xF3, .s f)
  | .tlbinvAll f => some (0xF3, .s f)
  | .preemptK f => some (0xF4, .s f)
  | .preemptR f => some (0xF4, .s f)
  | .preemptREffect _ => none
  | .preemptRFallback _ => none
  | .taskSave _ => none
  | .taskResume _ => none
  | .qkill f => some (0xF5, .s f)
  | .preset f => some (0xF6, .s f)
  | .semmapMap f => some (0xF7, .s f)
  | .semmapUnmap f => some (0xF7, .s f)
  | .partsetDef f => some (0xF8, .s f)
  | .partsetDel f => some (0xF8, .s f)
  | .partsetVfquota f => some (0xF8, .s f)
  | .partsetVfused f => some (0xF8, .s f)
  | .ctxldLoad f => some (0xF9, .s f)
  | .ctxldDestroy f => some (0xF9, .s f)
  | .ctxldHold f => some (0xF9, .s f)
  | .ctxldRelease f => some (0xF9, .s f)
  | .dbgscanOut f => some (0xFA, .s f)
  | .dbgscanIn f => some (0xFA, .s f)
  | .dbgscanRun f => some (0xFA, .s f)
  | .pool f => some (0xFE, .d f)
  | .fetchBlockFill _ => none
  | .commandDispatch _ _ => none
  | .commandRetire _ => none
  | .withdrawnStop _ => none
  | .chainEntryFetch _ => none
  | .copy _ => none
  | .mcast _ => none
  | .gather _ => none
  | .fill _ => none
  | .fencerec _ => none
  | .mattask _ => none
  | .select _ => none
  | .topk _ => none
  | .attnpart _ => none
  | .collective _ => none
  | .tailWrite _ => none
  | .packetRead _ => none
  | .ngukaLaunchCheck _ _ => none
  | .dispatch _ => none
  | .lapEntry _ => none
  | .launchCompletion _ => none
  | .queueEnable _ => none
  | .tier3Promotion _ => none
  | .slotSpill _ => none
  | .bar0Write _ _ => none
  | .hostCxlMemRead _ _ => none
  | .hostCxlMemWrite _ _ => none
  | .hostAtomic _ _ _ _ _ _ => none
  | .vfDisable => none
  | .vfEnable => none
  | .periodStart => none
  | .shareWindow => none
  | .fabricArrival _ _ _ _ => none
  | .flitReceive _ _ => none
  | .fabricPortDown _ => none
  | .linkerr _ => none
  | .linkRetrain _ => none
  | .eccunc _ => none
  | .machinecheck _ => none
  | .watchdog _ => none
  | .powerGood _ => none
  | .hostLinkRetry _ => none
  | .thermalShutdown => none
  | .getMeasurements => none
  | .coreProgramStart _ _ => none
  | .correctedError => none
  | .idleClockInsertion _ => none

/-- SYNC, zero where the format has none (R25). -/
def Form.sync : Form → BitVec 4
  | .r f => f.sync
  | .i f => f.sync
  | .b f => f.sync
  | .m f => f.sync
  | .g f => f.sync
  | .l f => f.sync
  | .q f => f.sync
  | .x f => f.sync
  | .p f => f.sync
  | .s f => f.sync
  | .d _ => 0

/-- WB, zero where the format has none (R31). -/
def Form.wb : Form → BitVec 10
  | .r _ => 0
  | .i _ => 0
  | .b _ => 0
  | .m f => f.wb
  | .g _ => 0
  | .l _ => 0
  | .q f => f.wb
  | .x f => f.wb
  | .p _ => 0
  | .s _ => 0
  | .d _ => 0

/-- The opcode of a form, 0 for an event. -/
def opOf (i : Instr) : BitVec 8 := ((formOf i).map (·.1)).getD 0

/-- The SYNC field of an instruction. -/
def syncOf (i : Instr) : BitVec 4 := ((formOf i).map (·.2.sync)).getD 0

/-- The TAKE half of SYNC (R26). -/
def takeOf (i : Instr) : Nat := (syncOf i).toNat / 4

/-- The GIVE half of SYNC (R26). -/
def giveOf (i : Instr) : Nat := (syncOf i).toNat % 4

/-- The WB field of an instruction. -/
def wbOf (i : Instr) : BitVec 10 := ((formOf i).map (·.2.wb)).getD 0

end Sys2Proof.Machine
end

