-- ==== Sys2Proof/Machine/Fields.lean ====
section
/-! DEFINITION. Check 7 of the decode order (R41): every field value of an instruction is defined and
allowed (R29 to R34 and the field tables of each instruction). -/

namespace Sys2Proof.Machine

/-- A register specifier that names a G register (R29). -/
def isG (r : BitVec 6) : Bool := r.toNat < 32

/-- A register specifier that names an A register (R29). -/
def isA (r : BitVec 6) : Bool := 32 ≤ r.toNat && r.toNat < 48

/-- G1 to G31. -/
def isG1 (r : BitVec 6) : Bool := 1 ≤ r.toNat && r.toNat < 32

/-- DIR of a line operand (R30). -/
def lineDir (l : BitVec 12) : Nat := (l.extractLsb' 6 2).toNat

/-- A line operand allowed as a source (R30). -/
def srcLineOk (l : BitVec 12) : Bool :=
  if lineDir l ≠ 3 then true
  else match (l.extractLsb' 10 2).toNat with
    | 0 => l.extractLsb' 8 2 == 0 && l.extractLsb' 5 1 == 0
    | 1 => l.extractLsb' 8 2 == 0 && l.extractLsb' 3 3 == 0
    | 2 => l.extractLsb' 8 2 == 0 && l.extractLsb' 4 2 == 0
    | _ => false

/-- A line operand allowed as a destination: an M line or a push to a drain queue (R30). -/
def dstLineOk (l : BitVec 12) : Bool :=
  lineDir l ≠ 3 || (l.extractLsb' 10 2 == 1 && l.extractLsb' 8 2 == 0 && l.extractLsb' 2 4 == 0)

/-- A destination that must be an M line. -/
def mLineOk (l : BitVec 12) : Bool := lineDir l ≠ 3

/-- PE, PRED and PN agree: with PE = 0 the other two are zero (R28). -/
def predOk (f : FL) : Bool := f.pe == 1 || (f.pred == 0 && f.pn == 0)

/-- PE, PRED and PN are all zero. -/
def noPred (f : FL) : Bool := f.pe == 0 && f.pred == 0 && f.pn == 0

/-- WB is nonzero only where a take or a blocking wait exists (R31). -/
def wbOk (wb : BitVec 10) (sync : BitVec 4) (blocks : Bool) : Bool :=
  wb == 0 || blocks || sync.toNat / 4 ≠ 0

/-- F-R with every field but SYNC zero. -/
def frZero (f : FR) : Bool := f.rd == 0 && f.ra == 0 && f.rb == 0 && f.rc == 0 && f.fn == 0

/-- The register operations of group 0x1_ (R93, R94): which FN bits are allowed. -/
def aluOk (w32 u : Bool) (f : FR) : Bool :=
  isG f.rd && isG f.ra && isG f.rb && f.rc == 0 && f.fn.extractLsb' 2 6 == 0 &&
    (w32 || f.fn.extractLsb' 0 1 == 0) && (u || f.fn.extractLsb' 1 1 == 0)

/-- COND 0 to 8, with no operands under ALWAYS (R32, R78). -/
def condOk (f : FB) : Bool :=
  isG f.ra && isG f.rb && (f.cond.toNat < 8 || (f.cond == 8 && f.ra == 0 && f.rb == 0))

/-- Immediate forms with two G registers (R96). -/
def immOk (f : FI) : Bool := isG f.rd && isG f.ra

/-- Shift immediates (R96). -/
def shiftImmOk (f : FI) : Bool := immOk f && f.imm.extractLsb' 6 34 == 0

/-- CSR words (R103). -/
def csrOk (f : FI) : Bool := immOk f && f.imm.extractLsb' 12 28 == 0

/-- AR, DISP18 and other F-Q fields that a word leaves unused (R209, R257). -/
def fqBare (f : FQ) : Bool := f.ar == 0 && f.disp == 0

/-- TKGIVE and TKTAKE (R85). -/
def tokenOk (f : FQ) : Bool :=
  fqBare f && f.qn.toNat < 4 && f.qn ≠ 0 && f.rc == 0 && f.aux.toNat < 64 && f.aux ≠ 0

/-- LDL and STL (R134). -/
def lineAccessOk (f : FQ) : Bool :=
  isG f.rc && f.aux.extractLsb' 8 2 == 0 && f.aux.extractLsb' 6 2 ≠ 3 && wbOk f.wb f.sync false

/-- F-R segment words (R136): the registers used are G registers, the rest is zero. -/
def segWordOk (useRb useRc : Bool) (f : FR) : Bool :=
  f.rd == 0 && isG f.ra && isG f.rb && isG f.rc && (useRb || f.rb == 0) && (useRc || f.rc == 0) && f.fn == 0

/-- A target queue of the engine words (R191). -/
def queueOk (qn : BitVec 4) : Bool := qn.toNat < 4 || qn == 8

/-- A floating line word (R153): formats up to `top`, rounding or not, one or two sources. -/
def floatOk (top : Nat) (rounds two : Bool) (f : FL) : Bool :=
  dstLineOk f.ld && srcLineOk f.la && (if two then srcLineOk f.lb else f.lb == 0) && predOk f &&
    f.ty.toNat ≤ top && f.fn == 0 && (if rounds then f.rm.toNat ≤ 6 else f.rm == 0)

/-- An integer line word (R155). -/
def intOk (sat : Bool) (f : FL) : Bool :=
  dstLineOk f.ld && srcLineOk f.la && srcLineOk f.lb && predOk f && 5 ≤ f.ty.toNat && f.ty.toNat ≤ 8 &&
    f.rm == 0 && f.fn.toNat ≤ (if sat then 1 else 0)

/-- A move (R152): no format, no rounding. -/
def moveOk (f : FL) : Bool := srcLineOk f.la && predOk f && f.ty == 0 && f.rm == 0

/-- REDSUM and SCANADD (R159). -/
def sumOk (f : FL) : Bool :=
  dstLineOk f.ld && srcLineOk f.la && f.lb == 0 && predOk f &&
    ((f.ty.toNat ≤ 2 && f.rm.toNat ≤ 6 && f.fn == 0) || (f.ty == 5 && f.rm == 0 && f.fn.toNat ≤ 1))

/-- REDMAX and REDMIN (R159). -/
def extremeOk (f : FL) : Bool :=
  dstLineOk f.ld && srcLineOk f.la && f.lb == 0 && predOk f && f.rm == 0 && f.fn == 0 &&
    (f.ty.toNat ≤ 2 || (5 ≤ f.ty.toNat && f.ty.toNat ≤ 8))

/-- Operand fields of PSET by FN (R157). -/
def psetOk (f : FL) : Bool :=
  noPred f && f.ty == 0 && f.rm == 0 && f.ld.toNat < 8 &&
    (match f.fn.toNat with
     | 0 | 1 => f.la == 0 && f.lb == 0
     | 2 | 3 | 4 | 5 => f.la.toNat < 8 && f.lb.toNat < 8
     | 6 => f.la.toNat < 8 && f.lb == 0
     | 7 => f.la.toNat ≤ 64 && f.lb == 0
     | 8 | 9 => f.la.toNat < 32 && f.lb == 0
     | _ => false)

/-- A matrix word with nothing but its accumulator name (R180). -/
def fxBare (f : FX) : Bool :=
  f.ar1 == 0 && f.ar2 == 0 && f.rk == 0 && f.fn == 0 && f.tw == 0 && f.ta == 0 && f.flags == 0

/-- QSRC and q of FLAGS: q is zero without QSRC, and QSRC leaves the address field zero (R180). -/
def qsrcOk (f : FX) : Bool :=
  if f.flags.extractLsb' 0 1 == 1 then f.ar1 == 0 else f.flags.extractLsb' 1 3 == 0

/-- QDST and d of FLAGS (R180); `out` says that the word writes an output. -/
def qdstOk (f : FX) (out : Bool) : Bool :=
  if f.flags.extractLsb' 4 1 == 1 then f.ar2 == 0 && out
  else f.flags.extractLsb' 5 2 == 0 && (out || f.ar2 == 0)

/-- Device memory words (R250): ORD values allowed, index allowed. -/
def fgOk (f : FG) : Bool := isG f.rd && isG f.rb && isG f.rx && f.scope == 0

/-- Count words of SEMPOST, SEMWAIT and RINGPOST: QN or RC gives the count (R257, R261). -/
def countOk (f : FQ) : Bool := fqBare f && isG f.rc && (f.rc == 0 || f.qn == 0)

/-- Supervisor words of R306. -/
def supOk (fn8 : Nat) (f : FS) : Bool :=
  f.fn8.toNat == fn8 && isG f.ra && isG f.rb && f.imm == 0

/-- A rel ordering waits for the strand's commands (R133, R269). -/
def relOrd (o : BitVec 2) : Bool := o.extractLsb' 1 1 == 1

/-- Every field value of the instruction is defined and allowed (check 7 of R41). -/
def fieldsOk : Instr → Bool
  | .nop f => frZero f
  | .br f => f.cond == 8 && f.ra == 0 && f.rb == 0
  | .bcc f => condOk f
  | .bcall f => condOk f
  | .jr f => f.rd == 0 && isG f.ra && f.rb == 0 && f.rc == 0 && f.fn == 0
  | .jrl f => isG f.rd && isG f.ra && f.rb == 0 && f.rc == 0 && f.fn == 0
  | .loop f => f.cond == 0 && isG1 f.ra && f.rb == 0
  | .rep f => f.sync == 0
  | .fork f => 1 ≤ f.fn8.toNat && f.fn8.toNat ≤ 3 && f.ra == 0 && f.rb == 0
  | .rdv f => fqBare f && f.qn == 0 && f.rc == 0 && f.aux == 0
  | .endTask f => frZero f
  | .yield f => f.rd == 0 && isG f.ra && f.rb == 0 && f.rc == 0 && f.fn == 0
  | .tkgive f => tokenOk f && f.wb == 0
  | .tktake f => tokenOk f
  | .tkcnt f => fqBare f && f.qn.extractLsb' 2 1 == 0 && f.qn.extractLsb' 0 2 ≠ 0 && isG f.rc &&
      f.aux == 0 && f.wb == 0
  | .add f | .sub f | .mul f | .and f | .or f | .xor f | .shl f | .shr f | .sar f => aluOk true false f
  | .mulh f | .div f | .rem f | .min f | .max f => aluOk true true f
  | .setcc f => isG f.rd && isG f.ra && isG f.rb && f.rc == 0 && f.fn.toNat < 8
  | .sel f => isG f.rd && isG f.ra && isG f.rb && isG f.rc && f.fn == 0
  | .addi f | .andi f | .ori f | .xori f => immOk f
  | .shli f | .shri f | .sari f => shiftImmOk f
  | .setcci f => immOk f && (f.imm.extractLsb' 36 4).toNat < 8
  | .limm f => isG f.rd && f.ra == 0
  | .limmh f => isG f.rd && f.ra == 0 && f.imm.extractLsb' 24 16 == 0
  | .clz f | .popc f => isG f.rd && isG f.ra && f.rb == 0 && f.rc == 0 && f.fn == 0
  | .amake f => isA f.rd && (f.ra == 0 || (isG f.ra && f.imm == 0))
  | .aoff f => isA f.rd && isA f.ra && isG f.rb && f.rc == 0 && f.fn.toNat < 16
  | .aoffi f => isA f.rd && isA f.ra
  | .agets f | .ageto f => isG f.rd && isA f.ra && f.rb == 0 && f.rc == 0 && f.fn == 0
  | .csrr f => csrOk f && f.ra == 0
  | .csrw f | .csrset f | .csrclr f => csrOk f
  | .ld f => isG f.rd && isG f.rx && (f.ord == 0 || f.ord == 1) && wbOk f.wb f.sync false
  | .st f => isG f.rd && isG f.rx && (f.ord == 0 || f.ord == 2) && wbOk f.wb f.sync (f.ord == 2)
  | .ldl f | .stl f => lineAccessOk f
  | .scopy f => isA f.rd && isA f.ra && f.rd ≠ f.ra && isG f.rb && f.rc == 0 && f.fn == 0
  | .szero f => isA f.rd && f.ra == 0 && isG f.rb && f.rc == 0 && f.fn == 0
  | .salloc f => segWordOk true true f
  | .sfree f | .srecall f | .spush f => segWordOk false false f
  | .sgrow f | .sattr f => segWordOk true false f
  | .squery f => isG f.rd && isG f.ra && f.rb == 0 && f.rc == 0 && f.fn.toNat ≤ 2
  | .qrd f => f.qn.toNat < 8 && isG f.rc && f.aux ≠ 0
  | .qwr f => f.qn.toNat < 4 && isG f.rc && f.aux ≠ 0
  | .qcnt f => fqBare f && f.qn.toNat < 12 && isG f.rc && f.aux.toNat ≤ 1 && f.wb == 0
  | .movl f => moveOk f && dstLineOk f.ld && f.lb == 0 && f.fn == 0
  | .bcast f => moveOk f && dstLineOk f.ld && f.lb.toNat < 64 && f.fn == 0
  | .extr f => srcLineOk f.la && f.ld.toNat < 32 && f.lb.toNat < 64 && noPred f && f.rm == 0 && f.fn == 0 &&
      (f.ty.toNat ≤ 8 || f.ty == 10)
  | .ins f => moveOk f && mLineOk f.ld && f.lb.toNat < 64 && noPred f && f.fn == 0
  | .limml f => dstLineOk f.ld && predOk f && f.ty == 0 && f.rm == 0 && f.fn.toNat ≤ 2
  | .fadd f | .fsub f | .fmul f | .fscale f => floatOk 4 true true f
  | .fma f => floatOk 4 true true f && mLineOk f.ld
  | .fmax f | .fmin f => floatOk 4 false true f
  | .fabs f | .fneg f => floatOk 4 false false f
  | .fexp2 f | .flog2 f | .frcp f | .frsq f => floatOk 2 true false f
  | .fcvt f => dstLineOk f.ld && srcLineOk f.la && f.lb == 0 && predOk f && f.rm.toNat ≤ 6 &&
      (f.ty.toNat ≤ 8 || f.ty == 10) && (f.fn.toNat ≤ 8 || f.fn == 10)
  | .iadd f | .isub f | .imul f | .ishl f => intOk true f
  | .imad f => intOk true f && mLineOk f.ld
  | .iand f | .ior f | .ixor f | .ishr f | .imin f | .imax f => intOk false f
  | .fcmp f => srcLineOk f.la && srcLineOk f.lb && predOk f && f.ld.toNat < 8 && f.ty.toNat ≤ 4 &&
      f.rm == 0 && f.fn.toNat ≤ 7
  | .icmp f => srcLineOk f.la && srcLineOk f.lb && predOk f && f.ld.toNat < 8 && 5 ≤ f.ty.toNat &&
      f.ty.toNat ≤ 8 && f.rm == 0 && f.fn.toNat ≤ 5
  | .pset f => psetOk f
  | .psel f => dstLineOk f.ld && srcLineOk f.la && srcLineOk f.lb && f.pe == 1 && f.ty == 0 && f.rm == 0 &&
      f.fn == 0
  | .redsum f | .scanadd f => sumOk f
  | .redmax f | .redmin f => extremeOk f
  | .perm f => moveOk f && dstLineOk f.ld && srcLineOk f.lb && f.fn == 0
  | .bppack f => dstLineOk f.ld && srcLineOk f.la && f.lb == 0 && predOk f && f.ty == 9 && f.rm == 0 &&
      2 ≤ f.fn.toNat && f.fn.toNat ≤ 8
  | .bpunp f => dstLineOk f.ld && srcLineOk f.la && 1 ≤ f.lb.toNat && f.lb.toNat ≤ f.fn.toNat && predOk f &&
      f.ty == 9 && f.rm == 0 && 2 ≤ f.fn.toNat && f.fn.toNat ≤ 8
  | .osminit f => mLineOk f.ld && f.la == 0 && f.lb == 0 && predOk f && f.ty == 0 && f.rm == 0 && f.fn == 0
  | .osmx f => mLineOk f.ld && srcLineOk f.la && f.lb == 0 && predOk f && f.ty == 0 && f.rm.toNat ≤ 6 &&
      f.fn == 0
  | .mldw f => f.an == 0 && f.fn == 0 && f.ta == 0 &&
      (f.tw == 1 || f.tw == 3 || f.tw == 4 || f.tw == 9) && f.flags.extractLsb' 5 5 == 0 &&
      (f.flags.extractLsb' 0 1 == 1 || f.ar2 == 0) && isG f.rk && (f.tw == 9 || f.rk == 0) &&
      (f.flags.extractLsb' 1 4).toNat ≤ 8 && (f.tw == 9 || f.flags.extractLsb' 1 4 == 0)
  | .mswap f => f.an == 0 && fxBare f
  | .mstream f => f.ar2 == 0 && isG f.rk && f.fn == 0 && f.tw == 0 && (f.ta == 1 || f.ta == 3 || f.ta == 4) &&
      f.flags.extractLsb' 4 6 == 0 && qsrcOk f
  | .mrank1 f => f.rk == 0 && f.fn == 0 && f.tw.toNat ≤ 4 && f.ta.toNat ≤ 4 && f.flags.extractLsb' 4 6 == 0 &&
      qsrcOk f && (f.flags.extractLsb' 0 1 == 0 || f.ar2 == 0)
  | .acczero f | .accpin f | .accunpin f => fxBare f
  | .accrd f => f.ar2 == 0 && isG f.rk && f.fn == 0 && f.tw.toNat ≤ 4 && f.ta == 0 && f.flags.toNat ≤ 6
  | .accwr f => f.ar2 == 0 && isG f.rk && f.fn == 0 && f.tw == 0 && f.ta.toNat ≤ 4 && f.flags == 0
  | .accspill f => f.ar2 == 0 && f.rk == 0 && f.fn == 0 && f.tw == 0 && f.ta == 0 && f.flags.toNat ≤ 1
  | .accspillOther f => f.ar2 == 0 && isG f.rk && f.fn == 0 && f.tw == 0 && f.ta == 0 &&
      (f.flags == 2 || f.flags == 3)
  | .accfill f => f.ar2 == 0 && f.rk == 0 && f.fn == 0 && f.tw == 0 && f.ta == 0 && f.flags == 0
  | .accfillOther f => f.ar2 == 0 && isG f.rk && f.fn == 0 && f.tw == 0 && f.ta == 0 && f.flags == 2
  | .gdelta f => isG f.rk && f.fn == 0 && f.tw == 0 && f.ta == 0 && f.flags.extractLsb' 8 2 == 0 && qsrcOk f &&
      qdstOk f (f.flags.extractLsb' 7 1 == 1)
  | .gdread f => isG f.rk && f.fn == 0 && f.tw == 0 && f.ta == 0 && f.flags.extractLsb' 7 3 == 0 && qsrcOk f &&
      qdstOk f true
  | .ecmd f => queueOk f.qn && isG f.rc && f.aux.toNat ≤ 1 && wbOk f.wb f.sync (f.aux == 0)
  | .ewait f => fqBare f && f.qn == 0 && f.aux.extractLsb' 7 3 == 0 && isG f.rc &&
      (f.rc == 0 || f.aux.extractLsb' 0 6 == 0)
  | .epoll f => fqBare f && f.qn == 0 && f.aux.extractLsb' 7 3 == 0 && isG f.rc &&
      (f.aux.extractLsb' 6 1 == 1 || f.aux.extractLsb' 0 6 == 0) && wbOk f.wb f.sync false
  | .elink f => f.qn == 0 && (isG f.rc || isA f.rc) && f.aux == 0 && wbOk f.wb f.sync false
  | .ekick f => f.qn.extractLsb' 1 2 == 0 && f.rc == 0 && f.aux ≠ 0 &&
      wbOk f.wb f.sync (f.qn.extractLsb' 3 1 == 0)
  | .eqstat f => fqBare f && queueOk f.qn && isG f.rc && f.aux == 0 && wbOk f.wb f.sync false
  | .spawnSeg f => f.qn == 0 && isA f.rc && f.aux.toNat ≤ 1 && wbOk f.wb f.sync (f.aux == 0)
  | .spawnVa f => f.qn == 1 && isG1 f.rc && f.aux.toNat ≤ 1 && wbOk f.wb f.sync (f.aux == 0)
  | .withdraw f => fqBare f && f.qn == 0 && isG f.rc && f.aux.toNat < 64 && (f.rc == 0 || f.aux == 0) &&
      wbOk f.wb f.sync false
  | .ttread f => isG f.rd && isG f.ra && f.rb == 0 && f.rc == 0 && f.fn.toNat ≤ 5
  | .skewack f => isG f.rd && isG f.ra && f.rb == 0 && f.rc == 0 && f.fn == 0
  | .ldg f => fgOk f && (f.ord == 0 || f.ord == 1) && f.aop == 0
  | .stg f => fgOk f && (f.ord == 0 || f.ord == 2) && f.aop == 0
  | .atg f => fgOk f && f.sh == 0 && 2 ≤ f.sz.toNat && f.aop.toNat ≤ 10 && (f.aop ≠ 10 || f.sz == 2)
  | .prefg f => fgOk f && f.rd == 0 && f.sz == 0 && f.ord == 0 && f.aop == 0
  | .fence f => f.rd == 0 && f.rb == 0 && f.rx == 0 && f.sz == 0 && f.sh == 0 && f.ord == 0 &&
      f.scope.toNat ≤ 5 && f.aop == 0 && f.disp == 0
  | .atl f => isG f.rd && isG f.rx && 2 ≤ f.sz.toNat && f.sh.toNat ≤ 10 && (f.sh ≠ 10 || f.sz == 2) &&
      wbOk f.wb f.sync (relOrd f.ord)
  | .sempost f => countOk f && wbOk f.wb f.sync false
  | .semwait f => countOk f
  | .semtry f => fqBare f && isG f.rc && wbOk f.wb f.sync false
  | .acqbufP f => fqBare f && isA f.rc && f.aux == 0
  | .acqbufC f => fqBare f && isA f.rc && f.aux == 1
  | .relbufP f => fqBare f && f.rc == 0 && f.aux == 0 && wbOk f.wb f.sync false
  | .relbufC f => fqBare f && f.rc == 0 && f.aux == 1 && wbOk f.wb f.sync false
  | .relbufSet f => fqBare f && isG f.rc && f.aux == 2 && wbOk f.wb f.sync false
  | .ringwait f => fqBare f && f.qn == 0 && isG1 f.rc && f.aux.toNat < 256
  | .ringpost f => countOk f && f.aux.toNat < 256 && wbOk f.wb f.sync false
  | .bar f => fqBare f && f.rc == 0 && f.aux == 0 && (f.qn.toNat ≤ 3 || f.qn == 5)
  | .agset f => f.rc == 0 && f.aux == 0
  | .agget f => fqBare f && isG f.rc && f.aux.toNat < 8 && wbOk f.wb f.sync false
  | .slres f => fqBare f && f.qn == 0 && isG f.rc && (f.aux.toNat ≤ 2 || f.aux == 5) && wbOk f.wb f.sync false
  | .trap f => f.fn8 == 0 && f.ra == 0 && f.rb == 0
  | .eret f => f.fn8 == 0 && f.ra == 0 && f.rb == 0 && f.imm == 0
  | .wfe f => supOk 0 f
  | .tlbinvVa f => supOk 0 f
  | .tlbinvCtx f => supOk 1 f && f.ra == 0
  | .tlbinvAll f => supOk 2 f && f.ra == 0 && f.rb == 0
  | .preemptK f | .qkill f | .preset f | .semmapMap f | .partsetDef f | .ctxldLoad f | .dbgscanOut f => supOk 0 f
  | .preemptR f | .semmapUnmap f | .partsetDel f | .ctxldDestroy f | .dbgscanIn f => supOk 1 f
  | .partsetVfquota f | .ctxldHold f => supOk 2 f
  | .dbgscanRun f => supOk 2 f && f.rb == 0
  | .partsetVfused f | .ctxldRelease f => supOk 3 f
  | .zeroword => true
  | .illop _ => true
  | .rdvJoin _ => true
  | .taskRetire _ => true
  | .pauseEnd _ => true
  | .couplingTake _ => true
  | .stall _ => true
  | .segmentWaitEnd _ => true
  | .grant _ => true
  | .push _ _ _ => true
  | .recallMove _ _ _ => true
  | .shunterMove _ _ _ => true
  | .qrdLineIssue _ => true
  | .qrdLineFill _ _ => true
  | .qwrLineWrite _ => true
  | .lineOperandsReady _ => true
  | .accRefill _ => true
  | .queueSpaceWaitEnd _ => true
  | .ewaitComplete _ => true
  | .relOrderWaitEnd _ => true
  | .fenceComplete _ => true
  | .parkedFaultAdmit => true
  | .faultEntryPost _ => true
  | .respRetry _ _ => true
  | .respAbort _ _ => true
  | .semwaitGrant _ _ => true
  | .acqbufGrant _ => true
  | .ringwaitRelease _ _ => true
  | .barComplete _ => true
  | .heldErrorTake _ => true
  | .engineErrorTrap _ => true
  | .wfeWake _ => true
  | .preemptREffect _ => true
  | .preemptRFallback _ => true
  | .taskSave _ => true
  | .taskResume _ => true
  | .pool _ => true
  | .fetchBlockFill _ => true
  | .commandDispatch _ _ => true
  | .commandRetire _ => true
  | .withdrawnStop _ => true
  | .chainEntryFetch _ => true
  | .copy _ => true
  | .mcast _ => true
  | .gather _ => true
  | .fill _ => true
  | .fencerec _ => true
  | .mattask _ => true
  | .select _ => true
  | .topk _ => true
  | .attnpart _ => true
  | .collective _ => true
  | .tailWrite _ => true
  | .packetRead _ => true
  | .ngukaLaunchCheck _ _ => true
  | .dispatch _ => true
  | .lapEntry _ => true
  | .launchCompletion _ => true
  | .queueEnable _ => true
  | .tier3Promotion _ => true
  | .slotSpill _ => true
  | .bar0Write _ _ => true
  | .hostCxlMemRead _ _ => true
  | .hostCxlMemWrite _ _ => true
  | .hostAtomic _ _ _ _ _ _ => true
  | .vfDisable => true
  | .vfEnable => true
  | .periodStart => true
  | .shareWindow => true
  | .fabricArrival _ _ _ _ => true
  | .flitReceive _ _ => true
  | .fabricPortDown _ => true
  | .linkerr _ => true
  | .linkRetrain _ => true
  | .eccunc _ => true
  | .machinecheck _ => true
  | .watchdog _ => true
  | .powerGood _ => true
  | .hostLinkRetry _ => true
  | .thermalShutdown => true
  | .getMeasurements => true
  | .coreProgramStart _ _ => true
  | .correctedError => true
  | .idleClockInsertion _ => true

end Sys2Proof.Machine
end

