-- ==== Sys2Proof/Config.lean ====
section
/-! DEFINITION. What the part fixes, and the free values: values the spec leaves open, with no body, so
that nothing can be proved of them but what holds for every choice. -/

namespace Sys2Proof.Config

/-- Granules of 64 bytes in a tile's scratchpad (02_device). -/
abbrev granules : Nat := 24576

/-- Bytes of HBM4E, which start at physical address 0 (R237). -/
abbrev hbmBytes : Nat := 2 ^ 39

/-- First address of the second tier (R237). -/
abbrev tier2Base : Nat := 2 ^ 44

/-- Address past the second tier's four windows of 2^41 bytes (R237). -/
abbrev tier2End : Nat := 2 ^ 44 + 2 ^ 43

/-- First address of host memory (R237). -/
abbrev hostBase : Nat := 2 ^ 45

/-- Address past the physical address space (R237). -/
abbrev paEnd : Nat := 2 ^ 46

/-- Address past the virtual address space (R239). -/
abbrev vaEnd : Nat := 2 ^ 52

/-- A 64-bit value the spec leaves open, one for each number (log entry 5). -/
opaque freeWord : Nat → BitVec 64

/-- A byte the spec leaves open, one for each number (log entry 5). -/
opaque freeByte : Nat → BitVec 8

/-- The route table, which the board configuration gives: the ports that lead to the devices with ID[18:6] (R328). -/
opaque routeMask : Nat → BitVec 16

/-- A doubleword of BAR0 whose value the spec does not give, by a number of its own: 0 the part number, 1 the silicon revision,
2 the DOE mailbox offset, 3 the SPDM version, and 8 + n the doubleword at offset n (R337, log entry 66). -/
opaque bar0Word : Nat → BitVec 64

/-- A signed measurement that an SPDM answer carries, by number (R335). -/
opaque measurement : Nat → BitVec 64

end Sys2Proof.Config
end

