-- ==== Sys2Proof/Machine/Sparse.lean ====
section
/-! DEFINITION. Sparse tables keyed by a number, and byte memory in its one canonical form (R3, R237). -/

namespace Sys2Proof.Machine

/-- A table of values keyed by a number. A key that is not listed has no value of its own. -/
abbrev Tab (V : Type) := List (Nat × V)

/-- The value listed under a key. -/
def tabFind {V : Type} : Tab V → Nat → Option V
  | [], _ => none
  | (k, v) :: rest, i => if k = i then some v else tabFind rest i

/-- The value under a key, or the default of a table that lists only what differs from it. -/
def tabGet {V : Type} (d : V) (m : Tab V) (i : Nat) : V := (tabFind m i).getD d

/-- Replaces or adds the value under a key, keeping keys in rising order. -/
def tabPut {V : Type} : Tab V → Nat → V → Tab V
  | [], i, v => [(i, v)]
  | (k, w) :: rest, i, v =>
    if k = i then (i, v) :: rest
    else if i < k then (i, v) :: (k, w) :: rest
    else (k, w) :: tabPut rest i v

/-- Removes a key. -/
def tabDel {V : Type} (m : Tab V) (i : Nat) : Tab V := m.filter (fun e => e.1 != i)

/-- Stores a value in a table whose unlisted keys read as `d`: the default is never listed. -/
def tabSet {V : Type} [DecidableEq V] (d : V) (m : Tab V) (i : Nat) (v : V) : Tab V :=
  if v = d then tabDel m i else tabPut m i v

/-- The smallest number from `n` on that is no key, looking at most `fuel` further. -/
def tabFree {V : Type} (m : Tab V) : Nat → Nat → Nat
  | 0, n => n
  | fuel + 1, n => if (tabFind m n).isSome then tabFree m fuel (n + 1) else n

/-- Bytes at addresses: what is listed differs from what an unlisted address reads as (R237). -/
abbrev Memory := List Host.Cell

/-- What a byte that nothing has written reads as. DESIGN CHOICE (log entry 3): zero. -/
def Memory.blank : Byte := 0

/-- The byte at an address. -/
def Memory.read : Memory → Nat → Byte
  | [], _ => Memory.blank
  | (k, v) :: rest, i => if k = i then v else Memory.read rest i

/-- Writes one byte, keeping the canonical form. -/
def Memory.write : Memory → Nat → Byte → Memory
  | [], i, v => if v = Memory.blank then [] else [(i, v)]
  | (k, w) :: rest, i, v =>
    if i < k then (if v = Memory.blank then (k, w) :: rest else (i, v) :: (k, w) :: rest)
    else if k = i then (if v = Memory.blank then rest else (i, v) :: rest)
    else (k, w) :: Memory.write rest i v

/-- Addresses strictly rising from `lo` on and no blank byte listed. -/
def Memory.wfFrom : Nat → Memory → Bool
  | _, [] => true
  | lo, (k, v) :: rest => decide (lo ≤ k) && decide (v ≠ Memory.blank) && Memory.wfFrom (k + 1) rest

/-- The canonical form: strictly rising addresses, no listed byte equal to the blank one. -/
def Memory.wf (m : Memory) : Bool := Memory.wfFrom 0 m

/-- Writes a run of bytes from an address upwards. -/
def Memory.writeBytes : Memory → Nat → List Byte → Memory
  | m, _, [] => m
  | m, a, b :: bs => Memory.writeBytes (Memory.write m a b) (a + 1) bs

/-- Reads `n` bytes from an address upwards. -/
def Memory.readBytes (m : Memory) (a : Nat) : Nat → List Byte
  | 0 => []
  | n + 1 => Memory.read m a :: Memory.readBytes (m.dropWhile (fun e => e.1 ≤ a)) (a + 1) n

/-- Little-endian value of a run of bytes: the first byte holds bits 7:0 (R3). -/
def leNat : List Byte → Nat
  | [] => 0
  | b :: bs => b.toNat + 256 * leNat bs

/-- The `n` little-endian bytes of a value (R3). -/
def leBytes : Nat → Nat → List Byte
  | 0, _ => []
  | n + 1, v => BitVec.ofNat 8 v :: leBytes n (v / 256)

end Sys2Proof.Machine
end

