-- ==== Sys2Proof/Machine/Value.lean ====
section
/-! DEFINITION. Numbers as the arithmetic units hold them: exactly decoded element values (R48 to R52, R163). -/

namespace Sys2Proof.Machine

/-- The number a code stands for; a NaN is held as the quiet FP32 code it converts to (R62). -/
inductive FVal where
  | nan (code : BitVec 32)
  | inf (neg : Bool)
  /-- Sign and magnitude: mag × 2^exp. -/
  | fin (neg : Bool) (mag : Nat) (exp : Int)
  deriving DecidableEq, Repr

/-- A value with the mark of a signalling NaN (R49). -/
structure Num where
  val : FVal
  sig : Bool
  deriving DecidableEq, Repr

/-- The value +0.0. -/
def Num.zero : Num := ⟨.fin false 0 0, false⟩

end Sys2Proof.Machine
end

