-- ==== Sys2Proof/Machine/State.lean ====
section
/-! DEFINITION. The state of the EVK-4812 as plain data: every register, store, queue and record that the
spec gives the device, and the state after reset. INVENTORY.md lists each field with its rule. -/

namespace Sys2Proof.Machine

/-- The state of a sequencer (R69). -/
inductive RunState where
  | idle | running | waiting | arrived | parked
  deriving DecidableEq, Repr

/-- User or supervisor mode (R308). -/
inductive Mode where
  | user | supervisor
  deriving DecidableEq, Repr

/-- What a waiting word waits for; each has its own completion event in the opcode table. -/
inductive WaitFor where
  | take | tokens | rdvJoin | taskEnd | segment | grant | queueSpace | drainLine | lineOperands | accRefill
  | engineSpace | ewait | relOrder | fence | semaphore | ringSlot | buffer | barrier | preempt | frozen
  deriving DecidableEq, Repr

/-- A blocking wait in force (R74, R75). -/
structure Wait where
  what : WaitFor
  kind : BitVec 4
  name : BitVec 12
  /-- Source number of the party that would end the wait, 7 when there is no single one. -/
  psrc : BitVec 3
  /-- The producing strand of the same task, when there is one. -/
  prod : Option Nat
  /-- Bound code in force. -/
  code : BitVec 10
  /-- Clocks counted. -/
  count : Nat
  /-- CYCLE when it began (R264). -/
  began : Nat
  /-- False: no stall counter runs for this wait. -/
  bounded : Bool
  /-- The waiting word, a governed word with its steps applied. -/
  instr : Instr
  deriving DecidableEq, Repr

/-- A pause, which is no blocking wait (R83, R318). -/
inductive Pause where
  /-- YIELD: issue resumes when CYCLE reaches the number; DEBUG at the word of an address is due then (R311). -/
  | yield (till : Nat) (step : Option Word)
  /-- WFE: the timeout, if any, and the word. -/
  | wfe (till : Option Nat) (f : FS)
  deriving DecidableEq, Repr

/-- A REP sequence in force (R86). -/
structure Rep where
  rem : Nat
  offd : Int
  offa : Int
  offb : Int
  /-- The governed word, once it has passed its checks and its take. -/
  word : Option Instr
  deriving DecidableEq, Repr

/-- An engine error on its way to a strand (R203, R315). -/
structure EngineError where
  cond : Nat
  src : Nat
  /-- UNIT of a fault-queue entry for it (R243). -/
  unit : Nat
  d0 : Word
  d1 : Word
  deriving DecidableEq, Repr

/-- Access kinds of a fault record (R243). -/
inductive Access where
  | read | write | atomic | fetch | table
  deriving DecidableEq, Repr

/-- Who stopped at a fault. -/
inductive Party where
  | core (c : CoreId)
  | command (id : Nat)
  /-- Nguka, which allocates the segments of a launch, or of a core program (R116, R363). -/
  | loader (launch : Nat)
  | boxLoader (group : Nat)
  /-- An operand queue of a resumed task, which reads its lines again (R150). -/
  | refetch (tile q : Nat)
  /-- A matrix engine, which reads a plane of a resumed task again (R176). -/
  | reload (tile : Nat) (shadow : Bool)
  deriving DecidableEq, Repr

/-- A failed translation with what its fault-queue entry records (R240, R243). -/
structure FaultInfo where
  party : Party
  ctx : Nat
  cond : Nat
  reason : Nat
  level : Nat
  /-- The failing entry is the leaf of a 2 MiB page. -/
  mega : Bool
  va : Nat
  acc : Access
  size : Nat
  tile : Nat
  unit : Nat
  src : Nat
  pc : Word
  done : Nat
  /-- It had to wait for an entry, which PRQPARK reports (R242). -/
  queued : Bool
  deriving DecidableEq, Repr

/-- Why a strand is PARKED (R69, R178, R313). -/
inductive ParkWhy where
  | fault (f : FaultInfo)
  | trapped
  | preempted
  deriving DecidableEq, Repr

/-- A pin that a command holds on a segment copy: its granules count against a client of the tile (R125). -/
structure Pin where
  ctx : Nat
  seg : Nat
  tile : Nat
  client : Nat
  gran : Nat
  deriving DecidableEq, Repr

/-- The answer of a tile's residency manager to a queued request: the footprint is granted, or traps with a condition and
two details (R126). -/
structure GrantAnswer where
  tile : Nat
  items : List (Nat × Nat)
  trap : Option (Nat × Word × Word)
  deriving DecidableEq, Repr

/-- A walk of the page tables whose access is under way: the level and the address of the table to be read next, and whether an
entry read so far carried poison (R240). -/
structure Walk where
  ctx : Nat
  va : Nat
  level : Nat
  base : Nat
  bad : Bool
  deriving DecidableEq, Repr

/-- One strand: its registers, its strand-scope CSRs and how it stands (R69, R91, R104, R311). -/
structure Strand where
  run : RunState
  mode : Mode
  pc : Word
  g : Vector Word 32
  a : Vector Word 16
  waitdef : BitVec 10
  fpFlags : BitVec 6
  fpEn : BitVec 6
  rmdyn : BitVec 3
  tpc : Word
  tcause : BitVec 9
  tdetail0 : Word
  tdetail1 : Word
  trep : Word
  tscratch : Word
  nest : Bool
  ss : Bool
  tkd : Bool
  pm : Bool
  errors : List EngineError
  takeDone : Bool
  wait : Option Wait
  pause : Option Pause
  wake : BitVec 6
  rep : Option Rep
  park : Option ParkWhy
  /-- Bytes that a REP step adds to DISP18 in the pass under way; 0 outside one (R39). -/
  dispStep : Int
  /-- The answer to a grant request of the word at the PC, not yet used (R125). -/
  granted : Option GrantAnswer
  /-- The state to return to when a pre-emption's park ends. -/
  under : RunState
  /-- The bytes that a portion of an SCOPY has read and is to write, and the pins it holds until then (R125, R135). -/
  staged : Option (List Byte)
  /-- Accesses that a word which keeps no record of its progress has made (R186). -/
  step : Nat
  pins : List Pin
  /-- The name of an SALLOC in progress, of which some copies are made (R136). -/
  making : Option Nat
  /-- The word, under its pins, has met a segment on the move, which absence tracing reports (R120, R124). -/
  met : Bool
  /-- The walk that an access of the word at the PC has begun (R240). -/
  walk : Option Walk
  /-- The packet that a SPAWN in its wait for room has read, with its tile, if it names one, and its cluster (R223). -/
  spawning : Option (BitVec 512 × Option Nat × Nat)
  /-- The word at the PC, or the REP there, when it has begun and more rows or portions of it follow (R135, R182). -/
  going : Option Instr
  /-- A trap has been taken, and the first word of its handler has not issued (R313). -/
  entering : Bool
  /-- PC of the last word issued (R75). -/
  lastPc : Word
  deriving DecidableEq, Repr

/-- A strand that no FORK or task start has reached: idle, every register zero (log entry 2). -/
def Strand.blank : Strand where
  run := .idle
  mode := .user
  pc := 0
  g := Vector.replicate 32 0
  a := Vector.replicate 16 0
  waitdef := 0
  fpFlags := 0
  fpEn := 0
  rmdyn := 0
  tpc := 0
  tcause := 0
  tdetail0 := 0
  tdetail1 := 0
  trep := 0
  tscratch := 0
  nest := false
  ss := false
  tkd := false
  pm := false
  errors := []
  takeDone := false
  wait := none
  pause := none
  wake := 0
  rep := none
  park := none
  dispStep := 0
  granted := none
  under := .idle
  staged := none
  step := 0
  pins := []
  making := none
  met := false
  walk := none
  spawning := none
  going := none
  entering := false
  lastPc := 0

/-- A cached translation: the page of a context and its leaf entry (R239, R241). -/
structure Xlat where
  ctx : Nat
  base : Nat
  mega : Bool
  leaf : Word
  deriving DecidableEq, Repr

/-- A fetch block in the instruction cache (R42, R71). -/
structure FetchBlock where
  ctx : Nat
  va : Nat
  /-- The leaf entry the fetch was translated with. -/
  leaf : Word
  words : List Word
  deriving DecidableEq, Repr

/-- A fetch block on its way to a tile's cache: the words read so far, by number (R44). -/
structure BlockRead where
  ctx : Nat
  va : Nat
  leaf : Word
  pa : Nat
  got : Tab Word
  deriving DecidableEq, Repr

/-- Where the data of a segment copy is (R120). -/
inductive Residency where
  | resident
  | pushed
  /-- On its way to the sidings. -/
  | pushing
  /-- On its way back. -/
  | recalling
  /-- On its way to a run that begins at a granule, with the granules that have arrived there (R124). -/
  | sliding (dest moved : Nat)
  deriving DecidableEq, Repr

/-- One copy of a segment: its residency, its first granule, when it was last touched, its bytes, the 64-byte
sectors that carry poison, and the 64-byte blocks of the sidings that hold its image (R119, R120, R123, R320). -/
structure SegCopy where
  res : Residency
  base : Nat
  touch : Nat
  data : Memory
  poison : List Nat
  side : List Nat
  deriving DecidableEq, Repr

/-- A segment descriptor (R115) with its copies by tile (R118). -/
structure Segment where
  bytes : Nat
  home : Nat
  /-- Bits 47:0 of the attribute word. -/
  attr : Word
  /-- An SALLOC is making its copies: the name is still unallocated to every access (R136, R137). -/
  making : Bool
  copies : Tab SegCopy
  deriving DecidableEq, Repr

/-- A grant request in a tile's queue (R126). A background recall has no party (R136). -/
structure GrantReq where
  party : Option Party
  /-- The tile that asks. -/
  from_ : Nat
  ctx : Nat
  client : Nat
  /-- The footprint: names with the granules each is to have. -/
  items : List (Nat × Nat)
  /-- The items are segments to allocate. -/
  alloc : Bool
  since : Nat
  /-- An absent segment was recalled for it (R120). -/
  recalled : Bool
  /-- RESQUOTA when it was queued (R127). -/
  quota : Nat
  /-- RESQUOTA and the client's floor when it was admitted: under these it completes (R112). -/
  terms : Option (Nat × Nat)
  /-- The Shunter gathers a run for it (R353). -/
  gathers : Bool
  deriving DecidableEq, Repr

/-- The running task of a tile (R17, R218, R224). -/
structure Task where
  /-- A number of its own, so that commands name their task. -/
  serial : Nat
  ctx : Nat
  launch : Nat
  /-- None for a spawned task. -/
  index : Option Nat
  lap : Nat
  tier : Nat
  deadline : Word
  age : Nat
  /-- Hardware queue and position of the launch packet. -/
  queue : Nat
  pos : Nat
  pool : Bool
  /-- CYCLE when the task's lap entered the heap (R234). -/
  lapAt : Nat
  /-- What a save has left to report with PREEMPTED (R310). -/
  preempted : Bool
  deriving DecidableEq, Repr

/-- The queue that holds a command (R191). -/
inductive EngQueue where
  | ce (n : Nat)
  | ns (slice : Nat)
  | mx (tile : Nat)
  | pool (cluster : Nat)
  deriving DecidableEq, Repr

/-- How far a command has come (R192, R202). -/
inductive CmdState where
  | queued
  | running
  | parked
  /-- Every write made; retirement is next. -/
  | written
  deriving DecidableEq, Repr

/-- A chain in progress (R206, R207). -/
structure Chain where
  /-- Where the next entry is fetched, in the form of LINK. -/
  next : Word
  /-- Entries retired. -/
  count : Nat
  max : Nat
  /-- True while the fetched entry is not retired. -/
  loaded : Bool
  /-- STATUS of the entry that retired last, not yet written into it. -/
  status : Option (BitVec 16)
  deriving DecidableEq, Repr

/-- A range of a command's footprint, first and last byte (R205). -/
structure Range where
  /-- A range of virtual addresses; else of the segment `name`. -/
  isVa : Bool
  name : Nat
  lo : Nat
  hi : Nat
  write : Bool
  deriving DecidableEq, Repr

/-- The triple of a participant of ATTNPART, as FP32 codes (R285). -/
structure Triple where
  m : BitVec 32
  l : BitVec 32
  o : List (BitVec 32)
  deriving DecidableEq, Repr

/-- An output block of MATTASK in progress (R226): the rows of D that are read, the K-steps done, the FP32 codes so far, the
elements of the block that are written, and the flags. -/
structure MatBlock where
  read : Nat
  /-- Rows of B and of A that the K-step under way has read. -/
  bRows : List (List Num)
  aRows : List (List Num)
  steps : Nat
  acc : List (List (BitVec 32))
  written : Nat
  flags : BitVec 6
  deriving DecidableEq, Repr

/-- Partial state of a near-slice command (R280). -/
structure NearWork where
  /-- 64-byte sectors read so far, and the last of them. -/
  sectors : Nat
  last : Option Nat
  count : Nat
  nans : Nat
  /-- Pairs of SELECT so far, index and code. -/
  hits : List (Nat × Nat)
  /-- Ranked elements of TOPK so far. -/
  ranked : List (Nat × FVal)
  /-- Scale bytes, plane bytes and planes read by group of a BP source, and the sectors still to read in the round. -/
  scales : List Nat
  planes : Memory
  got : Tab Nat
  todo : List Nat
  /-- Elements of the row under way that ATTNPART has read: code and scale. -/
  row : List (Nat × Nat)
  /-- The query row and the triples by slice of ATTNPART. -/
  query : List (BitVec 32)
  triples : Tab Triple
  /-- The record once it is formed, and the portions of it that are written. -/
  record : Option (List Byte)
  written : Nat
  deriving DecidableEq, Repr

/-- Nothing read yet. -/
def NearWork.zero : NearWork :=
  { sectors := 0, last := none, count := 0, nans := 0, hits := [], ranked := [], scales := [], planes := [], got := [],
    todo := [], row := [], query := [], triples := [], record := none, written := 0 }

/-- A command from its enqueue to its retirement (R191 to R203, R227 to R231). -/
structure Cmd where
  raw : BitVec 1024
  queue : EngQueue
  tile : Nat
  seq : Nat
  /-- A command of a Signal box core program (R377). -/
  box : Bool
  ctx : Nat
  task : Nat
  /-- Its task's launch; none for a core program. -/
  launch : Option Nat
  pos : Nat
  hwq : Nat
  /-- Its address: NAME and OFF as in an A register, or 2^63 + VA. -/
  addr : Word
  state : CmdState
  engine : Nat
  progress : Nat
  flags : BitVec 6
  /-- Sticky bits of R276 that its retirement sets. -/
  sticky : BitVec 5
  demand : Nat
  withdrawals : Nat
  withdrawn : Bool
  absorbed : Bool
  /-- Place in enqueue order, and CYCLE when it entered (R205). -/
  entered : Nat
  clock : Nat
  /-- It has been dispatched, so that its waits are over. -/
  begun : Bool
  ranges : List Range
  /-- The range checker still holds the command behind these. -/
  behind : List Nat
  pins : List Pin
  /-- Segment names of its footprint. -/
  names : List Nat
  /-- Settle summaries that every element written so far fits: ZERO, ONES, POSINF, NEGINF (R228). -/
  fits : BitVec 4
  wrote : Bool
  /-- Elements of the portion under way that have been read, each its code, its scale and the scale of its destination;
  whether all are there; and the planes of it that are written (R202). -/
  reads : List (Nat × Nat × Nat)
  ready : Bool
  sub : Nat
  /-- The output block of a MATTASK in progress. -/
  block : Option MatBlock
  chain : Option Chain
  /-- The state to return to when a pre-emption's park ends. -/
  under : CmdState
  /-- The context is pre-empted or disabled: the command goes on when it resumes. -/
  held : Bool
  /-- A portion's recoverable fault waits for its answer. -/
  faulted : Bool
  /-- An access under its pins has met a segment on the move (R120, R124). -/
  met : Bool
  /-- The walk that an access of the portion under way has begun (R240). -/
  walk : Option Walk
  /-- A post has satisfied its ring wait (R261). -/
  ringSeen : Bool
  /-- Its number among the launch's COLLECTIVE commands with its TAG (R332). -/
  inst : Nat
  /-- Elements of its source that a COLLECTIVE has read and sent, and the flits that carry them (R332). -/
  fed : Nat
  sent : Nat
  /-- Acknowledgements and data that have come over the fabric for the portion under way. -/
  acks : Nat
  inbox : List Byte
  /-- Its flits in flight, each its sequence number and its port, and the port at which the turn for its next one begins
  (R328). -/
  flights : List (Nat × Nat)
  turn : Nat
  /-- The tile and the number of the anonymous accumulator slot it holds (R226). -/
  anon : Option (Nat × Nat)
  /-- The absorbing test that decided an absorbed firing (R229). -/
  test : Nat
  /-- Partial state of a near-slice command between portions. -/
  work : Option NearWork
  deriving DecidableEq, Repr

/-- A ring of a tile's ring table (R263). -/
structure BufRing where
  ctx : Nat
  base : Nat
  slots : Nat
  pa : Nat
  pr : Nat
  ca : Nat
  cr : Nat
  /-- CYCLE and sequencer of the last ACQBUF or RELBUF applied: those of one clock go by sequencer number (R264). -/
  lastAt : Nat
  lastSeq : Nat
  deriving DecidableEq, Repr

/-- A physical semaphore: its count and its waiters, the head first (R256). -/
structure Sem where
  count : Nat
  queue : List CoreId
  /-- Units posted in the present clock, which the head may take from the next (R258). -/
  posted : Nat
  /-- A waiter has taken its units in the present clock: the next one takes in a later one (R258). -/
  taken : Bool
  deriving DecidableEq, Repr

/-- A semaphore at count 0 without waiters. -/
def Sem.zero : Sem := { count := 0, queue := [], posted := 0, taken := false }

/-- A pre-emption under way on a tile (R177, R178, R298): KIND of its save, CYCLE when it reached the tile, the cores
that wait for it with their contexts, the R69 states found, and the clocks for which X has waited for operands since. -/
structure Preempt where
  kind : Nat
  /-- It has taken effect: the strands are to park. -/
  effect : Bool
  since : Nat
  by_ : List (Nat × CoreId)
  states : List Nat
  operands : Nat
  deriving DecidableEq, Repr

/-- The context state block (R295). -/
structure CtxBlock where
  rings : BitVec 8
  part : BitVec 6
  queue : BitVec 10
  vf : BitVec 5
  vfv : Bool
  tier : BitVec 2
  ptbase : Nat
  sidbase : Nat
  sidsize : Nat
  fqbase : Nat
  savebase : Nat
  resq : Nat
  skew : BitVec 32
  replay : Nat
  deriving DecidableEq, Repr

/-- What an unanswered fault-queue entry belongs to (R243). -/
inductive FqOwner where
  | pageRequest (id : Nat)
  | trapPark (c : CoreId)
  | notice
  deriving DecidableEq, Repr

/-- A partition (R288, R289) with its use of the running period (R291). -/
structure Partition where
  clusters : Word
  tshare : Nat
  fabric : Nat
  tier2 : Nat
  host : Nat
  borrow : Bool
  used : Nat
  deriving DecidableEq, Repr

/-- A virtual function (R302, R303). -/
structure VirtFn where
  quota : Nat
  used : Nat
  deriving DecidableEq, Repr

/-- An entry of the page-request queue with its parties in the order in which they joined (R242, R356). -/
structure PageRequest where
  ctx : Nat
  page : Nat
  mega : Bool
  cls : Access
  seq : Nat
  reserved : Option Nat
  parties : List FaultInfo
  deriving DecidableEq, Repr

/-- The machine stops with a fault of this kind. -/
inductive Fault where
  /-- Raised by PACKET_READ and LAUNCH_COMPLETION when a queue's descriptor, changed after its check, puts a ring where
  the spec lays no storage (R237): no rule names a trap or an effect. Safe. -/
  | noStorage (pa : Nat)
  deriving DecidableEq, Repr

/-- The model gives no meaning. -/
inductive Refusal where
  /-- Raised by an arm of `exec` whose instruction has no meaning in the model yet. Safe. -/
  | notModelled (mnemonic : String)
  deriving DecidableEq, Repr

/-- A line: 64 slots of 32 bits (R139). -/
abbrev Line := Vector Slot 64

/-- A line of zeros. -/
def Line.zero : Line := Vector.replicate 64 0

/-- STATE of a queue record (R144). -/
inductive QState where
  | idle | active | parked | poisoned
  deriving DecidableEq, Repr

/-- A line in an operand or drain queue; an operand line keeps where it was read from, for a refetch (R143, R150). -/
structure QLine where
  filled : Bool
  /-- Discarded at a pre-emption: it is to be read again (R150). -/
  again : Bool
  data : Line
  ctx : Nat
  name : Nat
  tile : Nat
  off : Nat
  width : Nat
  /-- Its parity is uncorrectable (R320). -/
  bad : Bool
  deriving DecidableEq, Repr

/-- An operand or drain queue with its record (R143, R144, R149, R150). -/
structure Queue where
  state : QState
  /-- A word of the strand's trap handler parked it. -/
  sup : Bool
  next : Nat
  rem : Nat
  lines : List QLine
  /-- Cause of the failed refetch that poisoned the queue. -/
  cause : BitVec 9
  deriving DecidableEq, Repr

/-- An empty queue, IDLE (R139). -/
def Queue.empty : Queue := { state := .idle, sup := false, next := 0, rem := 0, lines := [], cause := 0 }

/-- A load record of a plane or a binding (R163, R167, R173). -/
structure LoadRec where
  /-- The A-register value of the MLDW. -/
  src : Word
  tw : Nat
  planes : Nat
  jp : Nat
  sp : Bool
  maddr : Word
  soff : Word
  deriving DecidableEq, Repr

/-- The record of a plane that nothing was loaded into (R163). -/
def LoadRec.zero : LoadRec := { src := 0, tw := 0, planes := 0, jp := 0, sp := false, maddr := 0, soff := 0 }

/-- A weight plane: the 128 weights of each column and, for a sparse one, their positions in groups of four; a column
that is not listed holds +0.0 (R163, R165). -/
structure Plane where
  cols : Tab (List Num)
  pos : Tab (List Nat)
  load : LoadRec
  /-- The condition that made its reload impossible, with its details (R176). -/
  unloaded : Option (Nat × Word × Word)
  /-- Its reload waits for a grant. -/
  pending : Bool
  deriving DecidableEq, Repr

/-- A plane as at task start (R163). -/
def Plane.blank : Plane := { cols := [], pos := [], load := LoadRec.zero, unloaded := none, pending := false }

/-- STATE of the engine's progress record (R174). -/
inductive ProgState where
  | idle | active | parked
  deriving DecidableEq, Repr

/-- The engine's progress record (R174). -/
structure Progress where
  state : ProgState
  /-- A word of X's trap handler parked it. -/
  sup : Bool
  an : Nat
  kind : Nat
  next : Nat
  /-- Flags that the word in progress has raised so far, for its FPEXC (R106). -/
  flags : BitVec 6
  /-- The header of an image that the word in progress has read; empty when it has written one (R186). -/
  head : Option (List Byte)
  /-- Lines popped for the token under way, which waits for its grant (R180). -/
  held : List QLine
  deriving DecidableEq, Repr

/-- The record IDLE. -/
def Progress.zero : Progress := { state := .idle, sup := false, an := 0, kind := 0, next := 0, flags := 0, head := none, held := [] }

/-- Data in flight in a frozen cell, as a scan image holds it: PSUM, ACT and VALID (R322). -/
structure Flight where
  psum : BitVec 32
  act : BitVec 32
  valid : BitVec 2
  deriving DecidableEq, Repr

/-- A row of activations in the array (R64, R175, R179): the activations, and for each column the rows of the plane that its
sum has gone through, the partial sum and the flags raised; and the depth of the wavefront at the last freeze (log
entry 14). -/
structure Wave where
  acts : List Num
  sums : List (Nat × Nat × BitVec 6)
  front : Nat
  deriving DecidableEq, Repr

/-- A tile's matrix engine (R163, R174, R322). -/
structure Engine where
  active : Plane
  shadow : Plane
  prog : Progress
  frozen : Bool
  /-- CYCLE at the freeze. -/
  frozenAt : Nat
  /-- Cells of a frozen array with data in flight, by cell number. -/
  flight : Tab Flight
  /-- The row that has entered and is not yet added into its accumulator (R175). -/
  wave : Option Wave
  deriving DecidableEq, Repr

/-- An engine on which no word has run. -/
def Engine.blank : Engine :=
  { active := Plane.blank, shadow := Plane.blank, prog := Progress.zero, frozen := false, frozenAt := 0, flight := [],
    wave := none }

/-- Where the content of a binding is (R167, R169). -/
inductive AccLoc where
  | live (slot : Nat)
  | spilled
  /-- On its way to the sidings. -/
  | spilling (slot : Nat)
  /-- On its way back. -/
  | filling (slot : Nat)
  deriving DecidableEq, Repr

/-- A row of an accumulator: 128 FP32 codes. -/
abbrev AccRow := List (BitVec 32)

/-- A row of +0.0. -/
def AccRow.zero : AccRow := List.replicate 128 0

/-- An accumulator binding (R167 to R173). -/
structure Acc where
  loc : AccLoc
  pin : Bool
  opened : Bool
  vrows : Nat
  poison : Bool
  load : LoadRec
  /-- Rows by number; a row of +0.0 when not listed. -/
  rows : Tab AccRow
  /-- Rows with a parity error (R172). -/
  bad : List Nat
  touch : Nat
  /-- It holds an entry of the tile's ownership table (R168). -/
  entry : Bool
  /-- The 64-byte blocks of the sidings that hold its image (R169). -/
  side : List Nat
  /-- The block of the sidings that holds its entry while another binding has its place in the table (R168). -/
  dir : List Nat
  deriving DecidableEq, Repr

/-- One tile with its four strands and everything it holds (02_device, R17). -/
structure Tile where
  /-- C, L, X, S. -/
  strands : Vector Strand 4
  /-- Tokens of the coupling from `a` to `b`, under key 4a + b; 0 when not listed (R72). -/
  couplings : Tab Nat
  /-- Tokens that cannot be taken in the present clock, by coupling (R73); 0 when not listed. -/
  given : Tab Nat
  task : Option Task
  /-- Event flags E0 to E63 (R204). -/
  flags : Word
  /-- Settle summaries of the flags (R228); 0 when not listed. -/
  settle : Tab Nat
  /-- Flags that commands have set in the present clock, and those flags and summaries as they stood before (R193). -/
  setNow : Word
  wasSet : Word
  wasSettle : Tab Nat
  floors : Vector (BitVec 15) 7
  tvec : BitVec 52
  leasestall : Word
  tlb : List Xlat
  icache : List FetchBlock
  /-- Fetch blocks of which some words have been read (R44). -/
  fetching : List BlockRead
  grants : List GrantReq
  /-- Rows of M0 to M15, row r of Md under key 64 d + r; a line of zeros when not listed (R139). -/
  m : Tab Line
  /-- Sectors of the M file that carry poison: sector k of row r of Md is 256 d + 4 r + k (R320). -/
  mBad : List Nat
  p : Vector Word 8
  qs : Vector Queue 8
  ds : Vector Queue 4
  mx : Engine
  /-- The ring table (R263). -/
  rings : Tab BufRing
  preempt : Option Preempt
  deriving DecidableEq, Repr

/-- A tile on which no task has run. -/
def Tile.blank : Tile where
  strands := Vector.replicate 4 Strand.blank
  couplings := []
  given := []
  task := none
  flags := 0
  settle := []
  setNow := 0
  wasSet := 0
  wasSettle := []
  floors := Vector.replicate 7 0
  tvec := 0
  leasestall := 0
  tlb := []
  icache := []
  fetching := []
  grants := []
  m := []
  mBad := []
  p := Vector.replicate 8 0
  qs := Vector.replicate 8 Queue.empty
  ds := Vector.replicate 4 Queue.empty
  mx := Engine.blank
  rings := []
  preempt := none

/-- A context (R295) with its names, queues and records. -/
structure Context where
  block : CtxBlock
  /-- RESQUOTA by tile, where it differs from RESQ (R109). -/
  resquota : Tab Nat
  skewbound : BitVec 32
  trace : BitVec 3
  segs : Tab Segment
  /-- Accumulator bindings, ACCn of tile t under key 8 t + n (R167). -/
  accs : Tab Acc
  /-- Bytes of sidings in use (R123). -/
  sidings : Nat
  /-- Sequence number of the next fault-queue entry (R243). -/
  fqNext : Nat
  /-- Unanswered entries by sequence number. -/
  fqOpen : Tab FqOwner
  /-- Parks of R313 whose entries wait for a slot, oldest first: the strand, the cause, the unit and the PC. -/
  fqDeferred : List (CoreId × BitVec 9 × Nat × Word)
  fqLost : Nat
  /-- Bases of the code objects that Nguka has loaded (R351). -/
  bases : List Nat
  /-- Semaphore maps: physical number of virtual number v in stack group g under key 1024 g + v (R255). -/
  semMap : Tab Nat
  /-- Ring-slot counters; 0 when not listed (R260). -/
  ringCtr : Tab Nat
  /-- AG registers, the same in every slice; 0 when not listed (R273). -/
  ags : Tab (BitVec 512)
  /-- Sticky words and sector counts of SLRES by slice (R276). -/
  sticky : Tab (BitVec 5)
  scanned : Tab Nat
  deriving DecidableEq, Repr

/-- A hardware queue as its monitor knows it (R324, R325, R364). -/
structure HwQueue where
  /-- EN has been checked. -/
  en : Bool
  qerr : Bool
  /-- TAIL in force. -/
  tail : Nat
  head : Nat
  /-- Dispatch is held (R306, R364). -/
  held : Bool
  /-- Tails observed, each with the CYCLE of its observation (R22). -/
  ages : List (Nat × Nat)
  /-- GEN of the last replicated launch (R333). -/
  lastGen : Nat
  /-- Arrivals held: device, generation, instance (R268). -/
  arrivals : List (Nat × Nat × Nat)
  /-- Clocks for which it has held a ready tier-3 packet with none of its tasks dispatched (R293, R364). -/
  waited : Nat
  deriving DecidableEq, Repr

/-- A queue that no write has reached. -/
def HwQueue.blank : HwQueue :=
  { en := false, qerr := false, tail := 0, head := 0, held := false, ages := [], lastGen := 0, arrivals := [], waited := 0 }

/-- How far a launch has come (R219, R221, R268). -/
inductive LaunchState where
  /-- Its packet is read; Nguka has not checked it. -/
  | checking
  /-- Its tasks run, or wait in the heaps. -/
  | running
  /-- No task of it is to run any more. -/
  | ended
  deriving DecidableEq, Repr

/-- Segments that Nguka is to allocate for a launch or a core program (R116, R117): the base of the code object and the home
tile, the segments still to come, each a name with its BYTES and image offset, the names allocated so far, and the answer to
the request for the first of them: granted, or not. -/
structure Loading where
  base : Nat
  home : Nat
  todo : List (Nat × Nat × Nat)
  made : List Nat
  answer : Option Bool
  deriving DecidableEq, Repr

/-- A launch from the read of its packet to its completion record (R217 to R222, R326). -/
structure Launch where
  queue : Nat
  pos : Nat
  ctx : Nat
  tier : Nat
  packet : BitVec 512
  age : Nat
  state : LaunchState
  waitdef : BitVec 10
  kdepth : Nat
  laps : Nat
  hold : Bool
  /-- Tasks whose laps have entered (R221). -/
  next : Nat
  /-- The lap that entered last, its tasks (index, tile, POOL), when it entered, and its tasks left. -/
  lap : Nat
  entries : List (Nat × Nat × Bool)
  lapAt : Nat
  left : Nat
  /-- Retirements of the lap under way (R222). -/
  firstEnd : Nat
  lastEnd : Nat
  bound : Nat
  /-- The skew record, 0 with no event pending. -/
  skew : Word
  /-- The lap under way has raised a skew event. -/
  raised : Bool
  retired : Nat
  refuse : Nat
  outcome : Nat
  cause : Nat
  /-- Device IDs of a replicated launch, its own included, and its generation (R333). -/
  members : List Nat
  gen : Nat
  /-- Barriers of scope FABRIC completed, the start barrier included (R268). -/
  fabInst : Nat
  /-- COLLECTIVE commands issued so far, by TAG (R332). -/
  colls : List (Nat × Nat)
  /-- Wanted floors by client, once Nguka has read the code object, and the tiles on which they are set (R131). -/
  wanted : List Nat
  floored : List Nat
  /-- Nguka's work on the segments, once it has begun (R116, R117). -/
  load : Option Loading
  deriving DecidableEq, Repr

/-- What an entry of a heap starts (R22, R223, R294). -/
inductive HeapWork where
  /-- Task `index` of a lap, on a tile. -/
  | task (index tile : Nat) (pool : Bool)
  /-- A spawned task for a tile, or for a cluster: the spawning tile, the lap and when it entered, and the packet. -/
  | spawn (tile : Option Nat) (cluster src lap lapAt : Nat) (packet : BitVec 512)
  /-- A saved task of a tile. -/
  | saved (tile : Nat)
  deriving DecidableEq, Repr

/-- An entry of a heap (R22, R292). -/
structure HeapEntry where
  group : Nat
  tier : Nat
  deadline : Nat
  age : Nat
  queue : Nat
  pos : Nat
  ctx : Nat
  launch : Nat
  /-- CYCLE at which it entered this heap. -/
  since : Nat
  promoted : Bool
  work : HeapWork
  deriving DecidableEq, Repr

/-- A saved task: what the save area of its context on a tile holds, and whether another agent has written the area
since (R298). -/
structure Saved where
  task : Task
  tile : Tile
  kind : Nat
  tainted : Bool
  deriving DecidableEq, Repr

/-- Source bytes of another participant of a COLLECTIVE (R332). -/
structure CollPart where
  gen : Nat
  tag : Nat
  inst : Nat
  rank : Nat
  op : Nat
  rm : Nat
  root : Nat
  /-- Source FMT, 16 times the destination's, and 256 when RAW. -/
  fmt : Nat
  n : Nat
  bytes : Memory
  /-- Bytes that have come. -/
  got : Nat
  deriving DecidableEq, Repr

/-- How the part stands after power-good (R334, R339). -/
inductive Boot where
  | up
  | recovery
  | waitHost
  | stopped
  deriving DecidableEq, Repr

/-- A second-tier port: the bytes its expander backs, whether its link is up, and whether it has failed at run time
(R237, R327, R338). -/
structure Port where
  bytes : Nat
  up : Bool
  failed : Bool
  deriving DecidableEq, Repr

/-- A port of the full part (R1, log entry 1). -/
def Port.full : Port := { bytes := 2 ^ 41, up := true, failed := false }

/-- A core program on a Signal box: its context and its service tile (R363). -/
structure BoxProg where
  ctx : Nat
  tile : Nat
  /-- Its number, as tasks have one: commands of a former program are not its own (R377). -/
  serial : Nat
  deriving DecidableEq, Repr

/-- A core program whose segments Nguka allocates: the driver's request, WAITDEF and the entry (R363). -/
structure BoxLoad where
  prog : CoreStart
  waitdef : BitVec 10
  entry : Nat
  load : Loading
  deriving DecidableEq, Repr

/-- What happens in a turn of the schedule. -/
inductive Act where
  /-- The next word of a strand issues, or its wait or pause is looked at. -/
  | issue (c : CoreId)
  /-- An event of the opcode table. -/
  | event (i : Instr)
  /-- A tile drops its cached translations and blocks, which it may do at any time (R241). -/
  | evict (tile : Nat)
  /-- An act in which a walk of the page tables reads so many entries and no more (R240). -/
  | walking (reads : Nat) (act : Act)
  /-- One word of the block that a core needs is read (R44). -/
  | fetchWord (c : CoreId) (k : Nat)
  /-- Nguka goes on with the loading of a core program (R363). -/
  | boxLoad (group : Nat)
  /-- The host reads doublewords of BAR0 (R334, R336). -/
  | bar0Read (off n : Nat)
  /-- The window of a second-tier port whose link has failed reads as unbacked from now on (R327). -/
  | windowDown (port : Nat)
  /-- Clocks pass. -/
  | idle
  deriving DecidableEq, Repr

/-- One turn: the clocks that pass before it, and the act (log entry 4). -/
structure Turn where
  clocks : Nat
  act : Act
  deriving DecidableEq, Repr

/-- A host atomic that has arrived: the operation of R252 on bytes at a physical address (R249). -/
structure HostAtomic where
  pa : Nat
  bytes : Nat
  op : Nat
  x : Nat
  cmp : Nat
  deriving DecidableEq, Repr

/-- The device. -/
structure State where
  /-- CYCLE (R108). -/
  cycle : Nat
  leasectl : BitVec 16
  tiles : Tab Tile
  /-- Signal box core programs by stack group (R363). -/
  boxes : Tab Strand
  boxProgs : Tab BoxProg
  boxLoads : Tab BoxLoad
  /-- LEASEREN and ATOMRACE by slice (R110, R249). -/
  leaseren : Tab Word
  atomrace : Tab Word
  /-- A host atomic in flight that the next device atomic on its word may run into (R249). -/
  hostRace : Option HostAtomic
  ctxs : Tab Context
  parts : Tab Partition
  vfs : Tab VirtFn
  vfEnable : Bool
  /-- Bytes of HBM4E, the second tier and host memory by physical address (R237). -/
  mem : Memory
  /-- Second-tier ports, where they differ from the full part's. -/
  ports : Tab Port
  /-- Poisoned 64-byte sectors of device memory, by sector number (R320). -/
  poison : List Nat
  /-- Second-level translations by cluster (R241). -/
  clusterTlb : Tab (List Xlat)
  prq : Tab PageRequest
  /-- Parked faults, oldest first (R242). -/
  parkedFaults : List FaultInfo
  /-- Contexts and sequence numbers whose RESP has been written, with the first nonzero value, in order (R244). -/
  responses : List (Nat × Nat × Nat)
  /-- Parties of responses taken that have not acted yet, and whether the response is RETRY: one acts per clock (R356). -/
  answering : List (Bool × FaultInfo)
  /-- Commands in enqueue order (R192, R205). -/
  cmds : Tab Cmd
  nextCmd : Nat
  /-- STATUS of the last command of a tile to retire from a queue, under key 16 tile + q (R215). -/
  lastStatus : Tab (BitVec 16)
  /-- Tiles to which a launch's timetable assigns tasks, in any lap (R118). -/
  launchTiles : Tab (List Nat)
  launches : Tab Launch
  nextLaunch : Nat
  /-- The entries of every heap, by insertion (R292). -/
  heap : Tab HeapEntry
  nextHeap : Nat
  /-- Saved tasks of context c on tile t under key 256 c + t (R298). -/
  saves : Tab Saved
  /-- Serial number of the next task. -/
  nextTask : Nat
  /-- QTBASE and the hardware queues (R324). -/
  qtbase : Nat
  hwqs : Tab HwQueue
  /-- The queue read last, by stack group and tier under key 4 g + tier, and the heaps that were full and for which
  packets wait (R292). -/
  lastRead : Tab Nat
  crowded : List Nat
  /-- Writes to TAIL, each a queue, the value and EN as it was then, and queues whose EN has risen, not yet looked at
  (R325). -/
  tailWrites : List (Nat × Nat × Bool)
  enWrites : List Nat
  /-- Physical semaphores, 4,096 g + n (R255). -/
  sems : Tab Sem
  /-- Clocks that tier-3 tasks have held tiles of each stack group in the share window, and its start (R293). -/
  shareUsed : Tab Nat
  shareStart : Nat
  /-- CYCLE at which the accounting period began (R291). -/
  periodStart : Nat
  /-- Units present (R338), the device ID and the fabric ports that are down (R328). -/
  clusters : Word
  stackMask : BitVec 8
  device : Nat
  fabDown : List Nat
  /-- OP slots that the ISA record marks executable (R337), and the lanes and the rate in GT/s at which the host link has
  trained (R323). -/
  isaMask : BitVec 256
  hostWidth : Nat
  hostRate : Nat
  /-- Sequence number of the next flit that the device sends (R328). -/
  flitSeq : Nat
  colls : List CollPart
  /-- The counters of the COUNTERS record (R337). -/
  misroute : Nat
  stale : Nat
  eccCorrected : Nat
  eccUncorrected : Nat
  boot : Boot
  /-- Fjoig inserts idle clocks (R339). -/
  idleClocks : Bool
  /-- Fjoig's machine-check log: condition and stack group (R321). -/
  mcLog : List (Nat × Nat)
  /-- What Nguka has reported to the driver of each stack group's core programs: 0 for an END, else a code (R363). -/
  reports : List (Nat × Nat)
  /-- Clocks for which the heaps of each Signal box core have held ready packets since it last retired a word (R321). -/
  boxIdle : Tab Nat
  /-- Bytes that the host's last CXL.mem read returned (R323). -/
  hostData : List Byte
  /-- Touches of segments so far, which order them (R121). -/
  touches : Nat
  /-- Cores that have issued a word in the present clock (R70). -/
  acted : List CoreId
  /-- Entries that a walk reads in this turn before a write of another agent may fall in; none: every one (R240). -/
  walkReads : Option Nat
  schedule : List Turn
  cur : CoreId
  fresh : Nat
  deriving DecidableEq, Repr

/-- OP slots of the part's forms: those that R36 assigns, without POOL's, which no word executes (R37). -/
abbrev fullIsa : BitVec 256 := 0x7ff0000000701ff001f03ff1fff01ff7fff3fff00ff1fff01ff0ffffffffffe

/-- The device right after reset, started up as the full part (R1, R334): nothing is loaded. -/
def State.reset : State where
  cycle := 0
  leasectl := 0x0100
  tiles := []
  boxes := []
  boxProgs := []
  boxLoads := []
  leaseren := []
  atomrace := []
  hostRace := none
  ctxs := []
  parts := []
  vfs := []
  vfEnable := true
  mem := []
  ports := []
  poison := []
  clusterTlb := []
  prq := []
  parkedFaults := []
  responses := []
  answering := []
  cmds := []
  nextCmd := 0
  lastStatus := []
  launchTiles := []
  launches := []
  nextLaunch := 0
  heap := []
  nextHeap := 0
  saves := []
  nextTask := 0
  qtbase := 0
  hwqs := []
  lastRead := []
  crowded := []
  tailWrites := []
  enWrites := []
  sems := []
  shareUsed := []
  shareStart := 0
  periodStart := 0
  clusters := BitVec.allOnes 64
  stackMask := BitVec.allOnes 8
  device := 0
  fabDown := []
  isaMask := fullIsa
  hostWidth := 16
  hostRate := 64
  flitSeq := 0
  colls := []
  misroute := 0
  stale := 0
  eccCorrected := 0
  eccUncorrected := 0
  boot := .up
  idleClocks := false
  mcLog := []
  reports := []
  boxIdle := []
  hostData := []
  touches := 0
  acted := []
  walkReads := none
  schedule := []
  cur := .tile 0 0
  fresh := 0

end Sys2Proof.Machine
end

