-- ==== Sys2Proof/Machine/Ops.lean ====
section
/-! DEFINITION. The named operations over the state: strands and their registers, couplings, device memory,
fault queues, and taking and leaving an exception. -/

namespace Sys2Proof.Machine

/-! ### Tiles and strands -/

/-- A tile; one that was never touched is blank. -/
def getTile (s : State) (t : Nat) : Tile := tabGet Tile.blank s.tiles t

/-- Replaces a tile. -/
def setTile (s : State) (t : Nat) (x : Tile) : State := { s with tiles := tabPut s.tiles t x }

/-- Changes a tile. -/
def modTile (s : State) (t : Nat) (f : Tile → Tile) : State := setTile s t (f (getTile s t))

/-- A strand of a tile; sequencers are numbered modulo 4. -/
def Tile.strand (x : Tile) (q : Nat) : Strand := x.strands[q % 4]'(Nat.mod_lt q (by decide))

/-- Replaces a strand of a tile. -/
def Tile.setStrand (x : Tile) (q : Nat) (st : Strand) : Tile :=
  { x with strands := x.strands.set (q % 4) st (Nat.mod_lt q (by decide)) }

/-- A strand, or the core program of a Signal box (R363). -/
def getStrand (s : State) : CoreId → Strand
  | .tile t q => (getTile s t).strand q
  | .sbox g => tabGet Strand.blank s.boxes g

/-- Replaces a strand. -/
def setStrand (s : State) (c : CoreId) (st : Strand) : State :=
  match c with
  | .tile t q => setTile s t ((getTile s t).setStrand q st)
  | .sbox g => { s with boxes := tabPut s.boxes g st }

/-- Changes a strand. -/
def modStrand (s : State) (c : CoreId) (f : Strand → Strand) : State := setStrand s c (f (getStrand s c))

/-- The core is a Signal box core. -/
def isBox : CoreId → Bool
  | .sbox _ => true
  | .tile _ _ => false

/-- Source number of a core's own traps (R7, R363). -/
def coreSrc : CoreId → Nat
  | .tile _ q => q % 4
  | .sbox _ => 7

/-- The sequencer number a core counts as: a core program is a C strand (R363). -/
def coreSeq : CoreId → Nat
  | .tile _ q => q % 4
  | .sbox _ => 0

/-- The tile a core's words act from: its own, or the service tile of a core program (R377). -/
def coreTile (s : State) : CoreId → Nat
  | .tile t _ => t
  | .sbox g => ((tabFind s.boxProgs g).map (·.tile)).getD (32 * g)

/-- The context a core runs in, if any. -/
def coreCtx (s : State) : CoreId → Option Nat
  | .tile t _ => (getTile s t).task.map (·.ctx)
  | .sbox g => (tabFind s.boxProgs g).map (·.ctx)

/-- The context number of a core; 0 when it runs nothing. -/
def ctxNo (s : State) (c : CoreId) : Nat := (coreCtx s c).getD 0

/-- Changes a context that exists. -/
def modCtx (s : State) (n : Nat) (f : Context → Context) : State :=
  match tabFind s.ctxs n with
  | some x => { s with ctxs := tabPut s.ctxs n (f x) }
  | none => s

/-! ### Registers (R29, R91) -/

/-- Reads a G register; G0 reads zero. -/
def Strand.getG (st : Strand) (r : BitVec 6) : Word :=
  if r.toNat % 32 = 0 then 0 else st.g[r.toNat % 32]'(Nat.mod_lt _ (by decide))

/-- Writes a G register; a write to G0 is discarded. -/
def Strand.setG (st : Strand) (r : BitVec 6) (v : Word) : Strand :=
  if r.toNat % 32 = 0 then st else { st with g := st.g.set (r.toNat % 32) v (Nat.mod_lt _ (by decide)) }

/-- Reads an A register by its number. -/
def Strand.getA (st : Strand) (r : Nat) : Word := st.a[r % 16]'(Nat.mod_lt _ (by decide))

/-- Writes an A register: bits 63:48 stay zero (R91). -/
def Strand.setA (st : Strand) (r : Nat) (v : Word) : Strand :=
  { st with a := st.a.set (r % 16) (v &&& 0x0000FFFFFFFFFFFF#64) (Nat.mod_lt _ (by decide)) }

/-- A register's number from a 6-bit specifier of 32 to 47. -/
def aNum (r : BitVec 6) : Nat := r.toNat % 16

/-- NAME of an A value (R91). -/
def aName (v : Word) : Nat := (v.extractLsb' 32 16).toNat

/-- OFF of an A value (R91). -/
def aOff (v : Word) : Nat := (v.extractLsb' 0 32).toNat

/-- An A value from a name and an offset, the offset mod 2^32. -/
def mkA (name off : Nat) : Word := BitVec.ofNat 64 ((name % 2 ^ 16) * 2 ^ 32 + off % 2 ^ 32)

/-- Writes a G register of a core. -/
def setGOf (s : State) (c : CoreId) (r : BitVec 6) (v : Word) : State := modStrand s c (·.setG r v)

/-! ### Couplings (R72) -/

/-- Tokens from strand `a` to strand `b` of a tile. -/
def Tile.coupling (x : Tile) (a b : Nat) : Nat := tabGet 0 x.couplings (4 * a + b)

/-- Sets the tokens from strand `a` to strand `b`. -/
def Tile.setCoupling (x : Tile) (a b n : Nat) : Tile :=
  { x with couplings := tabSet 0 x.couplings (4 * a + b) n }

/-- Tokens from strand `a` to strand `b` that may be taken in the present clock: those added in an earlier one (R73). -/
def Tile.takable (x : Tile) (a b : Nat) : Nat := x.coupling a b - tabGet 0 x.given (4 * a + b)

/-- Adds tokens from strand `a` to strand `b`; they may be taken from the next clock (R73). -/
def Tile.give (x : Tile) (a b n : Nat) : Tile :=
  { x.setCoupling a b (x.coupling a b + n) with given := tabSet 0 x.given (4 * a + b) (tabGet 0 x.given (4 * a + b) + n) }

/-- A give has trapped CPLOVER: takes of the coupling come before gives in a clock, so that none follows in this one
(R73). -/
def Tile.overflowed (x : Tile) (a b : Nat) : Tile := { x with given := tabSet 0 x.given (4 * a + b) (x.coupling a b) }

/-- The peer that value v of a SYNC half names (R26). -/
def peerOf (self v : Nat) : Nat := (self + v) % 4

/-- Sets reason bits in the wake latch of a core (R318). -/
def wake (s : State) (c : CoreId) (bits : BitVec 6) : State :=
  modStrand s c (fun st => { st with wake := st.wake ||| bits })

/-- Sets reason bits in the wake latches of a tile's four strands. -/
def wakeTile (s : State) (t : Nat) (bits : BitVec 6) : State :=
  modTile s t (fun x => { x with strands := x.strands.map (fun st => { st with wake := st.wake ||| bits }) })

/-! ### Device memory by physical address (R237) -/

/-- The second-tier port that serves a physical address, and the offset in its window. -/
def tier2Port (pa : Nat) : Nat × Nat := ((pa - Config.tier2Base) / 2 ^ 41, (pa - Config.tier2Base) % 2 ^ 41)

/-- The address lies in the second tier's window. -/
def isTier2 (pa : Nat) : Bool := Config.tier2Base ≤ pa && pa < Config.tier2End

/-- The address lies in host memory. -/
def isHostPa (pa : Nat) : Bool := Config.hostBase ≤ pa && pa < Config.paEnd

/-- The address lies in HBM4E. -/
def isHbm (pa : Nat) : Bool := pa < Config.hbmBytes

/-- The map lays storage at the address (R237). -/
def hasStorage (pa : Nat) : Bool := isHbm pa || isTier2 pa || isHostPa pa

/-- An expander backs a second-tier address (R237): its port's link is up (R327). -/
def tier2Backed (s : State) (pa : Nat) : Bool :=
  let (p, off) := tier2Port pa
  let x := tabGet Port.full s.ports p
  x.up && decide (off < x.bytes)

/-- The address lies in the window of a port whose link has failed at run time: the access ends with LINKERR (R327). -/
def linkDown (s : State) (pa : Nat) : Bool := isTier2 pa && (tabGet Port.full s.ports (tier2Port pa).1).failed

/-- The byte at a physical address: all ones where no expander backs the second tier (R237). -/
def paByte (s : State) (pa : Nat) : Byte :=
  if isTier2 pa && !tier2Backed s pa then 0xFF else Memory.read s.mem pa

/-- `n` bytes from a physical address. -/
def paBytes (s : State) (pa : Nat) : Nat → List Byte
  | 0 => []
  | n + 1 => paByte s pa :: paBytes s (pa + 1) n

/-- The little-endian value of `n` bytes at a physical address (R3). -/
def paNat (s : State) (pa n : Nat) : Nat := leNat (paBytes s pa n)

/-- A doubleword at a physical address. -/
def paWord (s : State) (pa : Nat) : Word := BitVec.ofNat 64 (paNat s pa 8)

/-- A sector of the range is poisoned (R320). -/
def paPoisoned (s : State) (pa n : Nat) : Bool :=
  s.poison.any (fun k => decide (pa / 64 ≤ k) && decide (k ≤ (pa + n - 1) / 64))

/-- A whole-sector write clears the sector's poison, a partial one leaves it (R320). -/
def clearPoison (poison : List Nat) (pa n : Nat) : List Nat :=
  poison.filter (fun k => !(decide (pa ≤ 64 * k) && decide (64 * k + 64 ≤ pa + n)))

/-- Unanswered entries of a context whose RESP lies in a written range and holds a nonzero value for the first time, with
the value (R243, R244). -/
def respSeen (s : State) (pa n : Nat) (ctx : Nat) (x : Context) : List (Nat × Nat × Nat) :=
  x.fqOpen.filterMap (fun e =>
    let a := x.block.fqbase + 64 * (e.1 % 64) + 56
    if pa < a + 8 ∧ a < pa + n ∧ paNat s a 8 ≠ 0 ∧ !s.responses.any (fun r => r.1 == ctx && r.2.1 == e.1) then
      some (ctx, e.1, paNat s a 8)
    else none)

/-- Every strand that runs for a context, by tile. -/
def tilesOfCtx (s : State) (ctx : Nat) : List Nat :=
  s.tiles.filterMap (fun e => if e.2.task.any (fun k => k.ctx == ctx) then some e.1 else none)

/-- The Signal box core programs of a context. -/
def boxesOfCtx (s : State) (ctx : Nat) : List Nat :=
  s.boxProgs.filterMap (fun e => if e.2.ctx == ctx then some e.1 else none)

/-- The address lies in a channel of a cluster and a stack that the part has, or outside HBM4E (R338). -/
def paPresent (s : State) (pa : Nat) : Bool :=
  !isHbm pa || (s.clusters.getLsbD (pa / 2 ^ 33 % 64) && s.stackMask.getLsbD (pa / 2 ^ 36 % 8))

/-- The part has the tile (R338). -/
def tilePresent (s : State) (t : Nat) : Bool := s.clusters.getLsbD (t / 4) && s.stackMask.getLsbD (t / 32 % 8)

/-- Storage is laid out at the address on this part (R237, R338). -/
def laidOut (s : State) (pa : Nat) : Bool := hasStorage pa && paPresent s pa

/-- A hardware queue as its monitor knows it. -/
def getHwq (s : State) (q : Nat) : HwQueue := tabGet HwQueue.blank s.hwqs q

/-- Changes a hardware queue. -/
def modHwq (s : State) (q : Nat) (f : HwQueue → HwQueue) : State := { s with hwqs := tabPut s.hwqs q (f (getHwq s q)) }

/-- Address of a queue's descriptor (R324). -/
def queueDesc (s : State) (q : Nat) : Nat := s.qtbase + 64 * q

/-- Queues whose descriptor a write reaches (R324). -/
def queuesHit (s : State) (pa n : Nat) : List Nat :=
  if pa < s.qtbase + 65536 ∧ s.qtbase < pa + n then
    let lo := (max pa s.qtbase - s.qtbase) / 64
    let hi := (min (pa + n) (s.qtbase + 65536) - 1 - s.qtbase) / 64
    (List.range (hi + 1 - lo)).map (lo + ·)
  else []

/-- Two ranges of bytes overlap. -/
def overlaps (a n b m : Nat) : Bool := decide (a < b + m) && decide (b < a + n)

/-- Stores bytes at a physical address and no more: writes to an unbacked second-tier address are discarded. -/
def paStore : State → Nat → List Byte → State
  | s, _, [] => s
  | s, pa, b :: bs =>
    paStore (if isTier2 pa && !tier2Backed s pa then s else { s with mem := Memory.write s.mem pa b }) (pa + 1) bs

/-- EN as a queue's descriptor holds it. -/
def queueEn (s : State) (q : Nat) : Bool := (paByte s (queueDesc s q + 9)).getLsbD 0

/-- Of the writes to TAIL that came while EN was 0, what TAIL holds when EN rises counts as one write (log entry 28). -/
def mergeTails (s : State) (q : Nat) : List (Nat × Nat × Bool) :=
  let idle := fun (y : Nat × Nat × Bool) => y.1 == q && !y.2.2
  s.tailWrites.filter (fun y => !idle y) ++
    (if s.tailWrites.any idle then [(q, paNat s (queueDesc s q + 24) 8, true)] else [])

/-- QERR is cleared by writing one, and EN is remembered (R324). -/
def noteQueueFlags (s : State) (q : Nat) : State :=
  let a := queueDesc s q + 9
  let w := paByte s a
  let hq := getHwq s q
  let err := hq.qerr && !w.getLsbD 1
  let s1 := paStore s a [(w &&& 0xFD) ||| (if err then 2 else 0)]
  let s2 := modHwq s1 q (fun x => { x with qerr := err, en := x.en && w.getLsbD 0 })
  if w.getLsbD 0 && !hq.en then
    { s2 with enWrites := s2.enWrites ++ [q], tailWrites := mergeTails s2 q }
  else s2

/-- What the monitor notices of a write to a queue's descriptor: EN and QERR, TAIL, and HEAD, which is read only
(R324, R325). -/
def noteQueue (pa n : Nat) (s : State) (q : Nat) : State :=
  let a := queueDesc s q
  let s1 := if overlaps pa n (a + 9) 1 then noteQueueFlags s q else s
  let s2 := if overlaps pa n (a + 24) 8 then { s1 with tailWrites := s1.tailWrites ++ [(q, paNat s1 (a + 24) 8, queueEn s1 q)] } else s1
  if overlaps pa n (a + 32) 8 then paStore s2 (a + 32) (leBytes 8 (getHwq s2 q).head) else s2

/-- Bytes between the save areas of neighbouring tiles, and bytes of a save area (R296, R298). -/
abbrev saveStride : Nat := 0x48000
/-- Bytes of a save area. -/
abbrev saveBytes : Nat := 0x45240

/-- Save area of a context on a tile (R296). -/
def saveArea (s : State) (ctx tile : Nat) : Nat :=
  ((tabFind s.ctxs ctx).map (·.block.savebase)).getD 0 + tile * saveStride

/-- A saved task whose area another agent writes (R298). -/
def taintSaves (s : State) (pa n : Nat) : State :=
  { s with saves := s.saves.map (fun e =>
      if overlaps pa n (saveArea s (e.1 / 256) (e.1 % 256)) saveBytes then (e.1, { e.2 with tainted := true }) else e) }

/-- What the device notices of a write that has taken its place: responses in fault queues, with the wake
latches of the context's strands (R244, R318). -/
def noteWrite (s : State) (pa n : Nat) : State :=
  let seen := s.ctxs.flatMap (fun e => respSeen s pa n e.1 e.2)
  let s0 := (queuesHit s pa n).foldl (noteQueue pa n) (taintSaves s pa n)
  let s1 := { s0 with responses := s0.responses ++ seen }
  seen.foldl (fun s2 e =>
    (boxesOfCtx s2 e.1).foldl (fun s3 g => wake s3 (.sbox g) 4)
      ((tilesOfCtx s2 e.1).foldl (fun s3 t => wakeTile s3 t 4) s2)) s1

/-- One write to device memory: the bytes, the poison they clear, and what the device notices. -/
def paWrite (s : State) (pa : Nat) (bs : List Byte) : State :=
  let s1 := paStore s pa bs
  noteWrite { s1 with poison := clearPoison s1.poison pa bs.length } pa bs.length

/-! ### Fault queues (R243) -/

/-- ACC code of an access kind (R243). -/
def accCode : Access → Nat
  | .read => 0 | .write => 1 | .atomic => 2 | .fetch => 3 | .table => 4

/-- The 64 bytes of a fault-queue entry (R243). -/
def fqEntryBytes (cause tile unit acc size ctx seq pc va low lost : Nat) : List Byte :=
  leBytes 8 (cause * 2 ^ 55 + (tile % 256) * 2 ^ 47 + (unit % 128) * 2 ^ 40 + (acc % 8) * 2 ^ 37
      + (size % 8) * 2 ^ 34 + (ctx % 512) * 2 ^ 25 + seq % 2 ^ 16)
    ++ leBytes 8 pc ++ leBytes 8 va ++ leBytes 8 low ++ leBytes 4 lost ++ leBytes 20 0 ++ leBytes 8 0

/-- Writes the next entry of a context's fault queue and counts it as unanswered. -/
def fqPost (s : State) (ctx : Nat) (owner : FqOwner) (cause tile unit acc size pc va low : Nat) : State :=
  match tabFind s.ctxs ctx with
  | none => s
  | some x =>
    let q := x.fqNext
    let s1 := paWrite s (x.block.fqbase + 64 * (q % 64))
      (fqEntryBytes cause tile unit acc size ctx q pc va low x.fqLost)
    modCtx s1 ctx (fun y => { y with fqNext := q + 1, fqOpen := tabPut y.fqOpen q owner, fqLost := 0 })

/-- The slot of the next entry still holds an unanswered one, as every slot does while 64 are unanswered (R243). -/
def fqFull (s : State) (ctx : Nat) : Bool :=
  ((tabFind s.ctxs ctx).map (fun x => x.fqOpen.any (fun e => e.1 % 64 == x.fqNext % 64))).getD true

/-- Posts a notice of delivery N or T: while 64 entries are unanswered it is only counted (R243). -/
def fqNotice (s : State) (ctx : Nat) (cause tile unit pc va low : Nat) : State :=
  if fqFull s ctx then modCtx s ctx (fun x => { x with fqLost := min (x.fqLost + 1) (2 ^ 32 - 1) })
  else fqPost s ctx .notice cause tile unit 0 0 pc va low

/-- Parks of a context wait for a slot. -/
def fqWaits (s : State) (ctx : Nat) : Bool := ((tabFind s.ctxs ctx).map (fun x => !x.fqDeferred.isEmpty)).getD false

/-- Posts the entry of a strand that parks under R313, or defers it while no slot is free or an older one waits (R243). -/
def fqPark (s : State) (ctx : Nat) (c : CoreId) (cause : BitVec 9) (unit : Nat) (pc : Word) : State :=
  if fqFull s ctx || fqWaits s ctx then
    modCtx s ctx (fun x => { x with fqDeferred := x.fqDeferred ++ [(c, cause, unit, pc)] })
  else fqPost s ctx (.trapPark c) cause.toNat (coreTile s c) unit 0 0 pc.toNat 0 0

/-! ### Exceptions (R309 to R313) -/

/-- A core has issued a word or taken a trap: it does no more in this clock (R70, R314). -/
def acts (s : State) (c : CoreId) : State := if s.acted.contains c then s else { s with acted := s.acted ++ [c] }

/-- REPSTATE of a sequence in force, 0 outside one (R87). -/
def repState : Option Rep → Word
  | none => 0
  | some r => BitVec.ofNat 64 (2 ^ 63 + r.rem * 2 ^ 52) ||| ((BitVec.ofInt 14 r.offd).zeroExtend 64 <<< 28)
      ||| ((BitVec.ofInt 14 r.offa).zeroExtend 64 <<< 14) ||| (BitVec.ofInt 14 r.offb).zeroExtend 64

/-- Cause code of a condition from a source (R7). -/
def causeOf (cond src : Nat) : BitVec 9 := BitVec.ofNat 9 (cond * 8 + src)

/-- The trap vector of a core's tile; a core program has no handler (R311, R315). -/
def tvecOf (s : State) : CoreId → BitVec 52
  | .tile t _ => (getTile s t).tvec
  | .sbox _ => 0

/-- Mode as the PM bit (R311). -/
def modeBit : Mode → Bool
  | .user => false
  | .supervisor => true

/-- The frame registers a trap writes (R313). -/
def Strand.frame (st : Strand) (cause : BitVec 9) (d0 d1 tpc rep : Word) (tkd : Bool) : Strand :=
  { st with tpc := tpc, tcause := cause, tdetail0 := d0, tdetail1 := d1, trep := rep, tkd := tkd,
            pm := modeBit st.mode }

/-- The wait of a strand that leaves and comes back: at a semaphore it joins the queue again with a fresh stall counter
(R256). -/
def Wait.rejoin (w : Wait) : Wait := if w.what = .semaphore then { w with count := 0 } else w

/-- The stall counter of a strand that parks while it waits is held for its return; after STALL it starts again (R74,
R76). -/
def heldWait (cause : BitVec 9) (st : Strand) : Option Wait :=
  if st.run = .waiting ∧ cause.toNat / 8 ≠ 21 then st.wait.map Wait.rejoin else none

/-- An ACTIVE record is PARKED when its word, one of a handler or not, traps (R149). -/
def Queue.park (sup : Bool) (q : Queue) : Queue := if q.state = .active then { q with state := .parked, sup := sup } else q

/-- An ACTIVE progress record is PARKED when its word, one of a handler or not, is stopped (R174, R175). -/
def Engine.park (sup : Bool) (e : Engine) : Engine :=
  if e.prog.state = .active then { e with prog := { e.prog with state := .parked, sup := sup } } else e

/-- The records of a strand that traps: the operand queues of L, the engine's progress of X, the drain queues of S
(R149, R175). -/
def parkRecords (s : State) : CoreId → State
  | .tile t q =>
    let sup := ((getTile s t).strand q).mode == .supervisor
    if q % 4 = 2 then modTile s t (fun x => { x with mx := x.mx.park sup })
    else if q % 4 = 1 then modTile s t (fun x => { x with qs := x.qs.map (Queue.park sup) })
    else if q % 4 = 3 then modTile s t (fun x => { x with ds := x.ds.map (Queue.park sup) })
    else s
  | .sbox _ => s

/-- A strand leaves every semaphore queue (R256). -/
def leaveSems (s : State) (c : CoreId) : State :=
  { s with sems := s.sems.map (fun e => (e.1, { e.2 with queue := e.2.queue.filter (· != c) })) }

/-- A strand's grant requests leave their queues. -/
def leaveGrants (s : State) (c : CoreId) : State :=
  { s with tiles := s.tiles.map (fun e =>
      (e.1, { e.2 with grants := e.2.grants.filter (fun r => r.party != some (.core c)) })) }

/-- Bytes of sidings that the pushed copies of a segment use. -/
def sidedBytes (g : Segment) : Nat := 64 * (g.copies.map (fun e => e.2.side.length)).sum

/-- Frees a name with its copies and its sidings images (R136). -/
def freeSeg (s : State) (ctx name : Nat) : State :=
  modCtx s ctx (fun x =>
    match tabFind x.segs name with
    | some g => { x with segs := tabDel x.segs name, sidings := x.sidings - sidedBytes g }
    | none => x)

/-- A trap at an SALLOC in progress frees the copies that it has made (R136). -/
def dropMaking (s : State) (c : CoreId) : State :=
  match (getStrand s c).making, coreCtx s c with
  | some n, some ctx => freeSeg s ctx n
  | _, _ => s

/-- A strand that leaves its tile stands in no queue, and an SALLOC that it has in progress begins afresh when it comes
back: the copies made so far are freed (R126, R136, R256). -/
def leaveQueues (s : State) (c : CoreId) : State := leaveGrants (leaveSems (dropMaking s c) c) c

/-- Taking an H trap: the frame, then the handler or the park (R313). `fpc` is the address a fault-queue entry names,
`rep` the REPSTATE word recorded, `tkd` whether the take of the word at `tpc` is done, and `unit` the UNIT of an entry. A
park of a core program is reported to its driver (R315). A core takes one trap in a clock (R314). -/
def takeTrapAt (s : State) (c : CoreId) (cause : BitVec 9) (d0 d1 fpc tpc rep : Word) (tkd : Bool) (unit : Nat := 0) :
    State :=
  let s := acts (leaveGrants (leaveSems (parkRecords (dropMaking s c) c) c) c) c
  let st := getStrand s c
  let fr := st.frame cause d0 d1 tpc rep tkd
  let clean := { fr with wait := none, pause := none, rep := none, takeDone := false, granted := none,
                         dispStep := 0, going := none, entering := false, spawning := none, making := none, staged := none, step := 0, met := false, walk := none, pins := [] }
  if st.mode = .supervisor ∨ tvecOf s c = 0 then
    let s1 := setStrand s c { clean with nest := true, run := .parked, park := some .trapped, wait := heldWait cause st }
    let s2 := match c with
      | .sbox g => { s1 with reports := s1.reports ++ [(g, cause.toNat)] }
      | .tile _ _ => s1
    match coreCtx s c with
    | some ctx => fqPark s2 ctx c cause unit fpc
    | none => s2
  else
    setStrand s c { clean with nest := false, mode := .supervisor, run := .running, entering := true, pc := (tvecOf s c).zeroExtend 64 }

/-- Address of the word a core executes: the governed word of a sequence that has begun, or the word at the PC. -/
def Strand.wordPc (st : Strand) : Word := if st.rep.any (fun r => r.word.isSome) then st.pc + 8 else st.pc

/-- Taking a trap at the word that stands at the PC, with the REP sequence and the take in force recorded. -/
def takeTrap (s : State) (c : CoreId) (cause : BitVec 9) (d0 d1 : Word) : State :=
  let st := getStrand s c
  takeTrapAt s c cause d0 d1 st.wordPc st.pc (repState st.rep) st.takeDone

/-- The sequence a REPSTATE word describes, if V is set (R87). -/
def repOfState (w : Word) : Option Rep :=
  if w.extractLsb' 63 1 = 1 then
    some { rem := (w.extractLsb' 52 11).toNat, offd := (w.extractLsb' 28 14).toInt,
           offa := (w.extractLsb' 14 14).toInt, offb := (w.extractLsb' 0 14).toInt, word := none }
  else none

/-- Resuming a strand from its frame, as ERET does (R317): the mode, the PC, the take and REPSTATE. A core program stays
in supervisor mode (R308). A strand that parked while it waited goes on with its stall counter (R74). -/
def resumeFrame (s : State) (c : CoreId) : State :=
  modStrand s c (fun st =>
    { st with mode := (if st.pm || isBox c then .supervisor else .user), pc := st.tpc, takeDone := st.tkd, tkd := false,
              rep := repOfState st.trep, run := .running, wait := (if st.run = .parked then st.wait else none),
              pause := none, park := none })

end Sys2Proof.Machine
end

