-- ==== Sys2Proof/Machine/Xlate.lean ====
section
/-! DEFINITION. Page tables and their walk, translation caches, recoverable faults and the page-request queue
(R237 to R244, R302, R356). -/

namespace Sys2Proof.Machine

/-- Why a translation fails (R240), with the level of the failing entry (R243), and whether that is the leaf of a 2 MiB
page (R242). -/
structure XFail where
  cond : Nat
  reason : Nat
  level : Nat
  mega : Bool
  deriving DecidableEq, Repr

/-- The failure is an uncorrectable error or a failed link in a table read, which no fault service mends (R320, R327). -/
def XFail.hard (f : XFail) : Bool := f.cond == 40 || f.cond == 41

/-- A translated address: the physical address and the leaf that maps it. -/
structure XOk where
  pa : Nat
  leaf : Word
  mega : Bool
  deriving DecidableEq, Repr

/-- Clusters, and so slices, of a partition (R288, R289). -/
def partClusters (s : State) (p : Nat) : Word := ((tabFind s.parts p).map (·.clusters)).getD 0

/-- Top-level partition of a context, as a partition number (R288). -/
def topPart (x : Context) : Nat := (x.block.part.toNat / 8) * 8

/-- Bit of a word by number; bits past 63 are clear. -/
def bitOf (w : Word) (n : Nat) : Bool := w.getLsbD n

/-- Leaf bits (R239). -/
def leafBit (w : Word) (n : Nat) : Bool := w.getLsbD n

/-- PPN of a leaf, as the address of its page's first 64 KiB (R239). -/
def leafPpn (w : Word) : Nat := (w.extractLsb' 16 30).toNat * 2 ^ 16

/-- HSL of a leaf (R239). -/
def leafHsl (w : Word) : Nat := (w.extractLsb' 50 6).toNat

/-- Slice that owns an HBM4E address (R237). -/
def ownerSlice (pa : Nat) : Nat := pa / 2 ^ 33 % 64

/-- Slices of a stack group that belong to a partition, in increasing number (R238). -/
def groupSlices (s : State) (g p : Nat) : List Nat :=
  (List.range 8).filterMap (fun k => if bitOf (partClusters s p) (8 * g + k) then some (8 * g + k) else none)

/-- The partition (top level) that owns a slice, if any. -/
def sliceOwner (s : State) (sl : Nat) : Option Nat :=
  (s.parts.find? (fun e => e.1 % 8 == 0 && bitOf e.2.clusters sl)).map (·.1)

/-- Home slice of an address under a leaf (R237, R238). -/
def homeSlice (s : State) (pa : Nat) (leaf : Word) : Nat :=
  if isHbm pa then
    let o := ownerSlice pa
    if leafBit leaf 6 then o
    else
      let sl := groupSlices s (o / 8) ((sliceOwner s o).getD 0)
      sl.getD (((pa / 2 ^ 12 % 256) ^^^ (pa / 2 ^ 20 % 256)) % max 1 sl.length) o
  else leafHsl leaf

/-- A table entry below a table level obeys the rules of R239. -/
def tableEntryOk (e : Word) (level : Nat) : Bool :=
  e.extractLsb' 46 18 == 0 && e.extractLsb' 2 6 == 0 &&
    (if level = 2 then true else e.extractLsb' 8 4 == 0)

/-- A leaf obeys the rules of R239; REASON 1 of R240. -/
def leafOk (e : Word) (mega : Bool) : Bool :=
  let pa := leafPpn e
  e.extractLsb' 56 8 == 0 && e.extractLsb' 46 4 == 0 && e.extractLsb' 9 7 == 0 &&
    (!mega || (e.extractLsb' 16 5 == 0 && !leafBit e 6)) &&
    (!isHbm pa || (leafHsl e == 0 && !leafBit e 8)) &&
    (!isTier2 pa || (leafBit e 6 && !leafBit e 8)) &&
    (!isHostPa pa || leafBit e 6)

/-- Index of a virtual address at a level (R239). -/
def walkIndex (level va : Nat) : Nat :=
  match level with
  | 0 => va / 2 ^ 39 % 8192
  | 1 => va / 2 ^ 30 % 512
  | 2 => va / 2 ^ 21 % 512
  | _ => va / 2 ^ 16 % 32

/-- An entry of a table: the entry, the table that it names, or none for a leaf, and whether it carries poison; or the
failure (R239, R240). An entry that names a table where nothing is laid out is the entry that fails. -/
def tableRead (s : State) (va level base : Nat) : Except XFail (Word × Option Nat × Bool) :=
  let a := base + 8 * walkIndex level va
  if !laidOut s a then .error ⟨16, 4, level - 1, false⟩
  else if linkDown s a then .error ⟨41, 0, level, false⟩
  else
    let e := paWord s a
    if !leafBit e 0 then .error ⟨16, 0, level, false⟩
    else if leafBit e 1 then
      if level < 2 then .error ⟨16, 1, level, false⟩
      else if leafOk e (level == 2) then .ok (e, none, paPoisoned s a 8) else .error ⟨16, 1, level, level == 2⟩
    else if level ≥ 3 then .error ⟨16, 1, level, false⟩
    else if tableEntryOk e level then .ok (e, some ((e.extractLsb' 8 38).toNat * 256), paPoisoned s a 8)
    else .error ⟨16, 1, level, false⟩

/-- The walk from a table, `fuel` levels deep at most: a leaf with its level, or a failure, and whether a table
read met an uncorrectable error. -/
def walkFrom (s : State) (va : Nat) : Nat → Nat → Nat → Bool → Except XFail (Word × Nat × Bool)
  | 0, level, _, _ => .error ⟨16, 1, level, false⟩
  | fuel + 1, level, base, bad =>
    match tableRead s va level base with
    | .error f => .error f
    | .ok (e, none, p) => .ok (e, level, bad || p)
    | .ok (_, some b, p) => walkFrom s va fuel (level + 1) b (bad || p)

/-- Permission of a leaf for an access in a mode (R240, order 5). -/
def permOk (leaf : Word) (acc : Access) (m : Mode) : Bool :=
  (match acc with
   | .read | .table => leafBit leaf 2
   | .write => leafBit leaf 3
   | .atomic => leafBit leaf 2 && leafBit leaf 3
   | .fetch => leafBit leaf 4) && (!leafBit leaf 5 || m == .supervisor)

/-- Physical address of a virtual one under a leaf. -/
def leafAddr (leaf : Word) (mega : Bool) (va : Nat) : Nat :=
  if mega then leafPpn leaf + va % 2 ^ 21 else leafPpn leaf + va % 2 ^ 16

/-- Checks 3 to 5 of R240 on a leaf. -/
def leafCheck (s : State) (x : Context) (leaf : Word) (mega : Bool) (level va : Nat) (acc : Access) (m : Mode) :
    Except XFail XOk :=
  let pa := leafAddr leaf mega va
  if !laidOut s pa then .error ⟨16, 4, level, mega⟩
  else
    let sl := if isHbm pa then ownerSlice pa else leafHsl leaf
    if !bitOf (partClusters s (topPart x)) sl then .error ⟨17, 3, level, mega⟩
    else if !permOk leaf acc m then .error ⟨17, 2, level, mega⟩
    else .ok ⟨pa, leaf, mega⟩

/-- A cached translation of the context that covers an address (R241). -/
def tlbFind (l : List Xlat) (ctx va : Nat) : Option Xlat :=
  l.find? (fun e => e.ctx == ctx && e.base == (if e.mega then va / 2 ^ 21 else va / 2 ^ 16))

/-- Adds a translation, dropping the oldest beyond the capacity (R241). -/
def tlbAdd (l : List Xlat) (e : Xlat) (cap : Nat) : List Xlat :=
  (e :: l.filter (fun y => !(y.ctx == e.ctx && y.base == e.base && y.mega == e.mega))).take cap

/-- PAGEQUOTA in place of a PAGEFAULT of REASON 0, for a virtual function at its quota (R302). -/
def quotaFail (s : State) (x : Context) (f : XFail) : XFail :=
  if f.cond = 16 ∧ f.reason = 0 ∧ x.block.vfv then
    let v := tabGet (VirtFn.mk 0 0) s.vfs x.block.vf.toNat
    if v.quota ≤ v.used then { f with cond := 18 } else f
  else f

/-- Where the walk of an access begins: at the root, or where one under way for its page has come to. -/
def walkStart (x : Context) (ctx va : Nat) (w : Option Walk) : Walk :=
  let root : Walk := { ctx := ctx, va := va, level := 0, base := x.block.ptbase, bad := false }
  match w with
  | some y => if y.ctx = ctx ∧ y.va / 2 ^ 16 = va / 2 ^ 16 then y else root
  | none => root

/-- A walk after `n` more reads, if it is to go on then; none where it ends with them, at a leaf or at a failure. -/
def walkOn (s : State) : Nat → Walk → Option Walk
  | 0, w => some w
  | n + 1, w =>
    match tableRead s w.va w.level w.base with
    | .ok (_, some b, p) => walkOn s n { w with level := w.level + 1, base := b, bad := w.bad || p }
    | _ => none

/-- The walk and every check of R240 for one access, without any cache. -/
def walk (s : State) (ctx va : Nat) (acc : Access) (m : Mode) (w : Option Walk := none) : Except XFail XOk :=
  match tabFind s.ctxs ctx with
  | none => .error ⟨16, 0, 0, false⟩
  | some x =>
    let y := walkStart x ctx va w
    match walkFrom s va (4 - y.level) y.level y.base y.bad with
    | .error f => .error (quotaFail s x f)
    | .ok (leaf, level, bad) =>
      match leafCheck s x leaf (level == 2) level va acc m with
      | .error f => .error f
      | .ok r => if bad then .error ⟨40, 0, level, false⟩ else .ok r

/-- A translation that a tile or its cluster holds (R241). -/
def cachedXlat (s : State) (tile ctx va : Nat) : Option Xlat :=
  (tlbFind (getTile s tile).tlb ctx va).orElse (fun _ => tlbFind (tabGet [] s.clusterTlb (tile / 4)) ctx va)

/-- Translates an access of a tile: a cached translation if there is one, else a walk, one that is under way or its own from
the root, which is then cached (R240, R241). -/
def translate (s : State) (tile ctx va : Nat) (acc : Access) (m : Mode) (w : Option Walk := none) : Except XFail XOk × State :=
  let c := tile / 4
  match tabFind s.ctxs ctx with
  | none => (.error ⟨16, 0, 0, false⟩, s)
  | some x =>
    match cachedXlat s tile ctx va with
    | some e => (leafCheck s x e.leaf e.mega (if e.mega then 2 else 3) va acc m, s)
    | none =>
      match walk s ctx va acc m w with
      | .error f => (.error f, s)
      | .ok r =>
        let e : Xlat := ⟨ctx, (if r.mega then va / 2 ^ 21 else va / 2 ^ 16), r.mega, r.leaf⟩
        let s1 := modTile s tile (fun t => { t with tlb := tlbAdd t.tlb e 64 })
        (.ok r, { s1 with clusterTlb := tabPut s1.clusterTlb c (tlbAdd (tabGet [] s1.clusterTlb c) e 2048) })

/-- The turn ends in the middle of a walk, or between the walk and its access: how far the walk has come, and the state, in
which a complete one is cached. A walk that fails with its reads in this turn has its failure in it (R240, R241). -/
def walkStops (s : State) (tile ctx va : Nat) (acc : Access) (m : Mode) (w : Option Walk) : Option (Option Walk × State) :=
  match s.walkReads, tabFind s.ctxs ctx, cachedXlat s tile ctx va with
  | some n, some x, none =>
    match walkOn s n (walkStart x ctx va w) with
    | some y => some (some y, s)
    | none =>
      match translate s tile ctx va acc m w with
      | (.ok _, s1) => some (none, s1)
      | (.error _, _) => none
  | _, _, _ => none

/-! ### Recoverable faults (R242 to R244) -/

/-- The class of an access in the page-request queue (R242). -/
def accClass : Access → Access
  | .atomic => .write
  | .table => .read
  | a => a

/-- The page number of a fault: of the 2 MiB page where a level-2 leaf fails, and else of a 64 KiB page (R242). -/
def faultPage (f : FaultInfo) : Nat := if f.mega then f.va / 2 ^ 21 else f.va / 2 ^ 16

/-- A pending entry that a fault joins (R242). -/
def prqMatch (s : State) (f : FaultInfo) : Option (Nat × PageRequest) :=
  s.prq.find? (fun e => e.2.ctx == f.ctx && e.2.mega == f.mega && e.2.page == faultPage f &&
    e.2.cls == accClass f.acc)

/-- Top-level partition number, 0 to 7, of a context. -/
def ctxTop (s : State) (ctx : Nat) : Nat := ((tabFind s.ctxs ctx).map (fun x => x.block.part.toNat / 8)).getD 0

/-- The entry a fault may take: a shared one, else a reserved one of its partition (R242). -/
def prqRoom (s : State) (f : FaultInfo) : Option (Option Nat) :=
  let mine := (s.prq.filter (fun e => e.2.ctx == f.ctx)).length
  if 64 ≤ mine ∨ fqFull s f.ctx then none
  else if (s.prq.filter (fun e => e.2.reserved.isNone)).length < 448 then some none
  else
    let p := ctxTop s f.ctx
    if (s.prq.filter (fun e => e.2.reserved == some p)).length < 8 then some (some p) else none

/-- REASON, level and elements completed, as bytes 24 to 31 of an entry (R243). -/
def faultLow (f : FaultInfo) : Nat := (f.done % 2 ^ 32) * 2 ^ 32 + (f.reason % 16) * 16 + f.level % 4

/-- A fault takes an entry of the page-request queue and posts to its context's fault queue. -/
def prqTake (s : State) (f : FaultInfo) (res : Option Nat) : State :=
  let id := tabFree s.prq 512 0
  let q := ((tabFind s.ctxs f.ctx).map (·.fqNext)).getD 0
  let e : PageRequest :=
    { ctx := f.ctx, page := faultPage f, mega := f.mega, cls := accClass f.acc, seq := q,
      reserved := res, parties := [f] }
  let s1 := { s with prq := tabPut s.prq id e }
  fqPost s1 f.ctx (.pageRequest id) (f.cond * 8 + f.src) f.tile f.unit (accCode f.acc) f.size f.pc.toNat f.va
    (faultLow f)

/-- A fault joins or takes an entry, or is parked while none is to be found for it (R242). -/
def raiseFault (s : State) (f : FaultInfo) : State :=
  match prqMatch s f with
  | some (id, e) => { s with prq := tabPut s.prq id { e with parties := e.parties ++ [f] } }
  | none =>
    match prqRoom s f with
    | some res => prqTake s f res
    | none => { s with parkedFaults := s.parkedFaults ++ [{ f with queued := true }] }

end Sys2Proof.Machine
end

