-- ==== Sys2Proof/Machine/Issue.lean ====
section
/-! DEFINITION. How a word issues: decode checks 5 to 8 (R41), the take, the coupling overflow check, the
instruction's own effect, and how it retires, waits, traps or parks (R27, R70, R73 to R76, R87). -/

namespace Sys2Proof.Machine

/-- A trap an instruction raises: the condition, whether the matrix engine is its source, and the details. -/
structure TrapInfo where
  cond : Nat
  engine : Bool := false
  d0 : Word := 0
  d1 : Word := 0
  deriving DecidableEq, Repr

/-- A blocking wait an instruction enters (R74, R75). -/
structure WaitSpec where
  what : WaitFor
  kind : Nat
  name : Nat
  psrc : Nat := 7
  prod : Option Nat := none
  bounded : Bool := true
  deriving DecidableEq, Repr

/-- How an instruction's own effect ends. -/
inductive Res where
  /-- It completes: the give is made and the next word follows. -/
  | retire (s : State)
  /-- It completes and the PC moves to a target. -/
  | jump (pc : Word) (s : State)
  /-- It completes and then raises a trap at the following word (R106, R312). -/
  | after (t : TrapInfo) (s : State)
  /-- It completes with no PC to move: the strand's own state is already written. -/
  | done (s : State)
  /-- It completes and its task, or its program, is over. -/
  | gone (s : State)
  /-- It waits; the state holds its recorded progress. -/
  | wait (w : WaitSpec) (s : State)
  /-- It pauses (R83, R318). -/
  | pause (p : Pause) (s : State)
  /-- It traps; the state holds its recorded progress (R7). -/
  | trap (t : TrapInfo) (s : State)
  /-- A recoverable fault parks the strand (R242). -/
  | fault (f : FaultInfo) (s : State)
  /-- A row or a portion of it is done, and the word goes on in the strand's next turn (R135, R182). -/
  | more (s : State)

/-- The effect of an instruction on the strand that executes it. -/
abbrev Body := CoreId → State → Res

/-- The outcome of a step. -/
abbrev Out := Host.Outcome State Fault Refusal

/-- A value, or how the instruction ends early. -/
abbrev Ex (α : Type) := Except Res α

/-- Both ends of an effect written with early ends are one. -/
def Ex.run : Ex Res → Res
  | .ok r => r
  | .error r => r

/-- Ends with a trap that leaves the state given. -/
def trapEx {α : Type} (s : State) (cond : Nat) (d0 d1 : Word := 0) : Ex α :=
  .error (.trap { cond := cond, d0 := d0, d1 := d1 } s)

/-! ### Which strands and modes may issue a form (R38, R186, R377) -/

/-- Groups 0x53 to 0x57 and 0x6_ to 0x9_, LDL and STL: X strand only. -/
def xOnly (op : Nat) : Bool :=
  op == 0x42 || op == 0x43 || (0x53 ≤ op && op ≤ 0x57) || (0x60 ≤ op && op ≤ 0x9F)

/-- Forms that trap ILLOP on a Signal box core (R377). -/
def boxForbidden (op : Nat) : Bool :=
  op == 0x09 || op == 0x0D || op == 0x0E || op == 0x0F || op == 0xA1 || op == 0xA2 || op == 0xA6 ||
    op == 0xA7 || op == 0xA8

/-- Supervisor forms (R38). -/
def supForm (op : Nat) : Bool := op == 0xF1 || (0xF3 ≤ op && op ≤ 0xFA)

/-- The form is permitted on the strand (check 5 of R41). A core program in supervisor mode counts as an X strand
for ACCSPILL and ACCFILL (R186). -/
def strandOk (c : CoreId) (op : Nat) : Bool :=
  match c with
  | .sbox _ => !boxForbidden op && !(op == 0x50) && !(op == 0x51) && (!xOnly op || op == 0x99 || op == 0x9A)
  | .tile _ q =>
    let q := q % 4
    if op == 0x09 || op == 0x0B then q == 0
    else if op == 0x50 then q == 1
    else if op == 0x51 then q == 3
    else if xOnly op then q == 2
    else true

/-- BAR wider than TILE is for the C strand of a launched task (R266, R377). -/
def barOk (s : State) (c : CoreId) (scope : Nat) : Bool :=
  scope == 0 ||
    (match c with
     | .sbox _ => false
     | .tile t q => q % 4 == 0 && (getTile s t).task.any (fun k => k.index.isSome))

/-- What check 7 asks of the strand as well as of the word: no coupling on a core program, no wide barrier off C. -/
def fieldsAtOk (s : State) (c : CoreId) (i : Instr) : Bool :=
  (match c with
   | .sbox _ => syncOf i == 0
   | .tile _ _ => true) &&
  (match i with
   | .bar f => barOk s c f.qn.toNat
   | _ => true)

/-- The word's form executes on this part and on this strand (checks 4 and 5 of R41; R338). -/
def slotOk (s : State) (c : CoreId) (op : Nat) : Bool := s.isaMask.getLsbD op && strandOk c op

/-- The word needs supervisor mode: a form that R308 lists, or an OTHER form of ACCSPILL or ACCFILL (R186). -/
def needsSup (i : Instr) : Bool :=
  supForm (opOf i).toNat ||
    (match i with
     | .accspillOther _ | .accfillOther _ => true
     | _ => false)

/-- A word of the tile's matrix engine: one of group 0x9_, but for the OTHER forms (R174, R180). -/
def engineWord (i : Instr) : Bool :=
  (opOf i).toNat / 16 == 9 &&
    (match i with
     | .accspillOther _ | .accfillOther _ => false
     | _ => true)

/-- Checks 4 to 7 of R41 on an instruction: the condition of the trap, if any. -/
def decodeTrap (s : State) (c : CoreId) (i : Instr) : Option Nat :=
  match i with
  | .zeroword => some 2
  | .illop _ => some 1
  | .pool _ => some 3
  | _ =>
    let op := (opOf i).toNat
    if !slotOk s c op then some 1
    else if needsSup i && (getStrand s c).mode != .supervisor then some 5
    else if !fieldsOk i || !fieldsAtOk s c i then some 4
    else none

/-- The trap of a word whose fields are rejected: checks 5 and 6 come first (R41). -/
def rejectTrap (s : State) (c : CoreId) (i : Instr) : Nat :=
  let op := (opOf i).toNat
  if !slotOk s c op then 1
  else if needsSup i && (getStrand s c).mode != .supervisor then 5
  else 4

/-- Source number of a trap of a core's own word: its sequencer, or the matrix engine (R7, R180, R363). -/
def trapSrc (c : CoreId) (t : TrapInfo) : Nat :=
  match c with
  | .tile _ _ => if t.engine then 4 else coreSrc c
  | .sbox _ => 7

/-- The progress record as DETAIL1 has it (R174). -/
def progressWord (p : Progress) : Word :=
  let st := match p.state with | .idle => 0 | .active => 1 | .parked => 2
  BitVec.ofNat 64 (st * 2 ^ 62 + (p.an % 8) * 2 ^ 59 + (p.kind % 8) * 2 ^ 56 + (p.next % 256) * 2 ^ 48)

/-- The progress record of a core's tile, as DETAIL1 of a trap of its engine (R174). -/
def ownProgressWord (s : State) : CoreId → Word
  | .tile t _ => progressWord (getTile s t).mx.prog
  | .sbox _ => 0

/-- Takes a trap raised by a core's own word; decode traps and the core's own source (R7, R180). -/
def trapCore (s : State) (c : CoreId) (t : TrapInfo) : State :=
  takeTrap s c (causeOf t.cond (trapSrc c t)) t.d0 t.d1

/-- A trap taken at the word after the one at `fpc` that raised it, outside any REP sequence (R87, R312). -/
def trapAfter (s : State) (c : CoreId) (t : TrapInfo) (fpc tpc : Word) : State :=
  takeTrapAt s c (causeOf t.cond (trapSrc c t)) t.d0 t.d1 fpc tpc 0 false

/-! ### Waiting -/

/-- Bound code in force for a wait that begins now: WB, or WAITDEF's code (R31, R74). -/
def boundCode (st : Strand) (i : Instr) : BitVec 10 := if wbOf i = 0 then st.waitdef else wbOf i

/-- Clocks of a bound code; code 0 of WAITDEF is 64 clocks (R31, R105). -/
def boundClocks (c : BitVec 10) : Nat :=
  if c = 0 then 64 else (64 + (c.extractLsb' 0 6).toNat) * 2 ^ (c.extractLsb' 6 4).toNat

/-- The word that a core waits in: under REP, the governed one. -/
def waitWord (st : Strand) (w : Wait) : Instr :=
  match w.instr with
  | .rep f => (st.rep.bind (·.word)).getD (.rep f)
  | i => i

/-- The wait in force is on the same condition; for queues it is the same queue. -/
def sameWait (w : Wait) (x : WaitSpec) : Bool :=
  w.what == x.what && w.kind.toNat == x.kind && (x.what != .lineOperands || w.name.toNat == x.name)

/-- Puts a core into a wait of a word; a wait on the same condition keeps its counter, its bound and its place in the
order of waits. -/
def enterWait (s : State) (c : CoreId) (i : Instr) (w : WaitSpec) (old : Option Wait) : State :=
  modStrand s c (fun st =>
    let fresh : Wait :=
      { what := w.what, kind := BitVec.ofNat 4 w.kind, name := BitVec.ofNat 12 w.name,
        psrc := BitVec.ofNat 3 w.psrc, prod := w.prod, code := boundCode st i, count := 0, began := s.cycle,
        bounded := w.bounded, instr := i }
    let kept : Wait := match old with
      | some o => if sameWait o w then { fresh with code := o.code, count := o.count, began := o.began } else fresh
      | none => fresh
    { st with run := .waiting, wait := some kept })

/-! ### Tokens -/

/-- The SYNC take of a word: nothing to do, done now, or still to wait for (R27). -/
def takeToken (s : State) (c : CoreId) (i : Instr) : Except WaitSpec State :=
  let v := takeOf i
  let st := getStrand s c
  if v = 0 ∨ st.takeDone then .ok s
  else
    match c with
    | .sbox _ => .ok s
    | .tile t q =>
      let self := q % 4
      let peer := peerOf self v
      if (getTile s t).takable peer self = 0 then
        .error { what := .take, kind := 0, name := 4 * peer + self, psrc := peer, prod := some peer }
      else
        .ok (modStrand (modTile s t (fun x => x.setCoupling peer self (x.coupling peer self - 1))) c
          (fun y => { y with takeDone := true }))

/-- The give of a word would raise its coupling above 63 (R73). -/
def giveOverflows (s : State) (c : CoreId) (i : Instr) : Bool :=
  match c with
  | .sbox _ => false
  | .tile t q => giveOf i ≠ 0 && 63 < (getTile s t).coupling (q % 4) (peerOf (q % 4) (giveOf i)) + 1

/-- A word whose give overflows traps CPLOVER (R73), one of the matrix engine with source 4 and the record that stands
(R174, R180). -/
def giveTrap (s : State) (c : CoreId) (i : Instr) : State :=
  let s1 := match c with
    | .sbox _ => s
    | .tile t q => modTile s t (fun x => x.overflowed (q % 4) (peerOf (q % 4) (giveOf i)))
  let e := engineWord i
  trapCore s1 c { cond := 23, engine := e, d1 := if e then ownProgressWord s1 c else 0 }

/-- Adds tokens from a strand to a peer, and wakes the peer (R73, R318). -/
def giveTokens (s : State) (t self peer n : Nat) : State :=
  wake (modTile s t (fun x => x.give self peer n)) (.tile t peer) 2

/-- The give of a word at its retirement (R27). On a Signal box core the watchdog's count starts again (R321). -/
def giveToken (s : State) (c : CoreId) (i : Instr) : State :=
  match c with
  | .sbox g => { s with boxIdle := tabSet 0 s.boxIdle g 0 }
  | .tile t q => if giveOf i = 0 then s else giveTokens s t (q % 4) (peerOf (q % 4) (giveOf i)) 1

/-! ### Ending an instruction -/

/-- Single step is due: SS is set and a word retires in user mode (R311). -/
def stepDue (st : Strand) : Bool := st.ss && st.mode == .user

/-- A core moves on to a PC with no take, wait or sequence left over. -/
def moveOn (s : State) (c : CoreId) (pc : Word) : State :=
  modStrand s c (fun st =>
    { st with pc := pc, takeDone := false, wait := none, rep := none, run := .running, granted := none, dispStep := 0,
              going := none, spawning := none, making := none, staged := none, step := 0, met := false, walk := none, pins := [] })

/-- DEBUG after a word at `fpc` under single step, at once or at the end of the pause that the word began: for the clocks
of a YIELD no word of a handler issues either (R83, R311). -/
def debugAfter (s : State) (c : CoreId) (fpc pc : Word) : State :=
  match (getStrand s c).pause with
  | some (.yield n _) => modStrand s c (fun st => { st with pause := some (.yield n (some fpc)) })
  | _ => trapAfter s c { cond := 43 } fpc pc

/-- Retirement of a word outside a REP sequence: the give, the PC, and DEBUG under single step (R27, R311). -/
def retireWord (s : State) (c : CoreId) (i : Instr) (pc : Word) : State :=
  let due := stepDue (getStrand s c)
  let s1 := moveOn (giveToken s c i) c pc
  if due then debugAfter s1 c (getStrand s c).wordPc pc else s1

/-- A strand parks at a recoverable fault of its word (R242). A stall counter that runs is held (R74). -/
def parkFault (s : State) (c : CoreId) (f : FaultInfo) : State :=
  raiseFault (modStrand s c (fun st => { st with run := .parked, park := some (.fault f), going := none, staged := none, step := 0, met := false, walk := none, pins := [] })) f

/-- What an instruction's end means for its strand, outside a REP sequence. `old` is the wait it was in; a word that
waits has not issued, so `last` stays the PC of the last word issued (R75). -/
def finishWord (c : CoreId) (i : Instr) (old : Option Wait) (last : Word) (r : Res) : Out :=
  match r with
  | .retire s => .next (retireWord s c i ((getStrand s c).pc + 8))
  | .jump pc s => .next (retireWord s c i pc)
  | .after t s =>
    let pc := (getStrand s c).pc + 8
    .next (trapAfter (moveOn (giveToken s c i) c pc) c t (getStrand s c).wordPc pc)
  | .done s => .next (modStrand (giveToken s c i) c (fun st => { st with wait := none }))
  | .gone s => .next s
  | .wait w s => .next (enterWait (modStrand s c (fun st => { st with lastPc := last })) c i w old)
  | .pause p s => .next (modStrand s c (fun st => { st with pause := some p, wait := none }))
  | .trap t s => .next (trapCore s c t)
  | .fault f s => .next (parkFault s c f)
  | .more s => .next (modStrand s c (fun st => { st with going := some i, wait := none }))

/-! ### REP: its passes (R86, R87) -/

/-- The sequence goes on with its next pass. -/
def nextPass (s : State) (c : CoreId) (r : Rep) : State :=
  modStrand s c (fun st =>
    { st with rep := some r, wait := none, run := .running, granted := none, going := none, spawning := none, making := none,
              staged := none, step := 0, met := false, walk := none, pins := [] })

/-- The sequence after a pass. -/
def Rep.next (r : Rep) (f : FP) : Rep :=
  { r with rem := r.rem - 1, offd := r.offd + f.sd.toInt, offa := r.offa + f.sa.toInt, offb := r.offb + f.sb.toInt }

/-- A pass has completed: the next one follows, or the give and the word after the governed one (R86). A trap that
the pass raises counts it as done (R87). -/
def passDone (c : CoreId) (f : FP) (g : Instr) (r : Rep) (t : Option TrapInfo) (s : State) : State :=
  let st := getStrand s c
  let trap := if t.isSome then t else if stepDue st then some { cond := 43 } else none
  if r.rem ≤ 1 then
    let s1 := moveOn (giveToken s c g) c (st.pc + 16)
    match trap with
    | some x => trapAfter s1 c x (st.pc + 8) (st.pc + 16)
    | none => s1
  else
    let s1 := nextPass s c (r.next f)
    match trap with
    | some x => takeTrapAt s1 c (causeOf x.cond (trapSrc c x)) x.d0 x.d1 (st.pc + 8) st.pc (repState (some (r.next f))) st.takeDone
    | none => s1

/-- The word that a strand is in the middle of: under REP, the governed one. -/
def Strand.midWord (st : Strand) : Option Instr :=
  match st.going with
  | some (.rep _) => st.rep.bind (·.word)
  | i => i

/-- A core has issued the word it stands at: it issues no other in this clock (R70, R75). -/
def issued (s : State) (c : CoreId) : State :=
  modStrand (acts s c) c (fun st => { st with lastPc := st.wordPc, run := .running })

/-- A waiting word completes through the act of another party: a barrier, a save that it asked for. -/
def completeWait (s : State) (c : CoreId) : State :=
  let st := getStrand s c
  match st.wait.map Wait.instr, st.rep with
  | some (.rep f), some r =>
    match r.word with
    | some g => passDone c f g r none (issued s c)
    | none => s
  | some i, _ => retireWord (issued s c) c i (st.pc + 8)
  | none, _ => s

/-! ### Strands of saved tasks (R298, R299) -/

/-- A strand of a saved task is PARKED; one that fault service holds stays so (R364). A word in progress is issued again
at resumption and goes on from its recorded progress (R7). -/
def Strand.preempt (st : Strand) : Strand :=
  { st with under := st.run, run := .parked, park := if st.run = .parked then st.park else some .preempted,
            wait := st.wait.map Wait.rejoin, granted := none, going := none, making := none, staged := none, step := 0,
            met := false, walk := none, pins := [] }

/-- A strand resumes in the state it was saved in. -/
def Strand.unpreempt (st : Strand) : Strand :=
  if st.under = .parked then { st with run := .parked, under := .idle }
  else { st with run := st.under, under := .idle, park := none }

/-- A tile without grant requests. -/
def Tile.noGrants (x : Tile) : Tile := { x with grants := [] }

/-- Acts on a strand of a saved task as though the task stood on its tile. A saved strand waits in no queue, so that those
of the running strands stay as they are, and what it does keeps none of them from issuing. -/
def onSaved (s : State) (ctx t q : Nat) (g : State → State) : State :=
  match tabFind s.saves (256 * ctx + t) with
  | none => s
  | some sv =>
    let x := getTile s t
    let live := ({ sv.tile with tvec := x.tvec }).setStrand q (sv.tile.strand q).unpreempt
    let s1 := g (setTile { s with sems := [], tiles := s.tiles.map (fun e => (e.1, e.2.noGrants)) } t live)
    let y := getTile s1 t
    { s1 with
      sems := s.sems
      acted := s.acted
      tiles := tabPut (s1.tiles.map (fun e => (e.1, { e.2 with grants := (getTile s e.1).grants }))) t x
      saves := tabPut s1.saves (256 * ctx + t)
        { sv with tile := { y.setStrand q (y.strand q).preempt with tlb := [], icache := [], fetching := [], tvec := sv.tile.tvec } } }

/-- Acts on a core of a context, or, where its task is saved, on the saved core (R299). -/
def onCore (s : State) (ctx : Nat) (c : CoreId) (g : State → State) : State :=
  match c with
  | .sbox b => if (tabFind s.boxProgs b).any (fun p => p.ctx == ctx) then g s else s
  | .tile t q => if (getTile s t).task.any (fun k => k.ctx == ctx) then g s else onSaved s ctx t q g

/-! ### Records that a resumed strand goes on with, or leaves (R149, R176) -/

/-- Sets the progress record of a tile. -/
def setProg (s : State) (t : Nat) (p : Progress) : State := modTile s t (fun x => { x with mx := { x.mx with prog := p } })

/-- A queue of L or S that is PARKED when the strand goes on elsewhere: an operand queue is POISONED, a drain queue
IDLE (R149). -/
def Queue.leave (poison : Bool) (q : Queue) : Queue :=
  if q.state = .parked then { q with state := if poison then .poisoned else .idle } else q

/-- The queue that a word goes on with: QRD on L, QWR on S. -/
def ownQueue : Instr → Option Nat
  | .qrd f => some f.qn.toNat
  | .qwr f => some f.qn.toNat
  | _ => none

/-- The judgement of PARKED queues when L or S issues a word in user mode (R149). REP leaves it to its governed
word. -/
def judgeQueues (s : State) (c : CoreId) (i : Instr) : State :=
  match c, i with
  | _, .rep _ => s
  | .sbox _, _ => s
  | .tile t q, _ =>
    if (getStrand s c).mode = .supervisor then s
    else if q % 4 = 1 ∧ (getTile s t).qs.toList.any (fun y => y.state == .parked) then
      modTile s t (fun x => { x with qs := Vector.ofFn (fun k =>
        if ownQueue i = some k.val then x.qs[k] else (x.qs[k]).leave true) })
    else if q % 4 = 3 ∧ (getTile s t).ds.toList.any (fun y => y.state == .parked) then
      modTile s t (fun x => { x with ds := Vector.ofFn (fun k =>
        if ownQueue i = some k.val then x.ds[k] else (x.ds[k]).leave false) })
    else s

/-- The word that goes on with a PARKED record: kind and name (R176). -/
def ownProgress : Instr → Option (Nat × Nat)
  | .mstream f => some (0, f.an.toNat)
  | .accrd f => some (1, f.an.toNat)
  | .accwr f => some (2, f.an.toNat)
  | .accspill f => some (3, f.an.toNat)
  | .accfill f => some (4, f.an.toNat)
  | .gdelta f => some (5, f.an.toNat)
  | .gdread f => some (6, f.an.toNat)
  | _ => none

/-- The judgement of a PARKED progress record when X issues a word in user mode (R176). REP leaves it to its governed
word. -/
def judgeEngine (s : State) (c : CoreId) (i : Instr) : State :=
  match c, i with
  | _, .rep _ => s
  | .sbox _, _ => s
  | .tile t q, _ =>
    let p := (getTile s t).mx.prog
    if q % 4 = 2 ∧ (getStrand s c).mode = .user ∧ p.state = .parked ∧ ownProgress i ≠ some (p.kind, p.an) then
      setProg s t Progress.zero
    else s

/-- Both judgements. -/
def judge (s : State) (c : CoreId) (i : Instr) : State := judgeEngine (judgeQueues s c i) c i

/-- A REPSTATE counts only for a word that is REP (R87). -/
def dropRep (s : State) (c : CoreId) (i : Instr) : State :=
  match i with
  | .rep _ => s
  | _ => if (getStrand s c).rep.isSome then modStrand s c (fun st => { st with rep := none }) else s

/-- The checks, the take and the overflow check, and then the effect: one word of a strand (R41, R27, R73). -/
def issueWord (i : Instr) (b : Body) (s0 : State) : Out :=
  let c := s0.cur
  let s := dropRep (judge s0 c i) c i
  let old := (getStrand s c).wait
  match decodeTrap s c i with
  | some cond => .next (trapCore s c { cond := cond })
  | none =>
    match takeToken s c i with
    | .error w => .next (enterWait s c i w old)
    | .ok s1 =>
      if giveOverflows s1 c i then .next (giveTrap s1 c i)
      else
        let s2 := modStrand s1 c (fun st => { st with lastPc := st.pc, run := .running })
        finishWord c i old (getStrand s1 c).lastPc (b c s2)

end Sys2Proof.Machine
end

