-- ==== Sys2Proof/Machine/Operands.lean ====
section
/-! DEFINITION. Operand forms: scalar operands by width and sign, conditions, and effective addresses (R32, R94,
R133, R210, R251). -/

namespace Sys2Proof.Machine

/-- The low `n` bits of a word read as unsigned, or as two's complement. -/
def readBits (n : Nat) (signed : Bool) (w : Word) : Int :=
  if signed then (w.setWidth n).toInt else ((w.setWidth n).toNat : Int)

/-- A result narrowed to 64 bits, or to 32 bits and sign-extended (R94). -/
def narrowTo (n : Nat) (r : Int) : Word :=
  if n = 32 then (BitVec.ofInt 32 r).signExtend 64 else BitVec.ofInt 64 r

/-- A condition of R32 on two words; ALWAYS is code 8. -/
def condHolds (code : Nat) (a b : Word) : Bool :=
  match code with
  | 0 => a == b
  | 1 => a != b
  | 2 => a.slt b
  | 3 => !(a.slt b)
  | 4 => a.ult b
  | 5 => !(a.ult b)
  | 6 => a &&& b != 0
  | 7 => a &&& b == 0
  | _ => true

/-- Width in bits of a register operation: .32 is FN[0] (R94). -/
def aluWidth (f : FR) : Nat := if f.fn.getLsbD 0 then 32 else 64

/-- Signed reading of a register operation: .U is FN[1] (R94). -/
def aluSigned (f : FR) : Bool := !f.fn.getLsbD 1

/-- A number of bytes from SZ (R28). -/
def szBytes (sz : BitVec 2) : Nat := 2 ^ sz.toNat

/-- SExt of DISP18, as an integer. -/
def dispInt (d : BitVec 18) : Int := d.toInt

/-- The segment offset of an F-M operand, exact (R133) with the step of a REP pass. -/
def offFM (st : Strand) (f : FM) : Int :=
  (aOff (st.getA f.ar.toNat) : Int) + (st.getG f.rx).toInt * 2 ^ f.sh.toNat + dispInt f.disp + st.dispStep

/-- The segment offset of an F-Q operand with a G index, exact (R134, R210). -/
def offFQ (st : Strand) (f : FQ) : Int :=
  (aOff (st.getA f.ar.toNat) : Int) + (st.getG f.rc).toInt + dispInt f.disp + st.dispStep

/-- The segment offset of an F-Q operand without an index. -/
def offFQ0 (st : Strand) (f : FQ) : Int :=
  (aOff (st.getA f.ar.toNat) : Int) + dispInt f.disp + st.dispStep

/-- The virtual address of an F-G operand, exact, its registers read as unsigned (R251). -/
def addrFG (st : Strand) (f : FG) : Int :=
  ((st.getG f.rb).toNat : Int) + ((st.getG f.rx).toNat : Int) * 2 ^ f.sh.toNat + dispInt f.disp + st.dispStep

end Sys2Proof.Machine
end

