-- ==== Sys2Proof/Machine/Branch.lean ====
section
/-! DEFINITION. Group 0x0_: branches, FORK, RDV, YIELD, NOP and the explicit tokens (R78 to R85). REP is in
Governed and END in Tasks. -/

namespace Sys2Proof.Machine

/-- First word of the fetch block that holds a PC (R42). -/
def blockOf (pc : Word) : Word := pc &&& ~~~0x3F#64

/-- Target of a direct branch, exact: blocks counted from the branch's own (R42). -/
def blockTarget (pc : Word) (off : BitVec 32) : Int := ((blockOf pc).toNat : Int) + off.toInt * 64

/-- The target lies in the virtual address space (R43). -/
def targetOk (t : Int) : Bool := decide (0 ≤ t) && decide (t < 2 ^ 52)

/-- The link value: the first word of the next block (R78). -/
def linkOf (pc : Word) : Word := blockOf pc + 64

/-- A direct branch: `s1` is the state with the branch's register writes when it is not taken (R78). -/
def directBranch (c : CoreId) (s s1 : State) (off : BitVec 32) (taken : Bool) (link : State → State) : Res :=
  if taken then
    let t := blockTarget (getStrand s c).pc off
    if targetOk t then .jump (BitVec.ofInt 64 t) (link s1) else .trap { cond := 19 } s
  else .retire s1

/-- Condition of a branch on two G registers. -/
def branchCond (st : Strand) (f : FB) : Bool := condHolds f.cond.toNat (st.getG f.ra) (st.getG f.rb)

def bodyBr (f : FB) : Body := fun c s => directBranch c s s f.off true id

def bodyBcc (f : FB) : Body := fun c s => directBranch c s s f.off (branchCond (getStrand s c) f) id

def bodyBcall (f : FB) : Body := fun c s =>
  directBranch c s s f.off (branchCond (getStrand s c) f) (fun s1 => setGOf s1 c 31 (linkOf (getStrand s c).pc))

/-- LOOP decrements its counter and is taken while it is not zero (R78). -/
def bodyLoop (f : FB) : Body := fun c s =>
  let n := (getStrand s c).getG f.ra - 1
  directBranch c s (setGOf s c f.ra n) f.off (n != 0) id

/-- Target checks of JR and JRL: ADDRRANGE, then ALIGNBR (R43, R79). -/
def indirectBranch (_c : CoreId) (s : State) (t : Word) (link : State → State) : Res :=
  if t.extractLsb' 52 12 ≠ 0 then .trap { cond := 19 } s
  else if t.extractLsb' 0 6 ≠ 0 then .trap { cond := 6 } s
  else .jump t (link s)

def bodyJr (f : FR) : Body := fun c s => indirectBranch c s ((getStrand s c).getG f.ra) id

def bodyJrl (f : FR) : Body := fun c s =>
  indirectBranch c s ((getStrand s c).getG f.ra) (fun s1 => setGOf s1 c f.rd (linkOf (getStrand s c).pc))

def bodyNop (_f : FR) : Body := fun _ s => .retire s

/-- The strand FORK starts: G1 to G8, WAITDEF, RMDYN and the FPSTAT enables of C, its other G and A registers and its
flags zero (R80, R92). The frame registers, TSCRATCH, the wake latch and the held errors of a strand that is forked again
are zero too, which no rule says (log entry 57). -/
def forkedStrand (c : Strand) (pc : Word) : Strand :=
  { Strand.blank with
      run := .running, pc := pc, g := Vector.ofFn (fun i => if 1 ≤ i.val ∧ i.val ≤ 8 then c.g[i.val] else 0),
      waitdef := c.waitdef, rmdyn := c.rmdyn, fpEn := c.fpEn }

/-- FORK (R80). -/
def bodyFork (f : FS) : Body := fun c s =>
  match c with
  | .sbox _ => .trap { cond := 1 } s
  | .tile t _ =>
    let st := getStrand s c
    let tgt := blockTarget st.pc f.imm
    let q := f.fn8.toNat
    if !targetOk tgt then .trap { cond := 19 } s
    else if (getStrand s (.tile t q)).run ≠ .idle then .trap { cond := 24 } s
    else .retire (setStrand s (.tile t q) (forkedStrand st (BitVec.ofInt 64 tgt)))

/-- Strands 1 to 3 of a tile that have not arrived and are not idle. -/
def notArrived (x : Tile) : List Nat :=
  [1, 2, 3].filter (fun q => (x.strand q).run != .idle && (x.strand q).run != .arrived)

/-- Every arrived strand returns to IDLE (R81). -/
def joinArrived (x : Tile) : Tile :=
  { x with strands := x.strands.map (fun st => if st.run = .arrived then { st with run := .idle } else st) }

/-- A strand waits at the TILE barrier under way (R266). -/
def atTileBarrier (st : Strand) : Bool :=
  st.run == .waiting && st.wait.any (fun w => w.what == .barrier && w.name == 0)

/-- Strands of a tile that wait at its TILE barrier. -/
def tileWaiters (x : Tile) (t : Nat) : List CoreId :=
  ((List.range 4).filter (fun q => atTileBarrier (x.strand q))).map (CoreId.tile t)

/-- The waiting participants of a TILE barrier that completes continue, in this clock (R266). -/
def releaseTile (s : State) (t : Nat) : State := (tileWaiters (getTile s t) t).foldl completeWait s

/-- The TILE barrier completes when every strand that is neither IDLE nor ARRIVED has arrived at it (R266). -/
def tileBarrier (s : State) (t : Nat) : State :=
  if (getTile s t).strands.toList.all (fun st => st.run == .idle || st.run == .arrived || atTileBarrier st) then releaseTile s t
  else s

/-- RDV: on L, X and S the strand arrives; on C it joins (R81). A core program joins at once (R377). -/
def bodyRdv (_f : FQ) : Body := fun c s =>
  match c with
  | .sbox _ => .retire s
  | .tile t q =>
    if q % 4 ≠ 0 then
      .done (tileBarrier (modStrand s c (fun st => { st with run := .arrived, pc := st.pc + 8, takeDone := false })) t)
    else
      let miss := notArrived (getTile s t)
      if miss = [] then .retire (modTile s t joinArrived)
      else
        let one := if miss.length = 1 then miss.head? else none
        .wait { what := .rdvJoin, kind := 1, name := (miss.map (2 ^ ·)).sum, psrc := one.getD 7, prod := one } s

/-- YIELD: the strand issues nothing for max(1, Ga[19:0]) clocks (R83). It retires, and so makes its give, before the
pause; the rule does not say when (log entry 58). The clocks count from its issue clock (log entry 77). -/
def bodyYield (f : FR) : Body := fun c s =>
  let n := max 1 (((getStrand s c).getG f.ra).extractLsb' 0 20).toNat
  .retire (modStrand s c (fun st => { st with pause := some (.yield (s.cycle + n) none) }))

/-- Peer and direction of an explicit token word (R85). -/
def tokenPeer (f : FQ) (self : Nat) : Nat := peerOf self (f.qn.toNat % 4)

/-- TKGIVE adds n tokens at once, and traps CPLOVER above 63 (R73, R85). -/
def bodyTkgive (f : FQ) : Body := fun c s =>
  match c with
  | .sbox _ => .trap { cond := 1 } s
  | .tile t q =>
    let self := q % 4
    let peer := tokenPeer f self
    let n := f.aux.toNat
    let own := if giveOf (.tkgive f) ≠ 0 ∧ peerOf self (giveOf (.tkgive f)) = peer then 1 else 0
    if 63 < (getTile s t).coupling self peer + n + own then .trap { cond := 23 } (modTile s t (fun x => x.overflowed self peer))
    else .retire (giveTokens s t self peer n)

/-- TKTAKE removes n tokens once that many are there (R85). -/
def bodyTktake (f : FQ) : Body := fun c s =>
  match c with
  | .sbox _ => .trap { cond := 1 } s
  | .tile t q =>
    let self := q % 4
    let peer := tokenPeer f self
    let n := f.aux.toNat
    if n ≤ (getTile s t).takable peer self then
      .retire (modTile s t (fun x => x.setCoupling peer self (x.coupling peer self - n)))
    else .wait { what := .tokens, kind := 0, name := 4 * peer + self, psrc := peer, prod := some peer } s

/-- TKCNT reads a coupling's count (R85). -/
def bodyTkcnt (f : FQ) : Body := fun c s =>
  match c with
  | .sbox _ => .trap { cond := 1 } s
  | .tile t q =>
    let self := q % 4
    let peer := tokenPeer f self
    let n := if f.qn.getLsbD 3 then (getTile s t).coupling self peer else (getTile s t).coupling peer self
    .retire (setGOf s c f.rc (BitVec.ofNat 64 n))

/-! ### The meanings -/

/-- NOP (OP 0x01, R84). -/
def execNop (f : FR) (s : State) : Out := issueWord (.nop f) (bodyNop f) s

/-- BR (OP 0x02, R78). -/
def execBr (f : FB) (s : State) : Out := issueWord (.br f) (bodyBr f) s

/-- BCC (OP 0x03, R78). -/
def execBcc (f : FB) (s : State) : Out := issueWord (.bcc f) (bodyBcc f) s

/-- BCALL (OP 0x04, R78). -/
def execBcall (f : FB) (s : State) : Out := issueWord (.bcall f) (bodyBcall f) s

/-- LOOP (OP 0x07, R78). -/
def execLoop (f : FB) (s : State) : Out := issueWord (.loop f) (bodyLoop f) s

/-- JR (OP 0x05, R79). -/
def execJr (f : FR) (s : State) : Out := issueWord (.jr f) (bodyJr f) s

/-- JRL (OP 0x06, R79). -/
def execJrl (f : FR) (s : State) : Out := issueWord (.jrl f) (bodyJrl f) s

/-- FORK (OP 0x09, R80). -/
def execFork (f : FS) (s : State) : Out := issueWord (.fork f) (bodyFork f) s

/-- RDV (OP 0x0A, R81). -/
def execRdv (f : FQ) (s : State) : Out := issueWord (.rdv f) (bodyRdv f) s

/-- YIELD (OP 0x0C, R83). -/
def execYield (f : FR) (s : State) : Out := issueWord (.yield f) (bodyYield f) s

/-- TKGIVE (OP 0x0D, R85). -/
def execTkgive (f : FQ) (s : State) : Out := issueWord (.tkgive f) (bodyTkgive f) s

/-- TKTAKE (OP 0x0E, R85). -/
def execTktake (f : FQ) (s : State) : Out := issueWord (.tktake f) (bodyTktake f) s

/-- TKCNT (OP 0x0F, R85). -/
def execTkcnt (f : FQ) (s : State) : Out := issueWord (.tkcnt f) (bodyTkcnt f) s

end Sys2Proof.Machine
end

