-- ==== Sys2Proof/Machine/Flags.lean ====
section
/-! DEFINITION. FPSTAT: the sticky flags, their trap enables and FPEXC (R61, R106). -/

namespace Sys2Proof.Machine

/-- Flag bits of FPSTAT (R106). -/
abbrev flagNX : BitVec 6 := 1
/-- Underflow. -/
abbrev flagUF : BitVec 6 := 2
/-- Overflow. -/
abbrev flagOF : BitVec 6 := 4
/-- Divide by zero. -/
abbrev flagDZ : BitVec 6 := 8
/-- Invalid. -/
abbrev flagNV : BitVec 6 := 16
/-- Saturation. -/
abbrev flagSAT : BitVec 6 := 32

/-- An operation ORs its flags into FPSTAT (R106). -/
def orFlags (s : State) (c : CoreId) (fl : BitVec 6) : State :=
  modStrand s c (fun st => { st with fpFlags := st.fpFlags ||| fl })

/-- The end of an operation that raises flags: FPEXC after its results when one of its flags is enabled (R106). -/
def flagsDone (s : State) (c : CoreId) (fl : BitVec 6) (engine : Bool := false) : Res :=
  let s1 := orFlags s c fl
  if (getStrand s1 c).fpEn &&& fl ≠ 0 then
    .after { cond := 28, engine := engine, d0 := fl.zeroExtend 64 } s1
  else .retire s1

/-- FPSTAT as a CSR (R106). -/
def fpstatWord (st : Strand) : Word := (st.fpEn.zeroExtend 64 <<< 8) ||| st.fpFlags.zeroExtend 64

end Sys2Proof.Machine
end

