-- ==== Sys2Proof/Machine/Seg.lean ====
section
/-! DEFINITION. Segments: names, attribute words, copies, operand checks, residency, grants and the bytes of a
segment (R114 to R132, R353). -/

namespace Sys2Proof.Machine

/-! ### Attribute words (R115) -/

/-- FMT of an attribute word. -/
def attrFmt (a : Word) : Nat := (a.extractLsb' 8 4).toNat
/-- PLANES. -/
def attrPlanes (a : Word) : Nat := (a.extractLsb' 12 4).toNat
/-- SCALE. -/
def attrScale (a : Word) : Nat := (a.extractLsb' 32 16).toNat
/-- NOPUSH. -/
def attrNopush (a : Word) : Bool := a.getLsbD 4
/-- KEEP. -/
def attrKeep (a : Word) : Bool := a.getLsbD 3
/-- REPLICA. -/
def attrReplica (a : Word) : Bool := a.getLsbD 2
/-- RO. -/
def attrRo (a : Word) : Bool := a.getLsbD 1

/-- The attribute word is valid (R115). -/
def attrValid (a : Word) : Bool :=
  let sgrp := (a.extractLsb' 6 2).toNat
  a.extractLsb' 57 7 == 0 && a.extractLsb' 16 16 == 0 && !a.getLsbD 5 && !a.getLsbD 0 &&
    attrFmt a ≤ 10 && sgrp ≤ 1 &&
    (if attrFmt a = 9 then 2 ≤ attrPlanes a && attrPlanes a ≤ 8 && sgrp == 1 && attrScale a ≠ 0
     else attrPlanes a == 0) &&
    (attrScale a == 0 || sgrp ≠ 0)

/-- Width in bytes of an element format; BP and the reserved codes have none (R34). -/
def fmtWidth (fmt : Nat) : Option Nat :=
  match fmt with
  | 0 | 5 => some 4
  | 1 | 2 | 6 => some 2
  | 3 | 4 | 7 | 8 | 10 => some 1
  | _ => none

/-! ### Names and copies (R114, R118, R119) -/

/-- Granules of a length in bytes. -/
def granOf (bytes : Nat) : Nat := (bytes + 63) / 64

/-- A segment of a context by name. -/
def findSeg (s : State) (ctx name : Nat) : Option Segment :=
  (tabFind s.ctxs ctx).bind (fun x => tabFind x.segs name)

/-- Changes a segment that exists. -/
def modSeg (s : State) (ctx name : Nat) (f : Segment → Segment) : State :=
  modCtx s ctx (fun x =>
    match tabFind x.segs name with
    | some g => { x with segs := tabPut x.segs name (f g) }
    | none => x)

/-- Changes the copy of a segment on a tile. -/
def modCopy (s : State) (ctx name tile : Nat) (f : SegCopy → SegCopy) : State :=
  modSeg s ctx name (fun g =>
    match tabFind g.copies tile with
    | some c => { g with copies := tabPut g.copies tile (f c) }
    | none => g)

/-- The tile whose copy a name resolves to on a tile (R119). -/
def copyTile (g : Segment) (tile : Nat) : Nat :=
  if attrReplica g.attr ∧ (tabFind g.copies tile).isSome then tile else g.home

/-- The copy of a segment on a tile. -/
def getCopy (g : Segment) (tile : Nat) : SegCopy :=
  (tabFind g.copies tile).getD { res := .pushed, base := 0, touch := 0, data := [], poison := [], side := [] }

/-- The copy of a name on a tile, if there is one. -/
def copyOn (s : State) (ctx name tile : Nat) : Option SegCopy := (findSeg s ctx name).bind (fun g => tabFind g.copies tile)

/-- A segment operand that has passed its name checks. -/
structure SegRef where
  name : Nat
  /-- The tile whose copy is meant. -/
  tile : Nat
  seg : Segment
  deriving DecidableEq, Repr

/-- Checks 1 and 2 of R132: the name is not null, allocated, and homed in the stack group; a name whose SALLOC is still in
progress is not allocated (R137). -/
def lookupSeg (s : State) (ctx tile name : Nat) : Except Nat SegRef :=
  if name = 0 then .error 8
  else if 4095 < name then .error 9
  else
    match findSeg s ctx name with
    | none => .error 9
    | some g =>
      let t := copyTile g tile
      if g.making ∨ t / 32 ≠ tile / 32 then .error 9 else .ok ⟨name, t, g⟩

/-- DETAIL1 of a segment trap: the exact offset (07_segments, trap details). -/
def offDetail (off : Int) : Word := BitVec.ofInt 64 off

/-- A segment trap with the A value used and the offset computed. -/
def segTrap {α : Type} (s : State) (cond : Nat) (a : Word) (off : Int) : Ex α := trapEx s cond a (offDetail off)

/-- Checks 1 and 2 of R132 on an operand. -/
def segName (s : State) (ctx tile : Nat) (a : Word) (off : Int) : Ex SegRef :=
  match lookupSeg s ctx tile (aName a) with
  | .error cond => segTrap s cond a off
  | .ok r => .ok r

/-- Checks 3 to 5 of R132: range, alignment, no write to an RO segment. -/
def segRange (s : State) (r : SegRef) (a : Word) (off : Int) (n align : Nat) (write : Bool) : Ex Nat :=
  if off < 0 ∨ (r.seg.bytes : Int) < off + n then segTrap s 10 a off
  else if off.toNat % align ≠ 0 then segTrap s 7 a off
  else if write ∧ attrRo r.seg.attr then segTrap s 14 a off
  else .ok off.toNat

/-- Checks 1 to 5 of R132 on an operand of `n` bytes at an offset. -/
def segCheck (s : State) (ctx tile : Nat) (a : Word) (off : Int) (n align : Nat) (write : Bool) : Ex (SegRef × Nat) := do
  let r ← segName s ctx tile a off
  let o ← segRange s r a off n align write
  return (r, o)

/-! ### Occupancy of a scratchpad (R120 to R124) -/

/-- A copy as it stands on a tile. -/
structure Placed where
  ctx : Nat
  name : Nat
  gran : Nat
  attr : Word
  making : Bool
  copy : SegCopy
  deriving DecidableEq, Repr

/-- Every copy that a tile homes or replicates, resident or not. -/
def placedOn (s : State) (tile : Nat) : List Placed :=
  s.ctxs.flatMap (fun cx => cx.2.segs.filterMap (fun sg =>
    (tabFind sg.2.copies tile).map (fun c => ⟨cx.1, sg.1, granOf sg.2.bytes, sg.2.attr, sg.2.making, c⟩)))

/-- The copy holds granules: RESIDENT or MOVING. -/
def holdsGranules (c : SegCopy) : Bool := c.res != .pushed

/-- A copy is MOVING: on its way to or from the sidings, or under the Shunter. -/
def isMoving (c : SegCopy) : Bool := c.res != .resident && c.res != .pushed

/-- The lowest granule that a copy of a length occupies, and how many it spans: one that the Shunter moves spans its run and
the one it goes to. -/
def SegCopy.extent (c : SegCopy) (gran : Nat) : Nat × Nat :=
  match c.res with
  | .sliding dest _ => (min dest c.base, max dest c.base + gran - min dest c.base)
  | _ => (c.base, gran)

/-- Granules of a tile held by a context (R121); the RESUSED CSR (R109). -/
def resUsed (s : State) (ctx tile : Nat) : Nat :=
  ((placedOn s tile).filter (fun p => p.ctx == ctx && holdsGranules p.copy)).map (·.gran) |>.sum

/-- NOPUSH granules of a tile: those that a context holds there outside a footprint, or those of every NOPUSH copy, PUSHED
ones too, which the bound of R129 is to hold for once they are recalled (R127, R129). -/
def nopushGran (s : State) (tile : Nat) (ctx : Option Nat) (skip : List Nat) : Nat :=
  ((placedOn s tile).filter (fun p => attrNopush p.attr &&
    (match ctx with
     | some c => holdsGranules p.copy && p.ctx == c && !skip.contains p.name
     | none => true))).map (·.gran) |>.sum

/-- RESQUOTA of a context on a tile (R109). That of a context state block is kept as it is, also above 24,576 (log entry
82). -/
def resQuota (s : State) (ctx tile : Nat) : Nat :=
  ((tabFind s.ctxs ctx).map (fun x => tabGet x.block.resq x.resquota tile)).getD 0

/-- Inserts an extent in order of its first granule. -/
def insertExtent (e : Nat × Nat) : List (Nat × Nat) → List (Nat × Nat)
  | [] => [e]
  | x :: xs => if e.1 < x.1 then e :: x :: xs else x :: insertExtent e xs

/-- Occupied extents of a tile in increasing BASE, without one copy whose granules count as free. -/
def extents (s : State) (tile : Nat) (own : Option (Nat × Nat)) : List (Nat × Nat) :=
  ((placedOn s tile).filter (fun p => holdsGranules p.copy && some (p.ctx, p.name) != own)).foldl
    (fun l p => insertExtent (p.copy.extent p.gran) l) []

/-- The lowest run of `n` free granules at or above `pos` (R353). -/
def runFrom (n : Nat) : Nat → List (Nat × Nat) → Option Nat
  | pos, [] => if pos + n ≤ Config.granules then some pos else none
  | pos, (b, g) :: rest => if pos + n ≤ b then some pos else runFrom n (max pos (b + g)) rest

/-- The lowest-numbered run of free granules that holds `n` (R353). -/
def findRun (s : State) (tile n : Nat) (own : Option (Nat × Nat)) : Option Nat := runFrom n 0 (extents s tile own)

/-- Free granules of a tile. -/
def freeGran (s : State) (tile : Nat) (own : Option (Nat × Nat)) : Nat :=
  Config.granules - ((extents s tile own).map (·.2)).sum

/-- Pins in force: those of commands, and those of strands inside a portion (R125). -/
def pinsOf (s : State) : List Pin :=
  s.cmds.flatMap (fun e => e.2.pins) ++ s.tiles.flatMap (fun e => e.2.strands.toList.flatMap (·.pins))
    ++ s.boxes.flatMap (fun e => e.2.pins)

/-- A copy holds a pin. -/
def isPinned (s : State) (ctx name tile : Nat) : Bool :=
  (pinsOf s).any (fun p => p.ctx == ctx && p.seg == name && p.tile == tile)

/-- Granules a client holds pinned on a tile. -/
def clientPinned (s : State) (tile client : Nat) : Nat :=
  ((pinsOf s).filter (fun p => p.tile == tile && p.client == client)).map (·.gran) |>.sum

/-- FLOORk of a tile (R109). -/
def floorOf (s : State) (tile client : Nat) : Nat :=
  ((getTile s tile).floors[client % 7]'(Nat.mod_lt _ (by decide))).toNat

/-- The client as which Nguka makes its own requests: none of the seven of R125 (log entry 20). -/
abbrev loaderClient : Nat := 7

/-- What one request of a client may ask for at most: its floor; for Nguka, which has none, all that NOPUSH segments
leave of the tile (R126, R129, log entry 20). -/
def clientFloor (s : State) (tile client : Nat) : Nat :=
  if client < 7 then floorOf s tile client else Config.granules - nopushGran s tile none []

/-- Sum of a tile's floors. -/
def floorSum (s : State) (tile : Nat) : Nat := ((List.range 7).map (floorOf s tile)).sum

/-- `more` NOPUSH granules on a tile would break the bound of R129. -/
def nopushBreaks (s : State) (tile more : Nat) : Bool :=
  decide (Config.granules < nopushGran s tile none [] + more + floorSum s tile)

/-- The context has a task running on the tile. -/
def runningOn (s : State) (ctx tile : Nat) : Bool := (getTile s tile).task.any (fun k => k.ctx == ctx)

/-- Marks a touch of a segment copy (R353). -/
def touchSeg (s : State) (ctx name tile : Nat) : State :=
  let s1 := { s with touches := s.touches + 1 }
  modCopy s1 ctx name tile (fun c => { c with touch := s1.touches })

/-- Room in a context's sidings for `n` bytes more (R123). -/
def sidingRoom (s : State) (ctx n : Nat) : Bool :=
  ((tabFind s.ctxs ctx).map (fun x => decide (x.sidings + n ≤ x.block.sidsize))).getD false

/-! ### Sidings (R123, R169): blocks of 64 bytes from SIDBASE on; an image takes the lowest free ones (log entry 16) -/

/-- Blocks in use. -/
def sideUsed (x : Context) : List Nat :=
  x.segs.flatMap (fun g => g.2.copies.flatMap (fun e => e.2.side)) ++ x.accs.flatMap (fun a => a.2.side ++ a.2.dir)

/-- The lowest `n` free blocks of a context's sidings. -/
def sideFree (s : State) (ctx n : Nat) : List Nat :=
  let used := ((tabFind s.ctxs ctx).map sideUsed).getD []
  ((List.range (n + used.length)).filter (fun k => !used.contains k)).take n

/-- Physical address of a block. -/
def sideAddr (s : State) (ctx k : Nat) : Nat := ((tabFind s.ctxs ctx).map (·.block.sidbase)).getD 0 + 64 * k

/-- Runs of consecutive blocks: the first block of each, and how many there are. -/
def sideRuns : List Nat → List (Nat × Nat)
  | [] => []
  | b :: bs =>
    match sideRuns bs with
    | (f, n) :: rest => if f = b + 1 then (b, n + 1) :: rest else (b, 1) :: (f, n) :: rest
    | [] => [(b, 1)]

/-- Writes an image into its blocks, with the sectors of it that carry poison. -/
def sidePut (s : State) (ctx : Nat) (blocks : List Nat) (bs : List Byte) (poison : List Nat) : State :=
  let (_, s1) := (sideRuns blocks).foldl (fun (acc : List Byte × State) r =>
    (acc.1.drop (64 * r.2), paWrite acc.2 (sideAddr s ctx r.1) (acc.1.take (64 * r.2)))) (bs, s)
  let bad := (blocks.zipIdx.filter (fun b => poison.contains b.2)).map (fun b => sideAddr s ctx b.1 / 64)
  if bad = [] then s1 else { s1 with poison := s1.poison ++ bad }

/-- The bytes of an image in the sidings. -/
def sideGet (s : State) (ctx : Nat) (blocks : List Nat) : List Byte := blocks.flatMap (fun k => paBytes s (sideAddr s ctx k) 64)

/-- The sectors of an image in the sidings that carry poison. -/
def sideBad (s : State) (ctx : Nat) (blocks : List Nat) : List Nat :=
  (blocks.zipIdx.filter (fun b => paPoisoned s (sideAddr s ctx b.1) 64)).map (·.2)

/-! ### Pushes, recalls and moves (R123, R124) -/

/-- A push begins: sidings space is taken. -/
def startPush (s : State) (p : Placed) (tile : Nat) : State :=
  let blocks := sideFree s p.ctx p.gran
  modCtx (modCopy s p.ctx p.name tile (fun c => { c with res := .pushing, side := blocks })) p.ctx
    (fun x => { x with sidings := x.sidings + 64 * p.gran })

/-- A push ends: the image is in the sidings and the granules are free. -/
def endPush (s : State) (ctx name tile : Nat) : State :=
  match copyOn s ctx name tile with
  | none => s
  | some c =>
    sidePut (modCopy s ctx name tile (fun c => { c with res := .pushed, base := 0 })) ctx c.side
      (Memory.readBytes c.data 0 (64 * c.side.length)) c.poison

/-- A recall begins at a run of free granules. -/
def startRecall (s : State) (ctx name tile base : Nat) : State :=
  modCopy s ctx name tile (fun c => { c with res := .recalling, base := base })

/-- A recall ends: the segment is RESIDENT with the bytes of its image, and its sidings space is free. -/
def endRecall (s : State) (ctx name tile gran : Nat) : State :=
  modCtx (modCopy s ctx name tile (fun c =>
      { c with res := .resident, data := Memory.writeBytes [] 0 (sideGet s ctx c.side), poison := sideBad s ctx c.side,
               side := [] })) ctx
    (fun x => { x with sidings := x.sidings - 64 * gran })

/-- The Shunter moves one granule more of a copy, and ends with the last (R124). -/
def slideOn (s : State) (ctx name tile gran dest moved : Nat) : State :=
  modCopy s ctx name tile (fun c =>
    if gran ≤ moved + 1 then { c with res := .resident, base := dest } else { c with res := .sliding dest (moved + 1) })

/-- The copy of least touch among candidates. -/
def oldest : List Placed → Option Placed
  | [] => none
  | p :: rest =>
    match oldest rest with
    | none => some p
    | some q => if q.copy.touch < p.copy.touch then some q else some p

/-- The class of a victim for a request of a context (R122); 0 for the request's own quota pushes (R121). -/
def victimClass (s : State) (ctx tile : Nat) (forQuota : Bool) (p : Placed) : Option Nat :=
  if forQuota then (if p.ctx = ctx then some 0 else none)
  else if !runningOn s p.ctx tile && !attrKeep p.attr then some 1
  else if p.ctx = ctx then some 2
  else if !runningOn s p.ctx tile then some 3
  else none

/-- Candidates for a push: RESIDENT, unpinned, not NOPUSH, outside the footprint, and no copy of an SALLOC in progress, which
leaves its copies RESIDENT (R122, R136, R353). -/
def candidates (s : State) (ctx tile : Nat) (names : List Nat) (forQuota : Bool) : List Placed :=
  (placedOn s tile).filter (fun p =>
    p.copy.res == .resident && !isPinned s p.ctx p.name tile && !attrNopush p.attr && !p.making &&
      !(p.ctx == ctx && names.contains p.name) && (victimClass s ctx tile forQuota p).isSome)

/-- What looking for a victim finds: one to push, or the granules passed over and the first context with full
sidings. -/
inductive Victim where
  | found (p : Placed)
  | passed (gran ctx : Nat)
  | none
  deriving DecidableEq, Repr

/-- The victim of the lowest class, least recently touched first, whose context's sidings can take it (R122). -/
def findVictim (s : State) (ctx tile : Nat) (names : List Nat) (forQuota : Bool) : Victim :=
  let cs := candidates s ctx tile names forQuota
  let fit := cs.filter (fun p => sidingRoom s p.ctx (64 * p.gran))
  let pick := [0, 1, 2, 3].findSome? (fun k => oldest (fit.filter (fun p => victimClass s ctx tile forQuota p == some k)))
  match pick with
  | some p => .found p
  | none =>
    match [0, 1, 2, 3].findSome? (fun k => oldest (cs.filter (fun p => victimClass s ctx tile forQuota p == some k))) with
    | some p => .passed ((cs.map (·.gran)).sum) p.ctx
    | none => .none

/-- The first resident copy in increasing BASE with a free granule directly below it, and where it comes to rest
(R124, R353). -/
def slideFrom (ps : List Placed) : Nat → List (Nat × Nat) → Option (Placed × Nat)
  | _, [] => none
  | pos, (b, g) :: rest =>
    match ps.find? (fun p => p.copy.base == b && p.copy.res == .resident) with
    | some p => if pos < b then some (p, pos) else slideFrom ps (max pos (b + g)) rest
    | none => slideFrom ps (max pos (b + g)) rest

/-- The Shunter's next move on a tile; the granules of a segment that SGROW extends count as free (R353). -/
def nextSlide (s : State) (tile : Nat) (own : Option (Nat × Nat)) : Option (Placed × Nat) :=
  slideFrom ((placedOn s tile).filter (fun p => holdsGranules p.copy && some (p.ctx, p.name) != own)) 0 (extents s tile own)

/-- A segment that SGROW extends gives way to one that slides onto its granules: it goes to those directly above, which the
slide frees (R124, R353, log entry 15). -/
def giveWay (s : State) (tile : Nat) (own : Option (Nat × Nat)) (p : Placed) (pos : Nat) : State :=
  match own with
  | some (ctx, name) =>
    modCopy s ctx name tile (fun c =>
      if c.res = .resident ∧ c.base < p.copy.base ∧ c.base < pos + p.gran then { c with res := .sliding (pos + p.gran) 0 } else c)
  | none => s

/-! ### Grants (R125 to R129) -/

/-- Granules a request asks for. -/
def reqGran (items : List (Nat × Nat)) : Nat := (items.map (·.2)).sum

/-- Granules a request needs beyond what its segments hold now on the tile. -/
def reqExtra (s : State) (ctx tile : Nat) (items : List (Nat × Nat)) : Nat :=
  (items.map (fun it =>
    match findSeg s ctx it.1 with
    | some g => if (tabFind g.copies tile).any holdsGranules then it.2 - granOf g.bytes else it.2
    | none => it.2)).sum

/-- Every item is RESIDENT, with the granules it is to have or, for SGROW, at the lowest run that holds them when its own
granules count as free (R353). -/
def reqResident (s : State) (ctx tile : Nat) (items : List (Nat × Nat)) : Bool :=
  items.all (fun it =>
    match findSeg s ctx it.1 with
    | some g => (tabFind g.copies tile).any (fun c => c.res == .resident &&
        (decide (it.2 ≤ granOf g.bytes) || findRun s tile it.2 (some (ctx, it.1)) == some c.base))
    | none => false)

/-- The request could never be granted: QUOTA (R127). -/
def quotaImpossible (s : State) (ctx tile : Nat) (items : List (Nat × Nat)) : Bool :=
  resQuota s ctx tile < reqGran items + nopushGran s tile (some ctx) (items.map (·.1))

/-- Name of a request's first segment, as DETAIL0 has it. -/
def reqName (items : List (Nat × Nat)) : Word := mkA ((items.head?.map (·.1)).getD 0) 0

/-- A residency trap with the granules requested above a second value (07_segments, trap details). -/
def quotaTrap (items : List (Nat × Nat)) (cond low : Nat) : TrapInfo :=
  { cond := cond, d0 := reqName items, d1 := BitVec.ofNat 64 (reqGran items * 2 ^ 32 + low) }

/-- What one look of the residency manager at a request does. -/
inductive GrantLook where
  /-- The request is granted: its footprint is RESIDENT. -/
  | granted
  /-- A push, a recall or a growth has begun or ended: the state is new. -/
  | moved (s : State)
  /-- A recall has begun for the request. -/
  | recalling (s : State)
  /-- The request traps. -/
  | traps (t : TrapInfo)
  /-- It waits for the Shunter to gather free granules, those of the segment that grows among them. -/
  | slides (own : Option (Nat × Nat))
  /-- It waits. -/
  | waits

/-- The first item that is not RESIDENT at its length. -/
def nextAbsent (s : State) (ctx tile : Nat) (items : List (Nat × Nat)) : Option (Nat × Nat) :=
  items.find? (fun it => !reqResident s ctx tile [it])

/-- Granules of the items that are still to be placed. -/
def reqAbsent (s : State) (ctx tile : Nat) (items : List (Nat × Nat)) : Nat :=
  reqGran (items.filter (fun it => !reqResident s ctx tile [it]))

/-- A push of a victim, or what its absence means (R122, R126). -/
def lookVictim (s : State) (ctx tile : Nat) (items : List (Nat × Nat)) (forQuota : Bool) : GrantLook :=
  match findVictim s ctx tile (items.map (·.1)) forQuota with
  | .found p => .moved (startPush s p tile)
  | .passed g cx => .traps { cond := 13, d0 := reqName items, d1 := BitVec.ofNat 64 (g * 2 ^ 32 + cx % 512) }
  | .none => .waits

/-- Placement: victims are pushed until the footprint fits; then the first absent item is placed at its run, a segment that
grows by the Shunter, or the Shunter has to gather a run; once at work it goes on until one holds all that is to be placed
(R126, R353). -/
def lookPlace (s : State) (ctx tile : Nat) (items : List (Nat × Nat)) (gathers : Bool) (it : Nat × Nat) : GrantLook :=
  let copy := copyOn s ctx it.1 tile
  let own := if copy.any holdsGranules then some (ctx, it.1) else none
  let absent := reqAbsent s ctx tile items
  if freeGran s tile own < absent then lookVictim s ctx tile items false
  else if gathers && (findRun s tile absent own).isNone then .slides own
  else
    match findRun s tile it.2 own with
    | none => .slides own
    | some base =>
      if copy.isNone then .granted
      else if own.isSome then .moved (modCopy s ctx it.1 tile (fun c => { c with res := .sliding base 0 }))
      else .recalling (startRecall s ctx it.1 tile base)

/-- Granules of the requesting context that quota pushes may take (R121, R126). -/
def quotaPushable (s : State) (ctx tile : Nat) (items : List (Nat × Nat)) : Nat :=
  ((candidates s ctx tile (items.map (·.1)) true).map (·.gran)).sum

/-- One look at the request at the head of a queue, under a quota and a floor: admission, quota pushes, placement (R121,
R126). -/
def lookUnder (s : State) (ctx tile client : Nat) (items : List (Nat × Nat)) (gathers : Bool) (quota floor : Nat) : GrantLook :=
  let extra := reqExtra s ctx tile items
  let excess := if extra = 0 then 0 else resUsed s ctx tile + extra - quota
  if floor < clientPinned s tile client + reqGran items then .waits
  else if (placedOn s tile).any (fun p => isMoving p.copy) then .waits
  else if quotaPushable s ctx tile items < excess then .waits
  else if excess ≠ 0 then lookVictim s ctx tile items true
  else
    match nextAbsent s ctx tile items with
    | none => .granted
    | some it => lookPlace s ctx tile items gathers it

/-- One look at a request: one that has been admitted goes on under the quota and the floor it began with (R112); another
is judged under those in force, a floor lowered below it included (R126, R127, log entry 73). -/
def lookGrant (s : State) (ctx tile client : Nat) (items : List (Nat × Nat)) (terms : Option (Nat × Nat))
    (gathers : Bool := false) : GrantLook :=
  match terms with
  | some (quota, floor) => lookUnder s ctx tile client items gathers quota floor
  | none =>
    if clientFloor s tile client < reqGran items then .traps (quotaTrap items 15 (clientFloor s tile client))
    else if quotaImpossible s ctx tile items then .traps (quotaTrap items 12 (resQuota s ctx tile))
    else lookUnder s ctx tile client items gathers (resQuota s ctx tile) (clientFloor s tile client)

/-- Nothing ahead in the tile's queue stops a party's request that needs no movement (R126). -/
def mayPass (s : State) (tile : Nat) (p : Party) : Bool :=
  match (getTile s tile).grants with
  | [] => true
  | h :: _ => h.party == some p || s.cycle < h.since + 256

/-- Every segment of the footprint is RESIDENT at its length, and the footprint fits its client's floor and its quota: the
grant may be given where the request is made (R126, R127). -/
def grantFits (s : State) (ctx tile client : Nat) (items : List (Nat × Nat)) : Bool :=
  reqResident s ctx tile items && reqExtra s ctx tile items == 0 && !quotaImpossible s ctx tile items &&
    decide (clientPinned s tile client + reqGran items ≤ clientFloor s tile client)

/-- A footprint whose grant has been given is still RESIDENT, or a run for a new copy is still free. -/
def grantHolds (s : State) (ctx tile : Nat) (items : List (Nat × Nat)) : Bool :=
  items.all (fun it => reqResident s ctx tile [it] ||
    ((copyOn s ctx it.1 tile).isNone && (findRun s tile it.2 none).isSome))

/-- Of two requests of one clock, the first is queued ahead of the second: the lower client, then the lower tile (R126). -/
def GrantReq.before (a b : GrantReq) : Bool :=
  a.since == b.since && (decide (a.client < b.client) || (a.client == b.client && decide (a.from_ < b.from_)))

/-- Puts a request in its place in a queue. -/
def insertGrant (r : GrantReq) : List GrantReq → List GrantReq
  | [] => [r]
  | y :: ys => if r.before y then r :: y :: ys else y :: insertGrant r ys

/-- Queues a grant request of a party once; one for another footprint takes the place of its earlier one. -/
def queueGrant (s : State) (tile : Nat) (r : GrantReq) : State :=
  modTile s tile (fun x =>
    if r.party.isSome ∧ x.grants.any (fun y => y.party == r.party && y.items == r.items) then x
    else { x with grants := insertGrant r (x.grants.filter (fun y => r.party.isNone || y.party != r.party)) })

/-- A party's request for a footprint waits in a tile's queue: it has been validated (R126). -/
def isQueued (s : State) (tile : Nat) (p : Party) (items : List (Nat × Nat)) : Bool :=
  (getTile s tile).grants.any (fun y => y.party == some p && y.items == items)

/-- It has been admitted, so that the tile's residency manager alone goes on with it (R112, R126). -/
def isAdmitted (s : State) (tile : Nat) (p : Party) (items : List (Nat × Nat)) : Bool :=
  (getTile s tile).grants.any (fun y => y.party == some p && y.items == items && y.terms.isSome)

/-- A party's request for a footprint fails validation: it is no queued one, and exceeds the client's floor (R126). -/
def overFloor (s : State) (tile client : Nat) (p : Party) (items : List (Nat × Nat)) : Bool :=
  !isQueued s tile p items && decide (floorOf s tile client < reqGran items)

/-- The grant is given in the step that asks: the footprint is RESIDENT and fits, the party may pass the queue, and its
request has not been admitted there (R126). -/
def grantAtOnce (s : State) (ctx tile client : Nat) (p : Party) (items : List (Nat × Nat)) : Bool :=
  grantFits s ctx tile client items && mayPass s tile p && !isAdmitted s tile p items

/-- A party's request leaves the tile's queue. -/
def dropGrant (s : State) (tile : Nat) (p : Party) : State :=
  if (getTile s tile).grants.any (fun y => y.party == some p) then
    modTile s tile (fun x => { x with grants := x.grants.filter (fun y => y.party != some p) })
  else s

/-- A segment of the footprint is PUSHED or MOVING, which absence tracing reports (R120). -/
def touchesAbsent (s : State) (ctx tile : Nat) (items : List (Nat × Nat)) : Bool :=
  items.any (fun it => (copyOn s ctx it.1 tile).any (fun c => c.res != .resident))

/-- A request that a party on a tile makes now. -/
def newReq (s : State) (party : Option Party) (src ctx client tile : Nat) (items : List (Nat × Nat)) (alloc : Bool) : GrantReq :=
  { party := party, from_ := src, ctx := ctx, client := client, items := items, alloc := alloc, since := s.cycle,
    recalled := party.isSome && touchesAbsent s ctx tile items, quota := resQuota s ctx tile, terms := none, gathers := false }

/-- Bit ABS of TRACE of a context. -/
def traceAbs (s : State) (ctx : Nat) : Bool := ((tabFind s.ctxs ctx).map (fun x => x.trace.getLsbD 0)).getD false

/-- A party's request has waited in the tile's queue for a segment that was absent (R120). -/
def wasRecalled (s : State) (tile : Nat) (p : Party) : Bool :=
  (getTile s tile).grants.any (fun y => y.party == some p && y.recalled)

/-- The footprint of a word, without repeats. -/
def footprint (rs : List SegRef) : List (Nat × Nat) := (rs.map (fun r => (r.name, granOf r.seg.bytes))).eraseDups

/-- Client number of a core's strand words, on its tile or on another's (R118, R125). -/
def coreClient (c : CoreId) : Nat := coreSeq c

/-- The word waits in a tile's queue for a grant; no stall counter runs (R126). -/
def grantWait (s : State) (c : CoreId) (client ctx tile : Nat) (items : List (Nat × Nat)) (alloc : Bool) : Ex State :=
  .error (.wait { what := .grant, kind := 11, name := 0, bounded := false }
    (queueGrant s tile (newReq s (some (.core c)) (coreTile s c) ctx client tile items alloc)))

/-- SEGABSENT under absence tracing, the recall complete (R120): a word traps; a core program posts an entry in its
context's fault queue and goes on (R310). -/
def absentTrap (s : State) (c : CoreId) (ctx : Nat) (eng : Bool) : Ex State :=
  if isBox c then .ok (fqNotice s ctx (11 * 8 + 7) (coreTile s c) 0 (getStrand s c).wordPc.toNat 0 0)
  else .error (.trap { cond := 11, engine := eng } s)

/-- The answer to the word's request for a footprint on a tile. -/
def grantAnswer (s : State) (c : CoreId) (tile : Nat) (items : List (Nat × Nat)) : Option GrantAnswer :=
  (getStrand s c).granted.bind (fun a => if a.tile = tile ∧ a.items = items then some a else none)

/-- The grant of a strand word for items on one tile: in the step that asks, when every segment is RESIDENT and the word may
pass the queue; else through the tile's queue, whose answer the word then takes (R125, R126). -/
def grantItems (s : State) (c : CoreId) (client ctx tile : Nat) (items : List (Nat × Nat)) (eng : Bool)
    (alloc : Bool := false) : Ex State :=
  match grantAnswer s c tile items with
  | some a =>
    let s1 := modStrand s c (fun st => { st with granted := none })
    match a.trap with
    | some (cond, d0, d1) =>
      if cond = 11 then absentTrap s1 c ctx eng else .error (.trap { cond := cond, d0 := d0, d1 := d1, engine := eng } s1)
    | none => if grantHolds s ctx tile items then .ok s1 else grantWait s1 c client ctx tile items alloc
  | none =>
    if overFloor s tile client (.core c) items then
      .error (.trap { quotaTrap items 15 (floorOf s tile client) with engine := eng } s)
    else if !alloc && grantAtOnce s ctx tile client (.core c) items then
      if wasRecalled s tile (.core c) && traceAbs s ctx then absentTrap (dropGrant s tile (.core c)) c ctx eng
      else .ok (dropGrant s tile (.core c))
    else grantWait s c client ctx tile items alloc

/-- Marks every segment of a footprint as touched, in order. -/
def touchAll (s : State) (ctx : Nat) (rs : List SegRef) : State := rs.foldl (fun s r => touchSeg s ctx r.name r.tile) s

/-- The grant of a strand word over its segments, all on one tile (check 7 of R132, R128), with their touch. -/
def grantRefs (s : State) (c : CoreId) (client ctx : Nat) (rs : List SegRef) (eng : Bool := false) : Ex State := do
  match rs with
  | [] => return s
  | r :: _ =>
    let s1 ← grantItems s c client ctx r.tile (footprint rs) eng
    return touchAll s1 ctx rs

/-- Pins of a strand's word on a footprint. -/
def strandPins (s : State) (c : CoreId) (client : Nat) (rs : List SegRef) : List Pin :=
  rs.map (fun r => { ctx := ctxNo s c, seg := r.name, tile := r.tile, client := client, gran := granOf r.seg.bytes })

/-- The word holds pins on a footprint. -/
def holdsPins (s : State) (c : CoreId) (rs : List SegRef) : Bool :=
  rs.all (fun r => (getStrand s c).pins.any (fun p => p.seg == r.name && p.tile == r.tile))

/-- Every copy of a footprint is RESIDENT now. -/
def allResident (s : State) (ctx : Nat) (rs : List SegRef) : Bool :=
  rs.all (fun r => (copyOn s ctx r.name r.tile).any (fun y => y.res == .resident))

/-- An access under a word's pins: it waits for a segment that the Shunter moves, which absence tracing then reports (R120,
R124). -/
def pinnedAccess (s : State) (c : CoreId) (ctx : Nat) (rs : List SegRef) (eng : Bool) : Ex State :=
  if !allResident s ctx rs then .error (.more (modStrand s c (fun st => { st with met := true })))
  else
    let s1 := touchAll s ctx rs
    if (getStrand s c).met then
      let s2 := modStrand s1 c (fun st => { st with met := false })
      if traceAbs s ctx then absentTrap s2 c ctx eng else .ok s2
    else .ok s1

/-- The grant of a word that makes several accesses and holds its pins until it retires (R125, R180). -/
def holdGrant (s : State) (c : CoreId) (client ctx : Nat) (rs : List SegRef) (eng : Bool) : Ex State :=
  if holdsPins s c rs then pinnedAccess s c ctx rs eng
  else do
    let s1 ← grantRefs s c client ctx rs eng
    return modStrand s1 c (fun st => { st with pins := strandPins s1 c client rs })

/-! ### Bytes of a segment -/

/-- `n` bytes of a copy from an offset. -/
def segBytes (s : State) (ctx name tile off n : Nat) : List Byte :=
  match findSeg s ctx name with
  | some g => Memory.readBytes (getCopy g tile).data off n
  | none => []

/-- A sector of the range is poisoned (R320). -/
def segPoisoned (s : State) (ctx name tile off n : Nat) : Bool :=
  match findSeg s ctx name with
  | some g => (getCopy g tile).poison.any (fun k => decide (off / 64 ≤ k) && decide (k ≤ (off + n - 1) / 64))
  | none => false

/-- Writes bytes into a copy; a whole-sector write clears its poison (R320). -/
def segWrite (s : State) (ctx name tile off : Nat) (bs : List Byte) : State :=
  modCopy s ctx name tile (fun c =>
    { c with data := Memory.writeBytes c.data off bs, poison := clearPoison c.poison off bs.length })

/-- Reads a checked and granted operand; a poisoned sector traps ECCUNC (R320). -/
def segRead (s : State) (ctx : Nat) (r : SegRef) (off n : Nat) (eng : Bool := false) : Ex (List Byte) :=
  if segPoisoned s ctx r.name r.tile off n then .error (.trap { cond := 40, engine := eng } s)
  else .ok (segBytes s ctx r.name r.tile off n)

end Sys2Proof.Machine
end

