-- ==== Sys2Proof/Machine/Csr.lean ====
section
/-! DEFINITION. The CSR space and its four instructions (R102 to R112, R311). -/

namespace Sys2Proof.Machine

/-- CSR number of a CSR word (R103). -/
def csrNum (f : FI) : Nat := (f.imm.extractLsb' 0 12).toNat

/-- Bits of a word under a mask. -/
def maskBits (n : Nat) (w : Word) : Word := w &&& BitVec.ofNat 64 (2 ^ n - 1)

/-- CTXID of a core (R108). -/
def ctxIdWord (s : State) (c : CoreId) : Word :=
  match coreCtx s c with
  | none => 0
  | some n =>
    match tabFind s.ctxs n with
    | none => BitVec.ofNat 64 n
    | some x => BitVec.ofNat 64 ((x.block.part.toNat / 8) * 2 ^ 19 + x.block.queue.toNat * 2 ^ 9 + n % 512)

/-- STRANDID of a core (R108); a core program reports its service tile as a C strand. -/
def strandIdWord (s : State) (c : CoreId) : Word := BitVec.ofNat 64 ((coreTile s c % 256) * 4 + coreSeq c)

/-- DEVTIME from CYCLE (R108). -/
def devTime (s : State) : Nat := s.cycle * 20 / 21

/-- TSTATUS of a strand (R311). -/
def tstatusWord (st : Strand) : Word :=
  BitVec.ofNat 64 (min 64 st.errors.length * 16 + (if st.nest then 8 else 0) + (if st.ss then 4 else 0)
    + (if st.tkd then 2 else 0) + (if st.pm then 1 else 0))

/-- The value of a defined CSR for a core (R104, R311). -/
def csrRead (s : State) (c : CoreId) (n : Nat) : Option Word :=
  let st := getStrand s c
  let t := coreTile s c
  let ctx := ctxNo s c
  match n with
  | 0x000 => some (st.waitdef.zeroExtend 64)
  | 0x001 => some (fpstatWord st)
  | 0x002 => some (st.rmdyn.zeroExtend 64)
  | 0x400 => some (strandIdWord s c)
  | 0x401 => some (ctxIdWord s c)
  | 0x402 => some (BitVec.ofNat 64 s.cycle)
  | 0x403 => some (BitVec.ofNat 64 (devTime s))
  | 0x404 => some (BitVec.ofNat 64 (resUsed s ctx t))
  | 0x405 => some (tabGet 0 s.leaseren (t / 4))
  | 0x406 => some (getTile s t).leasestall
  | 0x800 => some (BitVec.ofNat 64 (resQuota s ctx t))
  | 0x801 => some (((tabFind s.ctxs ctx).map (·.skewbound.zeroExtend 64)).getD 0)
  | 0x802 => some (s.leasectl.zeroExtend 64)
  | 0x810 | 0x811 | 0x812 | 0x813 | 0x814 | 0x815 | 0x816 => some (BitVec.ofNat 64 (floorOf s t (n - 0x810)))
  | 0x820 => some ((getTile s t).tvec.zeroExtend 64)
  | 0x821 => some st.tpc
  | 0x822 => some (st.tcause.zeroExtend 64)
  | 0x823 => some st.tdetail0
  | 0x824 => some st.tdetail1
  | 0x825 => some st.trep
  | 0x826 => some (tstatusWord st)
  | 0x827 => some st.tscratch
  | 0x828 => some (((tabFind s.ctxs ctx).map (·.trace.zeroExtend 64)).getD 0)
  | _ => none

/-- A write to FLOORk keeps the floors and the NOPUSH granules within the scratchpad, or fails (R109, R129). -/
def floorWrite (s : State) (t k : Nat) (v : Word) : Option State :=
  let x := getTile s t
  let fl := x.floors.set (k % 7) (v.setWidth 15) (Nat.mod_lt _ (by decide))
  let sum := (fl.toList.map (·.toNat)).sum
  if sum + nopushGran s t none [] ≤ Config.granules then some (setTile s t { x with floors := fl }) else none

/-- The effect of a CSR write; none where it traps BADFIELD. Read-only bits ignore it (R103, R105 to R111, R311). -/
def csrWrite (s : State) (c : CoreId) (n : Nat) (v : Word) : Option State :=
  let t := coreTile s c
  let ctx := ctxNo s c
  match n with
  | 0x000 => some (modStrand s c (fun st => { st with waitdef := v.setWidth 10 }))
  | 0x001 => some (modStrand s c (fun st => { st with fpFlags := v.setWidth 6, fpEn := v.extractLsb' 8 6 }))
  | 0x002 => some (modStrand s c (fun st => { st with rmdyn := v.setWidth 3 }))
  | 0x800 => some (modCtx s ctx (fun x =>
      { x with resquota := tabPut x.resquota t (min Config.granules (maskBits 15 v).toNat) }))
  | 0x801 => some (modCtx s ctx (fun x => { x with skewbound := v.setWidth 32 }))
  | 0x802 => some { s with leasectl := if v.setWidth 16 = (0 : BitVec 16) then 1 else v.setWidth 16 }
  | 0x810 | 0x811 | 0x812 | 0x813 | 0x814 | 0x815 | 0x816 => floorWrite s t (n - 0x810) v
  | 0x820 => some (modTile s t (fun x => { x with tvec := v.setWidth 52 &&& ~~~0x3F#52 }))
  | 0x821 => some (modStrand s c (fun st => { st with tpc := v }))
  | 0x822 => some (modStrand s c (fun st => { st with tcause := v.setWidth 9 }))
  | 0x823 => some (modStrand s c (fun st => { st with tdetail0 := v }))
  | 0x824 => some (modStrand s c (fun st => { st with tdetail1 := v }))
  | 0x825 => some (modStrand s c (fun st => { st with trep := v &&& ~~~(0x3FF#64 <<< 42) }))
  | 0x826 => some (modStrand s c (fun st => { st with ss := v.getLsbD 2, tkd := v.getLsbD 1, pm := v.getLsbD 0 }))
  | 0x827 => some (modStrand s c (fun st => { st with tscratch := v }))
  | 0x828 => some (modCtx s ctx (fun x => { x with trace := v.setWidth 3 }))
  | _ => some s

/-- The checks and the effect of a CSR instruction (R102, R103): `wr` says that a write is attempted and `upd`
gives the new value from the old one and the register. -/
def csrBody (f : FI) (wr : Bool) (upd : Word → Word → Word) : Body := fun c s =>
  let n := csrNum f
  let st := getStrand s c
  let cls := n / 1024
  if cls = 3 then .trap { cond := 4 } s
  else if cls = 2 ∧ st.mode = .user then .trap { cond := 5 } s
  else
    match csrRead s c n with
    | none => .trap { cond := 4 } s
    | some old =>
      if wr then
        if cls = 1 then .trap { cond := 4 } s
        else
          match csrWrite s c n (upd old (st.getG f.ra)) with
          | none => .trap { cond := 4 } s
          | some s1 => .retire (setGOf s1 c f.rd old)
      else .retire (setGOf s c f.rd old)

def bodyCsrr (f : FI) : Body := csrBody f false (fun old _ => old)
def bodyCsrw (f : FI) : Body := csrBody f true (fun _ v => v)
def bodyCsrset (f : FI) : Body := csrBody f (f.ra != 0) (fun old v => old ||| v)
def bodyCsrclr (f : FI) : Body := csrBody f (f.ra != 0) (fun old v => old &&& ~~~v)

/-! ### The meanings -/

/-- CSRR (OP 0x35, R103). -/
def execCsrr (f : FI) (s : State) : Out := issueWord (.csrr f) (bodyCsrr f) s

/-- CSRW (OP 0x36, R103). -/
def execCsrw (f : FI) (s : State) : Out := issueWord (.csrw f) (bodyCsrw f) s

/-- CSRSET (OP 0x37, R103). -/
def execCsrset (f : FI) (s : State) : Out := issueWord (.csrset f) (bodyCsrset f) s

/-- CSRCLR (OP 0x38, R103). -/
def execCsrclr (f : FI) (s : State) : Out := issueWord (.csrclr f) (bodyCsrclr f) s

end Sys2Proof.Machine
end

