-- ==== Sys2Proof/Machine/Fp.lean ====
section
/-! DEFINITION. Element formats, rounding, special values and conversions (R48 to R66). Arithmetic is exact on
integers and narrowed once. -/

namespace Sys2Proof.Machine

/-- Layout of a floating-point format (R48). -/
structure FFmt where
  width : Nat
  fbits : Nat
  ebits : Nat
  bias : Nat
  /-- Code of the largest finite value. -/
  top : Nat
  deriving DecidableEq, Repr

/-- The floating-point format of a code, FP32 for the others (R34, R48). -/
def fFmt (f : Nat) : FFmt :=
  match f with
  | 1 => ⟨16, 7, 8, 127, 0x7F7F⟩
  | 2 => ⟨16, 10, 5, 15, 0x7BFF⟩
  | 3 => ⟨8, 3, 4, 7, 0x7E⟩
  | 4 => ⟨8, 2, 5, 15, 0x7B⟩
  | _ => ⟨32, 23, 8, 127, 0x7F7FFFFF⟩

/-- The canonical NaN (R60). -/
def canonNan : BitVec 32 := 0x7FC00000#32

/-- An exact result: a magnitude in units of 2^exp, `sticky` when the exact value lies strictly between it and the
next one. -/
structure Exact where
  neg : Bool
  mag : Nat
  exp : Int
  sticky : Bool
  deriving DecidableEq, Repr

/-- The result of an operation before its rounding. -/
inductive FRes where
  | nan (code : BitVec 32)
  | inf (neg : Bool)
  | num (x : Exact)
  deriving DecidableEq, Repr

/-- A result with the flags its operation raises before rounding. -/
structure FOut where
  res : FRes
  flags : BitVec 6
  deriving DecidableEq, Repr

/-- Reads a code of a floating-point format (R48, R49, R62). -/
def readFloat (f : Nat) (code : Nat) : Num :=
  let m := fFmt f
  let neg := code / 2 ^ (m.width - 1) % 2 == 1
  let e := code / 2 ^ m.fbits % 2 ^ m.ebits
  let fr := code % 2 ^ m.fbits
  let all := e == 2 ^ m.ebits - 1
  let s := if neg then 2 ^ 31 else 0
  if f = 3 then
    if all && fr == 7 then ⟨.nan (BitVec.ofNat 32 (s + 0x7FC00000 + fr * 2 ^ 19)), false⟩
    else if e = 0 then ⟨.fin neg fr (-9), false⟩
    else ⟨.fin neg (8 + fr) ((e : Int) - 10), false⟩
  else if all then
    if fr = 0 then ⟨.inf neg, false⟩
    else if f = 4 then ⟨.nan (BitVec.ofNat 32 (s + 0x7FC00000 + fr * 2 ^ 20)), false⟩
    else
      let quiet := fr / 2 ^ (m.fbits - 1) % 2 == 1
      ⟨.nan (BitVec.ofNat 32 (s + 0x7F800000) ||| 0x00400000#32 ||| BitVec.ofNat 32 (fr * 2 ^ (23 - m.fbits))), !quiet⟩
  else if e = 0 then ⟨.fin neg fr (1 - (m.bias : Int) - m.fbits), false⟩
  else ⟨.fin neg (2 ^ m.fbits + fr) ((e : Int) - m.bias - m.fbits), false⟩

/-- Signed integer formats read as numbers; UINT8 is unsigned (R51). -/
def readInt (f : Nat) (code : Nat) : Int :=
  match f with
  | 5 => (BitVec.ofNat 32 code).toInt
  | 6 => (BitVec.ofNat 16 code).toInt
  | 7 => (BitVec.ofNat 8 code).toInt
  | _ => (code % 256 : Nat)

/-- Bounds of an integer format (R51). -/
def intRange (f : Nat) : Int × Int :=
  match f with
  | 5 => (-(2 ^ 31), 2 ^ 31 - 1)
  | 6 => (-(2 ^ 15), 2 ^ 15 - 1)
  | 7 => (-(2 ^ 7), 2 ^ 7 - 1)
  | _ => (0, 255)

/-- SatInt of R6 to given bounds. -/
def clampInt (lo hi v : Int) : Int := if v < lo then lo else if hi < v then hi else v

/-- An exact integer as a value. -/
def intVal (v : Int) : FVal := .fin (decide (v < 0)) v.natAbs 0

/-- Reads a code of any element format but BP (R48 to R52). -/
def readElem (f : Nat) (code : Nat) : Num :=
  match f with
  | 5 | 6 | 7 | 8 => ⟨intVal (readInt f code), false⟩
  | 10 => if code % 256 = 255 then ⟨.nan canonNan, false⟩ else ⟨.fin false 1 ((code % 256 : Nat) - 127), false⟩
  | _ => readFloat f code

/-- Width in bits of an element format (R52). -/
def fmtBits (f : Nat) : Nat := 8 * (fmtWidth' f)
where
  /-- Width in bytes. -/
  fmtWidth' (f : Nat) : Nat :=
    match f with
    | 0 | 5 => 4
    | 1 | 2 | 6 => 2
    | _ => 1

/-- The code a NaN takes in a format (R62). -/
def nanTo (f : Nat) (c : BitVec 32) : Nat :=
  let neg := c.getLsbD 31
  let fr := (c.extractLsb' 0 23).toNat
  match f with
  | 1 => (if neg then 0x8000 else 0) + 0x7F80 + fr / 2 ^ 16
  | 2 => (if neg then 0x8000 else 0) + 0x7C00 + fr / 2 ^ 13
  | 3 => (if neg then 0x80 else 0) + 0x7F
  | 4 => (if neg then 0x80 else 0) + 0x7C + (if fr / 2 ^ 20 % 4 = 0 then 3 else fr / 2 ^ 20 % 4)
  | _ => c.toNat

/-- The code of an infinity in a format that has one. -/
def infCode (f : Nat) (neg : Bool) : Nat :=
  let m := fFmt f
  (if neg then 2 ^ (m.width - 1) else 0) + (2 ^ m.ebits - 1) * 2 ^ m.fbits

/-! ### Rounding (R56 to R59) -/

/-- Exponent of the last bit a format keeps of a magnitude, the exponent range unbounded above. -/
def lastExp (m : FFmt) (x : Exact) : Int :=
  max (x.exp + (Nat.log2 x.mag : Int) - m.fbits) (1 - (m.bias : Int) - m.fbits)

/-- Discarded bits of a magnitude below an exponent: how many, and their value. -/
def discarded (q : Int) (x : Exact) : Nat × Nat :=
  let d := (q - x.exp).toNat
  (d, x.mag % 2 ^ d)

/-- Rounds up in magnitude: the decision of a mode on the discarded bits (R33, R56, R59). `rw` is the random word. -/
def roundsUp (rm rw : Nat) (neg odd : Bool) (d fbits : Nat) (sticky : Bool) : Bool :=
  let inexact := fbits ≠ 0 || sticky
  match rm with
  | 1 => false
  | 2 => neg && inexact
  | 3 => !neg && inexact
  | 4 => d ≠ 0 && 2 ^ d ≤ 2 * fbits
  | 5 =>
    if !inexact then false
    else if d ≤ 16 then 2 ^ d ≤ fbits + rw / 2 ^ (16 - d)
    else 2 ^ 16 ≤ fbits / 2 ^ (d - 16) + rw
  | _ => d ≠ 0 && (2 ^ d < 2 * fbits || (2 * fbits == 2 ^ d && (sticky || odd)))

/-- The magnitude kept, in units of 2^q, after rounding with unbounded exponent; and whether bits were lost. -/
def roundMag (m : FFmt) (rm rw : Nat) (x : Exact) : Nat × Int × Bool :=
  let q := lastExp m x
  let (d, lost) := discarded q x
  let kept := if x.exp ≤ q then x.mag / 2 ^ d else x.mag * 2 ^ (x.exp - q).toNat
  let up := roundsUp rm rw x.neg (kept % 2 == 1) d lost x.sticky
  (if up then kept + 1 else kept, q, lost ≠ 0 || x.sticky)

/-- a × 2^ea compared with b × 2^eb. -/
def magLt (a : Nat) (ea : Int) (b : Nat) (eb : Int) : Bool :=
  let e := min ea eb
  a * 2 ^ (ea - e).toNat < b * 2 ^ (eb - e).toNat

/-- The code of a kept magnitude in units of 2^q. -/
def packMag (m : FFmt) (neg : Bool) (k : Nat) (q : Int) : Nat :=
  let (k, q) := if 2 ^ (m.fbits + 1) ≤ k then (k / 2, q + 1) else (k, q)
  let e := if k < 2 ^ m.fbits then 0 else (q - (1 - (m.bias : Int) - m.fbits) + 1).toNat
  (if neg then 2 ^ (m.width - 1) else 0) + e * 2 ^ m.fbits + k % 2 ^ m.fbits

/-- The largest finite magnitude of a format, with its exponent. -/
def topMag (f : Nat) : Nat × Int :=
  match (readFloat f (fFmt f).top).val with
  | .fin _ m e => (m, e)
  | _ => (0, 0)

/-- Overflow: what an exact value past the largest finite becomes (R56). `past` says that rounding with unbounded
exponent goes past the largest finite value. -/
def overflowCode (f rm : Nat) (neg past : Bool) : Nat :=
  let s := if neg then 2 ^ ((fFmt f).width - 1) else 0
  let big := s + (fFmt f).top
  if f = 3 then big
  else
    match rm with
    | 1 => big
    | 2 => if neg then infCode f true else big
    | 3 => if neg then big else infCode f false
    | _ => if past then infCode f neg else big

/-- Rounds an exact value to a floating-point format: the code and the flags (R56, R59, R61). -/
def roundNum (f rm rw : Nat) (x : Exact) : Nat × BitVec 6 :=
  let m := fFmt f
  if x.mag = 0 ∧ !x.sticky then (if x.neg then 2 ^ (m.width - 1) else 0, 0)
  else
    let (k, q, inexact) := roundMag m rm rw x
    let (tm, te) := topMag f
    let tooBig := magLt tm te x.mag x.exp || (x.sticky && !magLt x.mag x.exp tm te)
    if tooBig then
      (overflowCode f rm x.neg (magLt tm te k q), flagOF ||| flagNX ||| (if f = 3 then flagSAT else 0))
    else
      let tiny := magLt x.mag x.exp 1 (1 - (m.bias : Int))
      (packMag m x.neg k q, (if inexact then flagNX else 0) ||| (if inexact && tiny then flagUF else 0))

/-- First 32 discarded bits of a result, zero-filled; 0 for an exact, infinite or NaN one (R58). -/
def tBits (f : Nat) (r : FRes) : Nat :=
  match r with
  | .num x =>
    if x.mag = 0 then 0
    else
      let (d, lost) := discarded (lastExp (fFmt f) x) x
      if d ≤ 32 then lost * 2 ^ (32 - d) else lost / 2 ^ (d - 32)
  | _ => 0

/-- The 16-bit random word of lane i from the t of its neighbours (R58). -/
def randWord (i a b : Nat) : Nat :=
  let rot := (BitVec.ofNat 32 b).rotateLeft 13
  let h0 := BitVec.ofNat 32 a ^^^ rot
  let h1 := h0 ^^^ BitVec.ofNat 32 (i * 0x9E3779B9)
  let h2 := h1 ^^^ (h1 >>> 16)
  let h3 := h2 * 0x7FEB352D#32
  let h4 := h3 ^^^ (h3 >>> 15)
  (h4 >>> 16).toNat

/-- Random word of an operation that rounds one value (R58). -/
def randOne (f : Nat) (r : FRes) : Nat := randWord 0 (tBits f r) (tBits f r)

/-- Random words of a run of at most 64 values: neighbours are lanes i + 1 and i + 63 modulo 64 (R58). -/
def randAt (ts : List Nat) (i : Nat) : Nat := randWord i (ts.getD ((i + 1) % 64) 0) (ts.getD ((i + 63) % 64) 0)

/-- Rounds a result to a floating-point format (R56, R60, R62). -/
def roundRes (f rm rw : Nat) (r : FOut) : Nat × BitVec 6 :=
  match r.res with
  | .nan c => (nanTo f c, r.flags)
  | .inf neg => if f = 3 then ((if neg then 0xFF else 0x7F), r.flags ||| flagNV) else (infCode f neg, r.flags)
  | .num x =>
    let (c, fl) := roundNum f rm rw x
    (c, r.flags ||| fl)

/-! ### Conversions to integers, BP and E8M0 (R62) -/

/-- Rounds an exact value to an integer under a mode, and whether it differs. -/
def roundToInt (rm rw : Nat) (x : Exact) : Int × Bool :=
  let (d, lost) := discarded 0 x
  let kept := if x.exp ≤ 0 then x.mag / 2 ^ d else x.mag * 2 ^ x.exp.toNat
  let up := roundsUp rm rw x.neg (kept % 2 == 1) d lost x.sticky
  let k : Int := if up then kept + 1 else kept
  (if x.neg then -k else k, lost ≠ 0 || x.sticky)

/-- A float converted to integer bounds (R62): the bound with NV when out of range. -/
def floatToInt (lo hi : Int) (rm rw : Nat) (r : FOut) : Int × BitVec 6 :=
  match r.res with
  | .nan _ => (clampInt lo hi 0, r.flags ||| flagNV)
  | .inf neg => (if neg then lo else hi, r.flags ||| flagNV)
  | .num x =>
    let (v, inexact) := roundToInt rm rw x
    if v < lo ∨ hi < v then (clampInt lo hi v, r.flags ||| flagNV)
    else (v, r.flags ||| (if inexact then flagNX else 0))

/-- An integer converted to integer bounds (R62). -/
def intToInt (lo hi v : Int) : Int × BitVec 6 :=
  if v < lo ∨ hi < v then (clampInt lo hi v, flagSAT) else (v, 0)

/-- An exact value converted to E8M0 (R62). -/
def toE8M0 (rm : Nat) (r : FOut) : Nat × BitVec 6 :=
  match r.res with
  | .nan _ | .inf _ => (255, r.flags ||| flagNV)
  | .num x =>
    if x.mag = 0 then (0, r.flags ||| flagUF ||| flagNX)
    else
      let lg : Int := (Nat.log2 x.mag : Int) + x.exp
      let pow := decide (x.mag = 2 ^ Nat.log2 x.mag) && !x.sticky
      let e : Int := (if rm = 3 && !pow then lg + 1 else lg) + 127
      let outside := lg < -127 || 127 < lg || (lg == 127 && !pow)
      if outside then (if e < 0 then 0 else if 254 < e then 254 else e.toNat, r.flags ||| flagSAT ||| flagNX)
      else (e.toNat, r.flags ||| (if pow then 0 else flagNX))

/-- Two's complement code of an integer in a width. -/
def intCode (bits : Nat) (v : Int) : Nat := (v % 2 ^ bits).toNat

/-- Converts a result to any format but BP: the code and the flags. `isInt` says that the source is an integer. -/
def convTo (f rm rw : Nat) (isInt : Bool) (r : FOut) : Nat × BitVec 6 :=
  match f with
  | 5 | 6 | 7 | 8 =>
    let (lo, hi) := intRange f
    if isInt then
      match r.res with
      | .num x => let (v, fl) := intToInt lo hi (roundToInt 1 0 x).1; (intCode (fmtBits f) v, fl ||| r.flags)
      | _ => (0, r.flags)
    else let (v, fl) := floatToInt lo hi rm rw r; (intCode (fmtBits f) v, fl)
  | 10 => toE8M0 rm r
  | _ => roundRes f rm rw r

/-! ### Exact operations (R57, R60) -/

/-- NV of signalling operands (R49). -/
def sigFlags (xs : List Num) : BitVec 6 := if xs.any (·.sig) then flagNV else 0

/-- The first NaN among operands in their order (R60). -/
def firstNan : List Num → Option (BitVec 32)
  | [] => none
  | x :: xs =>
    match x.val with
    | .nan c => some c
    | _ => firstNan xs

/-- The result of an invalid operation: the canonical NaN with NV (R60). -/
def invalid : FOut := ⟨.nan canonNan, flagNV⟩

/-- A finite exact result. -/
def numOut (neg : Bool) (mag : Nat) (exp : Int) (sticky : Bool := false) : FOut := ⟨.num ⟨neg, mag, exp, sticky⟩, 0⟩

/-- A value as a result. -/
def valOut (v : FVal) : FOut :=
  match v with
  | .nan c => ⟨.nan c, 0⟩
  | .inf n => ⟨.inf n, 0⟩
  | .fin n m e => numOut n m e

/-- The value of a number as a result, with NV when it signals. -/
def numRes (x : Num) : FOut := { valOut x.val with flags := sigFlags [x] }

/-- Sum of two exact values; an exact zero sum of opposite signs is −0 under RDN and else +0 (R56). -/
def addExact (rm : Nat) (a b : Exact) : Exact :=
  let e := min a.exp b.exp
  let x := a.mag * 2 ^ (a.exp - e).toNat
  let y := b.mag * 2 ^ (b.exp - e).toNat
  let st := a.sticky || b.sticky
  if a.neg = b.neg then ⟨a.neg, x + y, e, st⟩
  else if x = y ∧ !st then ⟨rm == 2, 0, e, false⟩
  else if y ≤ x then ⟨a.neg, x - y - (if b.sticky then 1 else 0), e, st⟩
  else ⟨b.neg, y - x - (if a.sticky then 1 else 0), e, st⟩

/-- Product of two exact values without sticky parts, times one with. -/
def mulExact (a b : Exact) : Exact := ⟨a.neg != b.neg, a.mag * b.mag, a.exp + b.exp, (a.sticky && b.mag ≠ 0) || (b.sticky && a.mag ≠ 0)⟩

/-- a + b (R60). -/
def addVals (rm : Nat) (a b : FVal) : FOut :=
  match a, b with
  | .nan c, _ => ⟨.nan c, 0⟩
  | _, .nan c => ⟨.nan c, 0⟩
  | .inf n, .inf m => if n = m then ⟨.inf n, 0⟩ else invalid
  | .inf n, _ => ⟨.inf n, 0⟩
  | _, .inf n => ⟨.inf n, 0⟩
  | .fin n m e, .fin n' m' e' => ⟨.num (addExact rm ⟨n, m, e, false⟩ ⟨n', m', e', false⟩), 0⟩

/-- a × b (R60). -/
def mulVals (a b : FVal) : FOut :=
  match a, b with
  | .nan c, _ => ⟨.nan c, 0⟩
  | _, .nan c => ⟨.nan c, 0⟩
  | .inf n, .inf m => ⟨.inf (n != m), 0⟩
  | .inf n, .fin m g _ => if g = 0 then invalid else ⟨.inf (n != m), 0⟩
  | .fin m g _, .inf n => if g = 0 then invalid else ⟨.inf (n != m), 0⟩
  | .fin n m e, .fin n' m' e' => numOut (n != n') (m * m') (e + e')

/-- An unrounded result as a value, for a fused operation that goes on with it. -/
def resVal : FRes → FVal
  | .nan c => .nan c
  | .inf n => .inf n
  | .num x => .fin x.neg x.mag x.exp

/-- a × b + d with one rounding to come; a NaN operand decides in the order a, b, d (R57, R60). -/
def fmaNums (rm : Nat) (a b d : Num) : FOut :=
  match firstNan [a, b, d] with
  | some c => ⟨.nan c, sigFlags [a, b, d]⟩
  | none =>
    let p := mulVals a.val b.val
    match p.res with
    | .nan _ => p
    | r => addVals rm (resVal r) d.val

/-- a + b on numbers. -/
def addNums (rm : Nat) (a b : Num) : FOut :=
  match firstNan [a, b] with
  | some c => ⟨.nan c, sigFlags [a, b]⟩
  | none => addVals rm a.val b.val

/-- a × b on numbers. -/
def mulNums (a b : Num) : FOut :=
  match firstNan [a, b] with
  | some c => ⟨.nan c, sigFlags [a, b]⟩
  | none => mulVals a.val b.val

/-- The value with its sign inverted. -/
def negVal : FVal → FVal
  | .nan c => .nan c
  | .inf n => .inf (!n)
  | .fin n m e => .fin (!n) m e

/-- a − b on numbers: a NaN keeps its sign (R60). -/
def subNums (rm : Nat) (a b : Num) : FOut := addNums rm a ⟨negVal b.val, b.sig⟩

/-! ### Correctly rounded functions (R153, R154): evaluated to more bits than any format keeps, with a sticky part
(log entry 7) -/

/-- Square root of a number, rounded down, one bit at a time from bit `k − 1`. -/
def sqrtBits (n : Nat) : Nat → Nat → Nat
  | 0, r => r
  | k + 1, r => let t := r + 2 ^ k; sqrtBits n k (if t * t ≤ n then t else r)

/-- 1 ÷ a. -/
def recipVal (a : FVal) : FOut :=
  match a with
  | .nan c => ⟨.nan c, 0⟩
  | .inf n => numOut n 0 0
  | .fin n m e =>
    if m = 0 then ⟨.inf n, flagDZ⟩
    else
      let k := Nat.log2 m + 80
      numOut n (2 ^ k / m) (-e - k) (decide (2 ^ k % m ≠ 0))

/-- 1 ÷ √a. -/
def rsqrtVal (a : FVal) : FOut :=
  match a with
  | .nan c => ⟨.nan c, 0⟩
  | .inf n => if n then invalid else numOut false 0 0
  | .fin n m e =>
    if m = 0 then ⟨.inf n, flagDZ⟩
    else if n then invalid
    else
      let (m, e) := if e % 2 = 0 then (m, e) else (2 * m, e - 1)
      let k := Nat.log2 m + 80
      let y := sqrtBits (2 ^ (2 * k) / m) (k + 2) 0
      numOut false y (-(e / 2) - k) (decide (y * y * m ≠ 2 ^ (2 * k)))

/-- floor(ln 2 × 2^256). -/
def ln2Scaled : Nat := 80260960185991308862233904206310070533990667611589946606122867505419956976171

/-- Terms of the exponential series in units of 2^−256: the sum of y^k ÷ k! from the running term on. -/
def expTerms (y : Nat) : Nat → Nat → Nat → Nat → Nat
  | 0, _, _, acc => acc
  | fuel + 1, k, term, acc =>
    let t := term * y / 2 ^ 256 / k
    expTerms y fuel (k + 1) t (acc + t)

/-- 2^(f ÷ 2^256) in units of 2^−200, rounded down, for 0 ≤ f < 2^256. -/
def exp2Frac (f : Nat) : Nat :=
  let y := f * ln2Scaled / 2 ^ 256
  let v := expTerms y 64 1 (2 ^ 256) (2 ^ 256)
  min (v / 2 ^ 56) (2 ^ 201 - 1)

/-- 2^x for an exact x. -/
def exp2Exact (neg : Bool) (mag : Nat) (exp : Int) : Exact :=
  if mag = 0 then ⟨false, 1, 0, false⟩
  else if 0 ≤ exp ∨ mag % 2 ^ (-exp).toNat = 0 then
    let v : Nat := if 0 ≤ exp then mag * 2 ^ (min exp 16).toNat else mag / 2 ^ (-exp).toNat
    ⟨false, 1, (if neg then -(v : Int) else v), false⟩
  else
    let d := (-exp).toNat
    let ip := mag / 2 ^ d
    let fp := mag % 2 ^ d
    -- the fraction of x, rounded down, in units of 2^−256
    let fr := if neg then 2 ^ d - fp else fp
    let n : Int := if neg then -(ip : Int) - 1 else ip
    let f256 := if d ≤ 256 then fr * 2 ^ (256 - d) else fr / 2 ^ (d - 256)
    ⟨false, exp2Frac f256, n - 200, true⟩

/-- 2^a. -/
def exp2Val (a : FVal) : FOut :=
  match a with
  | .nan c => ⟨.nan c, 0⟩
  | .inf n => if n then numOut false 0 0 else ⟨.inf false, 0⟩
  | .fin n m e =>
    -- an exponent past every format rounds as ±2,048 with the same fraction does; far below every format none shows
    if 11 ≤ (Nat.log2 m : Int) + e then
      if n || 0 ≤ e then numOut false 1 (if n then -2048 else 2048)
      else ⟨.num (exp2Exact false (2048 * 2 ^ (-e).toNat + m % 2 ^ (-e).toNat) e), 0⟩
    else ⟨.num (exp2Exact n m e), 0⟩

/-- Fraction bits of a logarithm: squares a value of [1, 2) held in units of 2^−400. -/
def logBits : Nat → Nat → Nat → Nat
  | 0, _, acc => acc
  | fuel + 1, x, acc =>
    let y := x * x / 2 ^ 400
    if 2 ^ 401 ≤ y then logBits fuel (y / 2) (2 * acc + 1) else logBits fuel y (2 * acc)

/-- log2 a. -/
def log2Val (a : FVal) : FOut :=
  match a with
  | .nan c => ⟨.nan c, 0⟩
  | .inf n => if n then invalid else ⟨.inf false, 0⟩
  | .fin n m e =>
    if m = 0 then ⟨.inf true, flagDZ⟩
    else if n then invalid
    else
      let k := Nat.log2 m
      let ip : Int := k + e
      if m = 2 ^ k then numOut (decide (ip < 0)) ip.natAbs 0
      else
        let fr := logBits 160 (m * 2 ^ (400 - min k 400)) 0
        let v : Int := ip * 2 ^ 160 + fr
        if v < 0 then numOut true (v.natAbs - 1) (-160) true else numOut false v.natAbs (-160) true

/-- A word of a rounding function: NaN first, then the function (R60, R154). -/
def funNum (g : FVal → FOut) (a : Num) : FOut :=
  match a.val with
  | .nan c => ⟨.nan c, sigFlags [a]⟩
  | v => g v

/-- a × 2^n (R153). Beyond ±1,024 every n rounds alike in every format. -/
def scaleNum (a : Num) (n : Int) : FOut :=
  match a.val with
  | .fin s m e => numOut s m (e + clampInt (-1024) 1024 n)
  | _ => numRes a

/-! ### Ordering (R154, R156) -/

/-- Order of two values that are not NaN, −0 below +0 when `zeros` is set. -/
def valLt (zeros : Bool) (a b : FVal) : Bool :=
  match a, b with
  | .inf n, .inf m => n && !m
  | .inf n, _ => n
  | _, .inf m => !m
  | .fin n m e, .fin n' m' e' =>
    if m = 0 ∧ m' = 0 then zeros && n && !n'
    else if n && !n' then !(m == 0 && m' == 0)
    else if !n && n' then false
    else if n then magLt m' e' m e
    else magLt m e m' e'
  | _, _ => false

/-- FP32 nearest even of a result (RNE32 of R6). -/
def rne32 (r : FOut) : Nat × BitVec 6 := roundRes 0 0 0 r

end Sys2Proof.Machine
end

