-- ==== Sys2Proof/Machine/Line.lean ====
section
/-! DEFINITION. Lines of M registers, predicates and the element slots of a line (R30, R52, R139 to R142). -/

namespace Sys2Proof.Machine

/-- The line whose slot i is `f i`. -/
def lineGen (f : Nat → Slot) : Line := ⟨((List.range 64).map f).toArray, by simp⟩

/-- Slot i of a line, numbered modulo 64. -/
def lineGet (l : Line) (i : Nat) : Slot := l[i % 64]'(Nat.mod_lt _ (by decide))

/-- An M line operand: register, direction and index (R30). -/
structure MRef where
  reg : Nat
  dir : Nat
  idx : Nat
  deriving DecidableEq, Repr

/-- The M line a 12-bit operand names when DIR is not 11. -/
def mRef (l : BitVec 12) : MRef := ⟨(l.extractLsb' 8 4).toNat, lineDir l, (l.extractLsb' 0 6).toNat⟩

/-- Row and column of element i of an M line (R139). -/
def mCell (r : MRef) (i : Nat) : Nat × Nat :=
  match r.dir with
  | 0 => (r.idx, i)
  | 1 => (i, r.idx)
  | _ => (i, (i + r.idx) % 64)

/-- Row r of register d. -/
def mRow (x : Tile) (d r : Nat) : Line := tabGet Line.zero x.m (64 * d + r)

/-- Slot of an M register. -/
def mSlot (x : Tile) (d r c : Nat) : Slot := lineGet (mRow x d r) c

/-- Reads an M line. -/
def readM (x : Tile) (r : MRef) : Line :=
  if r.dir = 0 then mRow x r.reg r.idx
  else lineGen (fun i => mSlot x r.reg (mCell r i).1 (mCell r i).2)

/-- Writes one slot of an M register. -/
def writeSlot (x : Tile) (d r c : Nat) (v : Slot) : Tile :=
  { x with m := tabSet Line.zero x.m (64 * d + r) ((mRow x d r).set (c % 64) v (Nat.mod_lt _ (by decide))) }

/-- Writes the elements `i < n` of a column or a diagonal, slot by slot. -/
def writeCells (r : MRef) (l : Line) : Nat → Tile → Tile
  | 0, x => x
  | n + 1, x => writeSlot (writeCells r l n x) r.reg (mCell r n).1 (mCell r n).2 (lineGet l n)

/-- Sector of the M file that a slot lies in (R320). -/
def mSector (d r c : Nat) : Nat := 256 * d + 4 * r + c / 16

/-- Sectors of the M file that a line reads. -/
def mSectors (r : MRef) : List Nat :=
  ((List.range 64).map (fun i => mSector r.reg (mCell r i).1 (mCell r i).2)).eraseDups

/-- Writes an M line. A row write covers whole sectors and clears their poison (R320). -/
def writeM (x : Tile) (r : MRef) (l : Line) : Tile :=
  if r.dir = 0 then
    { x with m := tabSet Line.zero x.m (64 * r.reg + r.idx) l,
             mBad := x.mBad.filter (fun k => !(mSectors r).contains k) }
  else writeCells r l 64 x

/-- Lanes 16k to 16k + 15 are all enabled. -/
def sectorFull (en : Word) (k : Nat) : Bool := (en.extractLsb' (16 * k) 16).toNat == 0xFFFF

/-- Writes the enabled elements of an M line; a sector that is written whole loses its poison (R141, R320). -/
def mergeM (x : Tile) (r : MRef) (l : Line) (en : Word) : Tile :=
  let old := readM x r
  let new := lineGen (fun i => if en.getLsbD i then lineGet l i else lineGet old i)
  if r.dir = 0 then
    { x with m := tabSet Line.zero x.m (64 * r.reg + r.idx) new,
             mBad := x.mBad.filter (fun k => !(k / 4 == 64 * r.reg + r.idx && sectorFull en (k % 4))) }
  else writeCells r new 64 x

/-- A line read meets poison (R320). -/
def mPoisoned (x : Tile) (r : MRef) : Bool := !x.mBad.isEmpty && (mSectors r).any (fun k => x.mBad.contains k)

/-- Predicate register n. -/
def predReg (x : Tile) (n : Nat) : Word := x.p[n % 8]'(Nat.mod_lt _ (by decide))

/-- Writes a predicate register. -/
def setPred (x : Tile) (n : Nat) (v : Word) : Tile := { x with p := x.p.set (n % 8) v (Nat.mod_lt _ (by decide)) }

/-- Operand queue n. -/
def opQueue (x : Tile) (n : Nat) : Queue := x.qs[n % 8]'(Nat.mod_lt _ (by decide))

/-- Replaces an operand queue. -/
def setOpQueue (x : Tile) (n : Nat) (q : Queue) : Tile := { x with qs := x.qs.set (n % 8) q (Nat.mod_lt _ (by decide)) }

/-- Drain queue n. -/
def drQueue (x : Tile) (n : Nat) : Queue := x.ds[n % 4]'(Nat.mod_lt _ (by decide))

/-- Replaces a drain queue. -/
def setDrQueue (x : Tile) (n : Nat) (q : Queue) : Tile := { x with ds := x.ds.set (n % 4) q (Nat.mod_lt _ (by decide)) }

/-- A line from the packed bytes of 64 elements of `w` bytes: the slot bits above are zero (R52, R134). -/
def lineOfBytes (w : Nat) (bs : List Byte) : Line :=
  lineGen (fun i => BitVec.ofNat 32 (leNat ((bs.drop (w * i)).take w)))

/-- The packed bytes of a line's 64 elements of `w` bytes. -/
def bytesOfLine (w : Nat) (l : Line) : List Byte :=
  (List.range 64).flatMap (fun i => leBytes w (lineGet l i).toNat)

end Sys2Proof.Machine
end

