-- ==== Sys2Proof/Machine/SegWords.lean ====
section
/-! DEFINITION. Group 0x4_: loads and stores of segments, line accesses, SCOPY and SZERO, and the seven segment
management words (R132 to R137). -/

namespace Sys2Proof.Machine

/-- Commands that a core issued or kicked and that are not retired (R133, R248, R254). -/
def coreCmds (s : State) (c : CoreId) : List (Nat × Cmd) :=
  s.cmds.filter (fun e =>
    match c with
    | .tile t q => !e.2.box && e.2.tile == t && e.2.seq == q % 4 && (getTile s t).task.any (fun k => k.serial == e.2.task)
    | .sbox g => e.2.box && e.2.tile / 32 == g && (tabFind s.boxProgs g).any (fun p => p.serial == e.2.task))

/-- A rel word waits for the strand's earlier engine commands to retire (R133, R248, R270). -/
def relWait (s : State) (c : CoreId) (rel : Bool) (op : Nat) : Ex Unit :=
  if rel && !(coreCmds s c).isEmpty then .error (.wait { what := .relOrder, kind := 11, name := op } s) else .ok ()

/-- LD (R133). -/
def bodyLd (f : FM) : Body := fun c s => Ex.run do
  let st := getStrand s c
  let ctx := ctxNo s c
  let a := st.getA f.ar.toNat
  let n := szBytes f.sz
  let (r, off) ← segCheck s ctx (coreTile s c) a (offFM st f) n n false
  let s1 ← grantRefs s c (coreClient c) ctx [r]
  let bs ← segRead s1 ctx r off n
  return .retire (setGOf s1 c f.rd (BitVec.ofNat 64 (leNat bs)))

/-- ST (R133). -/
def bodySt (f : FM) : Body := fun c s => Ex.run do
  let st := getStrand s c
  let ctx := ctxNo s c
  let a := st.getA f.ar.toNat
  let n := szBytes f.sz
  relWait s c (relOrd f.ord) 0x041
  let (r, off) ← segCheck s ctx (coreTile s c) a (offFM st f) n n true
  let s1 ← grantRefs s c (coreClient c) ctx [r]
  return .retire (segWrite s1 ctx r.name r.tile off (leBytes n (st.getG f.rd).toNat))

/-- M line operand of LDL and STL (R134). -/
def lineAccessRef (f : FQ) : MRef := ⟨f.qn.toNat, (f.aux.extractLsb' 6 2).toNat, (f.aux.extractLsb' 0 6).toNat⟩

/-- The segment, offset and element width of a line access: the format is judged after the name (R132, R134). -/
def lineAccess (s : State) (c : CoreId) (f : FQ) (lines : Nat) (write : Bool) : Ex (SegRef × Nat × Nat) := do
  let st := getStrand s c
  let a := st.getA f.ar.toNat
  let off := offFQ st f
  let r ← segName s (ctxNo s c) (coreTile s c) a off
  match fmtWidth (attrFmt r.seg.attr) with
  | none => trapEx s 27
  | some w =>
    let o ← segRange s r a off (64 * w * lines) w write
    return (r, o, w)

/-- LDL (R134). -/
def bodyLdl (f : FQ) : Body := fun c s => Ex.run do
  let ctx := ctxNo s c
  let (r, off, w) ← lineAccess s c f 1 false
  let s1 ← grantRefs s c (coreClient c) ctx [r]
  let bs ← segRead s1 ctx r off (64 * w)
  return .retire (modTile s1 (coreTile s c) (fun x => writeM x (lineAccessRef f) (lineOfBytes w bs)))

/-- STL (R134). -/
def bodyStl (f : FQ) : Body := fun c s => Ex.run do
  let ctx := ctxNo s c
  let (r, off, w) ← lineAccess s c f 1 true
  let s1 ← grantRefs s c (coreClient c) ctx [r]
  let x := getTile s1 (coreTile s c)
  if mPoisoned x (lineAccessRef f) then trapEx s1 40
  else return .retire (segWrite s1 ctx r.name r.tile off (bytesOfLine w (readM x (lineAccessRef f))))

/-! ### SCOPY and SZERO (R135) -/

/-- Records the progress of a portion in the A and G registers; its pins are released. -/
def stepRegs (c : CoreId) (f : FR) (copy : Bool) (n : Nat) (s : State) : State :=
  modStrand s c (fun st =>
    let ad := st.getA (aNum f.rd)
    let aa := st.getA (aNum f.ra)
    let st1 := st.setA (aNum f.rd) (mkA (aName ad) (aOff ad + n))
    let st2 := if copy then st1.setA (aNum f.ra) (mkA (aName aa) (aOff aa + n)) else st1
    { st2.setG f.rb (st.getG f.rb - BitVec.ofNat 64 n) with staged := none, pins := [] })

/-- One access of a portion, which ends at the next 64-byte boundary of the destination: SZERO's write, SCOPY's read, or
its write. The two share pins where the homes are one, and else each has those of its own home (R128). -/
def segPortion (c : CoreId) (f : FR) (copy : Bool) (dst : SegRef) (src : Option SegRef) (s : State) : Ex State := do
  let st := getStrand s c
  let ctx := ctxNo s c
  let ad := st.getA (aNum f.rd)
  let aa := st.getA (aNum f.ra)
  let n := min (st.getG f.rb).toNat (64 - aOff ad % 64)
  match src with
  | none =>
    let s1 ← grantRefs s c (coreClient c) ctx [dst]
    return stepRegs c f copy n (segWrite s1 ctx dst.name dst.tile (aOff ad) (List.replicate n 0))
  | some sr =>
    match st.staged with
    | none =>
      let rs := if sr.tile = dst.tile then [sr, dst] else [sr]
      let s1 ← grantRefs s c (coreClient c) ctx rs
      let bs ← segRead s1 ctx sr (aOff aa) n
      return modStrand s1 c (fun y =>
        { y with staged := some bs, pins := if sr.tile = dst.tile then strandPins s1 c (coreClient c) rs else [] })
    | some bs =>
      let s1 ← if sr.tile = dst.tile then pinnedAccess s c ctx [dst] false else grantRefs s c (coreClient c) ctx [dst]
      return stepRegs c f copy n (segWrite s1 ctx dst.name dst.tile (aOff ad) bs)

/-- A copying word after one access: it retires with its last byte, and else goes on. -/
def portionEnd (c : CoreId) (f : FR) (s : State) : Res := if (getStrand s c).getG f.rb = 0 then .retire s else .more s

/-- The range of an operand of `n` bytes, writable if any is written: a count of 0 checks names and offsets only. -/
def portionRange (s : State) (c : CoreId) (a : Word) (n : Nat) (write : Bool) : Ex (SegRef × Nat) :=
  segCheck s (ctxNo s c) (coreTile s c) a (aOff a) n 1 (write && n != 0)

/-- SCOPY (R135). -/
def bodyScopy (f : FR) : Body := fun c s => Ex.run do
  let st := getStrand s c
  let n := (st.getG f.rb).toNat
  let ad := st.getA (aNum f.rd)
  let aa := st.getA (aNum f.ra)
  if 2 ^ 20 < n then segTrap s 10 ad (aOff ad)
  else
    let (dst, doff) ← portionRange s c ad n true
    let (src, soff) ← portionRange s c aa n false
    if src.name = dst.name ∧ src.tile = dst.tile ∧ ad ≠ aa ∧ doff < soff + n ∧ soff < doff + n then
      segTrap s 10 ad (aOff ad)
    else if n = 0 then return .retire s
    else
      let s1 ← segPortion c f true dst (some src) s
      return portionEnd c f s1

/-- SZERO (R135). -/
def bodySzero (f : FR) : Body := fun c s => Ex.run do
  let st := getStrand s c
  let n := (st.getG f.rb).toNat
  let ad := st.getA (aNum f.rd)
  if 2 ^ 20 < n then segTrap s 10 ad (aOff ad)
  else
    let (dst, _) ← portionRange s c ad n true
    if n = 0 then return .retire s
    else
      let s1 ← segPortion c f false dst none s
      return portionEnd c f s1

/-! ### Segment management (R136) -/

/-- The name in RA; bits 63:16 must be zero or the word traps SEGNAME. -/
def nameArg (s : State) (c : CoreId) (r : BitVec 6) : Ex Nat :=
  let v := (getStrand s c).getG r
  if v.extractLsb' 16 48 ≠ 0 then trapEx s 9 (mkA (v.extractLsb' 0 16).toNat 0) else .ok (v.extractLsb' 0 16).toNat

/-- The allocated segment that RA names, checks 1 and 2 of R132. -/
def namedSeg (s : State) (c : CoreId) (r : BitVec 6) : Ex SegRef := do
  let n ← nameArg s c r
  segName s (ctxNo s c) (coreTile s c) (mkA n 0) 0

/-- The core runs in supervisor mode. -/
def isSup (s : State) (c : CoreId) : Bool := (getStrand s c).mode == .supervisor

/-- Tiles of a stack group to which the launch of a launched task assigns tasks, in any lap (R118). -/
def launchTiles (s : State) (c : CoreId) : List Nat :=
  match c with
  | .sbox _ => []
  | .tile t _ =>
    match (getTile s t).task with
    | none => []
    | some k => if k.index.isNone then [] else (tabGet [] s.launchTiles k.launch).filter (fun u => u / 32 == t / 32)

/-- The replica set of an SALLOC: the allocating tile, and for a launched task its launch's tiles in the stack group,
in increasing number (R118). -/
def replicaSet (s : State) (c : CoreId) : List Nat :=
  let me := coreTile s c
  (List.range 32).filterMap (fun j =>
    let u := 32 * (me / 32) + j
    if u = me ∨ (launchTiles s c).contains u then some u else none)

/-- A new copy at a run of free granules. -/
def newCopy (s : State) (tile gran : Nat) : SegCopy :=
  { res := .resident, base := (findRun s tile gran none).getD 0, touch := s.touches + 1, data := [], poison := [], side := [] }

/-- Adds a segment with its first copy, or a further copy of a segment that exists; `making` where more are to come (R136). -/
def addCopy (s : State) (ctx name bytes home tile : Nat) (attr : Word) (making : Bool) : State :=
  let cp := newCopy s tile (granOf bytes)
  let s1 := { s with touches := s.touches + 1 }
  modCtx s1 ctx (fun x =>
    match tabFind x.segs name with
    | some g => { x with segs := tabPut x.segs name { g with copies := tabPut g.copies tile cp } }
    | none =>
      { x with segs := tabPut x.segs name
                 ({ bytes := bytes, home := home, attr := attr, making := making, copies := [(tile, cp)] } : Segment) })

/-- The copies of an SALLOC, tile by tile. A copy that is made stays while a later one waits, under a name that no access
finds before the word retires; a trap frees it (R136, R137). QUOTA of R129's bound comes before FOOTPRINT (log entry 72). -/
def allocCopies (c : CoreId) (ctx name bytes home : Nat) (attr : Word) : List Nat → State → Ex State
  | [], s => .ok s
  | t :: ts, s =>
    if (copyOn s ctx name t).isSome then allocCopies c ctx name bytes home attr ts s
    else if attrNopush attr && nopushBreaks s t (granOf bytes) then
      .error (.trap (quotaTrap [(name, granOf bytes)] 12 (resQuota s ctx t)) s)
    else
      match grantItems s c (coreClient c) ctx t [(name, granOf bytes)] false true with
      | .error r => .error r
      | .ok s1 =>
        allocCopies c ctx name bytes home attr ts
          (modStrand (addCopy s1 ctx name bytes home t attr true) c (fun st => { st with making := some name }))

/-- The name is in use. -/
def nameTaken (s : State) (ctx name : Nat) : Bool := (findSeg s ctx name).any (fun g => !g.making)

/-- Another SALLOC makes copies under the name: this one waits until that one has taken its place, or trapped (R137). -/
def nameWait (s : State) (c : CoreId) (ctx name : Nat) : Ex Unit :=
  if (findSeg s ctx name).isSome && (getStrand s c).making != some name then
    .error (.wait { what := .grant, kind := 11, name := 0, bounded := false } s)
  else .ok ()

/-- The word has taken its place: the name is allocated (R137). -/
def nameMade (s : State) (ctx name : Nat) : State := modSeg s ctx name (fun g => { g with making := false })

/-- SALLOC (R136). SEGBOUND, for which no offset is computed, has the byte count in DETAIL1 (log entry 12). -/
def bodySalloc (f : FR) : Body := fun c s => Ex.run do
  let st := getStrand s c
  let ctx := ctxNo s c
  let me := coreTile s c
  let attr := st.getG f.rc
  let bytes := (st.getG f.rb).toNat
  let name ← nameArg s c f.ra
  let a := mkA name 0
  if name = 0 then segTrap s 8 a 0
  else if 4095 < name ∨ nameTaken s ctx name then segTrap s 9 a 0
  else if bytes % 64 ≠ 0 ∨ bytes < 64 ∨ 2 ^ 20 < bytes then segTrap s 10 a bytes
  else if !attrValid attr then trapEx s 27
  else if attrNopush attr ∧ !isSup s c then trapEx s 5
  else
    let hsel := attr.getLsbD 56
    let home := if hsel then (attr.extractLsb' 48 8).toNat else me
    if home / 32 ≠ me / 32 ∨ (hsel ∧ attrReplica attr) then segTrap s 14 a 0
    else
      let tiles := if attrReplica attr then replicaSet s c else [home]
      let kept := attr &&& 0x0000FFFFFFFFFFFF#64
      nameWait s c ctx name
      let s1 ← allocCopies c ctx name bytes home kept tiles s
      return .retire (nameMade s1 ctx name)

/-- An unretired command of the context names the segment in its footprint (R136). -/
def namedByCmd (s : State) (ctx name : Nat) : Bool :=
  s.cmds.any (fun e => e.2.ctx == ctx && e.2.names.contains name)

/-- SFREE, SATTR and SPUSH wait until no pin and no command holds the segment (R136). -/
def clearWait (s : State) (ctx : Nat) (r : SegRef) : Ex Unit :=
  if namedByCmd s ctx r.name || r.seg.copies.any (fun e => isPinned s ctx r.name e.1) ||
      r.seg.copies.any (fun e => isMoving e.2) then
    .error (.wait { what := .segment, kind := 11, name := r.name } s)
  else .ok ()

/-- SFREE (R136). -/
def bodySfree (f : FR) : Body := fun c s => Ex.run do
  let ctx := ctxNo s c
  let r ← namedSeg s c f.ra
  if attrNopush r.seg.attr ∧ !isSup s c then trapEx s 5
  else
    clearWait s ctx r
    return .retire (freeSeg s ctx r.name)

/-- SGROW (R136). SEGBOUND has the new length in DETAIL1, and a REPLICA segment traps SEGPROT at its own length too (log
entry 12); QUOTA of R129's bound comes before FOOTPRINT (log entry 72). -/
def bodySgrow (f : FR) : Body := fun c s => Ex.run do
  let ctx := ctxNo s c
  let r ← namedSeg s c f.ra
  let n := ((getStrand s c).getG f.rb).toNat
  if n % 64 ≠ 0 ∨ n < r.seg.bytes ∨ 2 ^ 20 < n then segTrap s 10 (mkA r.name 0) n
  else if attrReplica r.seg.attr then segTrap s 14 (mkA r.name 0) 0
  else if n = r.seg.bytes then return .retire s
  else if attrNopush r.seg.attr && nopushBreaks s r.tile (granOf n - granOf r.seg.bytes) then
    .error (.trap (quotaTrap [(r.name, granOf n)] 12 (resQuota s ctx r.tile)) s)
  else
    let s1 ← grantItems s c (coreClient c) ctx r.tile [(r.name, granOf n)] false
    return .retire (touchSeg (modSeg s1 ctx r.name (fun g => { g with bytes := n })) ctx r.name r.tile)

/-- Tiles on which NOPUSH for a segment's copies would break the bound of R129. -/
def nopushTile (s : State) (g : Segment) : Option Nat := (g.copies.map (·.1)).find? (fun t => nopushBreaks s t (granOf g.bytes))

/-- SATTR (R136). NOPUSH that would break the bound of R129 traps QUOTA, as an SALLOC or SGROW does (log entry 12). -/
def bodySattr (f : FR) : Body := fun c s => Ex.run do
  let ctx := ctxNo s c
  let r ← namedSeg s c f.ra
  let a := (getStrand s c).getG f.rb
  if !attrValid a then trapEx s 27
  else if attrReplica a != attrReplica r.seg.attr then segTrap s 14 (mkA r.name 0) 0
  else if attrNopush a != attrNopush r.seg.attr ∧ !isSup s c then trapEx s 5
  else
    clearWait s ctx r
    match if attrNopush a && !attrNopush r.seg.attr then nopushTile s r.seg else none with
    | some t => .error (.trap (quotaTrap [(r.name, granOf r.seg.bytes)] 12 (resQuota s ctx t)) s)
    | none => return .retire (modSeg s ctx r.name (fun g => { g with attr := a &&& 0x0000FFFFFFFFFFFF#64 }))

/-- STATE of the SQUERY state word (R136). -/
def resCode : Residency → Nat
  | .resident => 1
  | .pushed => 2
  | .pushing | .recalling | .sliding _ _ => 3

/-- The word SQUERY reads for a segment (R136). -/
def squeryWord (g : Segment) (tile sel : Nat) : Word :=
  let t := copyTile g tile
  let cp := getCopy g t
  match sel with
  | 0 => if attrReplica g.attr then g.attr else g.attr ||| BitVec.ofNat 64 (2 ^ 56 + g.home % 256 * 2 ^ 48)
  | 1 => BitVec.ofNat 64 g.bytes
  | _ => BitVec.ofNat 64 (resCode cp.res * 2 ^ 30 + t % 256 * 2 ^ 22 + (if cp.res = .resident then cp.base else 0))

/-- SQUERY: an unallocated name reads 0 (R136). -/
def bodySquery (f : FR) : Body := fun c s => Ex.run do
  let n ← nameArg s c f.ra
  if n = 0 then segTrap s 8 0 0
  else if 4095 < n then segTrap s 9 (mkA n 0) 0
  else
    match (findSeg s (ctxNo s c) n).filter (fun g => !g.making) with
    | none => return .retire (setGOf s c f.rd 0)
    | some g =>
      if copyTile g (coreTile s c) / 32 ≠ coreTile s c / 32 then segTrap s 9 (mkA n 0) 0
      else return .retire (setGOf s c f.rd (squeryWord g (coreTile s c) f.fn.toNat))

/-- SRECALL asks for a background recall and retires at once; a request that would trap, on its name too, is dropped
(R136). -/
def bodySrecall (f : FR) : Body := fun c s => Ex.run do
  let ctx := ctxNo s c
  let n ← nameArg s c f.ra
  match segName s ctx (coreTile s c) (mkA n 0) 0 with
  | .error _ => return .retire s
  | .ok r =>
    if (getCopy r.seg r.tile).res = .pushed then
      return .retire (queueGrant s r.tile
        (newReq s none (coreTile s c) ctx (coreClient c) r.tile (footprint [r]) false))
    else return .retire s

/-- SPUSH: waits, pushes the copy the name resolves to, and retires when it is PUSHED (R136). -/
def bodySpush (f : FR) : Body := fun c s => Ex.run do
  let ctx := ctxNo s c
  let r ← namedSeg s c f.ra
  let cp := getCopy r.seg r.tile
  if attrNopush r.seg.attr then segTrap s 14 (mkA r.name 0) 0
  else if cp.res = .pushed then return .retire s
  else
    clearWait s ctx r
    if !sidingRoom s ctx (64 * granOf r.seg.bytes) then
      .error (.trap { cond := 13, d0 := mkA r.name 0,
                      d1 := BitVec.ofNat 64 (granOf r.seg.bytes * 2 ^ 32 + ctx % 512) } s)
    else
      let p : Placed := ⟨ctx, r.name, granOf r.seg.bytes, r.seg.attr, false, cp⟩
      return .wait { what := .segment, kind := 11, name := r.name } (startPush s p r.tile)

/-! ### The meanings -/

/-- LD (OP 0x40, R133). -/
def execLd (f : FM) (s : State) : Out := issueWord (.ld f) (bodyLd f) s

/-- ST (OP 0x41, R133). -/
def execSt (f : FM) (s : State) : Out := issueWord (.st f) (bodySt f) s

/-- LDL (OP 0x42, R134). -/
def execLdl (f : FQ) (s : State) : Out := issueWord (.ldl f) (bodyLdl f) s

/-- STL (OP 0x43, R134). -/
def execStl (f : FQ) (s : State) : Out := issueWord (.stl f) (bodyStl f) s

/-- SCOPY (OP 0x44, R135). -/
def execScopy (f : FR) (s : State) : Out := issueWord (.scopy f) (bodyScopy f) s

/-- SZERO (OP 0x45, R135). -/
def execSzero (f : FR) (s : State) : Out := issueWord (.szero f) (bodySzero f) s

/-- SALLOC (OP 0x46, R136). -/
def execSalloc (f : FR) (s : State) : Out := issueWord (.salloc f) (bodySalloc f) s

/-- SFREE (OP 0x47, R136). -/
def execSfree (f : FR) (s : State) : Out := issueWord (.sfree f) (bodySfree f) s

/-- SGROW (OP 0x48, R136). -/
def execSgrow (f : FR) (s : State) : Out := issueWord (.sgrow f) (bodySgrow f) s

/-- SATTR (OP 0x49, R136). -/
def execSattr (f : FR) (s : State) : Out := issueWord (.sattr f) (bodySattr f) s

/-- SQUERY (OP 0x4A, R136). -/
def execSquery (f : FR) (s : State) : Out := issueWord (.squery f) (bodySquery f) s

/-- SRECALL (OP 0x4B, R136). -/
def execSrecall (f : FR) (s : State) : Out := issueWord (.srecall f) (bodySrecall f) s

/-- SPUSH (OP 0x4C, R136). -/
def execSpush (f : FR) (s : State) : Out := issueWord (.spush f) (bodySpush f) s

end Sys2Proof.Machine
end

