-- ==== Sys2Proof/Machine/DevMem.lean ====
section
/-! DEFINITION. Device memory words: group 0xB_ (R245 to R254), and ATL, which performs the same operations on a
segment (R269, R270). -/

namespace Sys2Proof.Machine

/-- A translated operand of a strand. -/
structure DevRef where
  va : Nat
  pa : Nat
  leaf : Word
  /-- Level of the leaf in the walk. -/
  level : Nat
  deriving DecidableEq, Repr

/-- Log2 of a size of 1 to 64 bytes, as SIZE records it (R243). -/
def sizeLog (n : Nat) : Nat := Nat.log2 n

/-- The fault record of a core's word (R243). -/
def coreFault (s : State) (c : CoreId) (va n : Nat) (acc : Access) (f : XFail) : FaultInfo :=
  { party := .core c, ctx := ctxNo s c, cond := f.cond, reason := f.reason, level := f.level, mega := f.mega, va := va, acc := acc,
    size := sizeLog n, tile := coreTile s c, unit := 0, src := coreSrc c, pc := (getStrand s c).wordPc, done := 0,
    queued := false }

/-- Address checks 2 and 3 of group 0xB_: ADDRRANGE, then ALIGNDATA. -/
def devAddr (s : State) (a : Int) (n : Nat) : Ex Nat :=
  if a < 0 ∨ (Config.vaEnd : Int) ≤ a then trapEx s 19
  else if a.toNat % n ≠ 0 then trapEx s 7
  else .ok a.toNat

/-- Translation of an access of a core in its mode, or the end of its turn in the middle of the walk (R240). -/
def coreXlat (s : State) (c : CoreId) (va : Nat) (acc : Access) : Ex (Except XFail XOk × State) :=
  let st := getStrand s c
  match walkStops s (coreTile s c) (ctxNo s c) va acc st.mode st.walk with
  | some (x, s1) => .error (.more (modStrand s1 c (fun y => { y with walk := x })))
  | none =>
    let (r, s1) := translate s (coreTile s c) (ctxNo s c) va acc st.mode st.walk
    Except.ok (r, if st.walk.isSome then modStrand s1 c (fun y => { y with walk := none }) else s1)

/-- Translation of an access of a core: a recoverable fault parks the core (R240, R242); an error in a
table read traps ECCUNC. -/
def devXlat (s : State) (c : CoreId) (va n : Nat) (acc : Access) : Ex (DevRef × State) := do
  let (r, s1) ← coreXlat s c va acc
  match r with
  | .ok x => .ok (⟨va, x.pa, x.leaf, if x.mega then 2 else 3⟩, s1)
  | .error f => if f.hard then trapEx s f.cond else .error (.fault (coreFault s c va n acc f) s)

/-- Reads device memory for a core: a failed link ends with LINKERR (R327), poison with ECCUNC (R320). -/
def devRead (s : State) (pa n : Nat) : Ex Nat :=
  if linkDown s pa then trapEx s 41
  else if paPoisoned s pa n then trapEx s 40
  else .ok (paNat s pa n)

/-- Writes device memory for a core. -/
def devWrite (s : State) (pa n v : Nat) : Ex State :=
  if linkDown s pa then trapEx s 41 else .ok (paWrite s pa (leBytes n v))

/-- LDG (R251). -/
def bodyLdg (f : FG) : Body := fun c s => Ex.run do
  let n := szBytes f.sz
  let va ← devAddr s (addrFG (getStrand s c) f) n
  let (r, s1) ← devXlat s c va n .read
  let v ← devRead s1 r.pa n
  return .retire (setGOf s1 c f.rd (BitVec.ofNat 64 v))

/-- STG (R251). -/
def bodyStg (f : FG) : Body := fun c s => Ex.run do
  let n := szBytes f.sz
  relWait s c (relOrd f.ord) 0x0B1
  let va ← devAddr s (addrFG (getStrand s c) f) n
  let (r, s1) ← devXlat s c va n .write
  let s2 ← devWrite s1 r.pa n ((getStrand s c).getG f.rd).toNat
  return .retire s2

/-- The value an atomic operation writes and the flags it raises, on old value, operand and compare value of
`8n` bits (R252). -/
def atomicValue (op n old x cmp : Nat) : Nat × BitVec 6 :=
  let m := 2 ^ (8 * n)
  let sg (v : Nat) : Int := if v < m / 2 then v else (v : Int) - m
  match op with
  | 0 => (x, 0)
  | 1 => ((old + x) % m, 0)
  | 2 => (old &&& x, 0)
  | 3 => (old ||| x, 0)
  | 4 => (old ^^^ x, 0)
  | 5 => (if sg old ≤ sg x then old else x, 0)
  | 6 => (if sg old ≤ sg x then x else old, 0)
  | 7 => (min old x, 0)
  | 8 => (max old x, 0)
  | 9 => (if old = cmp then x else old, 0)
  | _ => rne32 (addNums 0 (readElem 0 old) (readElem 0 x))

/-- A host atomic that falls between the read and the write of a device atomic (R249). -/
def hostRaces (s : State) (pa n : Nat) (leaf : Word) : Option HostAtomic :=
  match s.hostRace with
  | some h => if !leafBit leaf 7 && h.pa < pa + n && pa < h.pa + h.bytes then some h else none
  | none => none

/-- The value that a host atomic writes, from the bytes it reads (R252). -/
def hostValue (s : State) (h : HostAtomic) : Nat := (atomicValue h.op h.bytes (paNat s h.pa h.bytes) h.x h.cmp).1

/-- A host atomic, made as one access: it reads, computes and writes, as an ATG does (R249, R252). -/
def hostAtomicDo (s : State) (h : HostAtomic) : State := paWrite s h.pa (leBytes h.bytes (hostValue s h))

/-- A host atomic that runs into a device atomic on a page without SYSATOM (R249). Which of the two updates is lost is
free, and so is whether the check sees an access of a host whose write comes last (log entry 18). The state before the
device's write, and the bytes that the host writes after it, if it does. -/
def raceOn (s : State) (r : DevRef) (h : HostAtomic) : State × Option (List Byte) :=
  let z := Config.freeWord s.fresh
  let sl := homeSlice s r.pa r.leaf
  let s1 := { s with hostRace := none, fresh := s.fresh + 1 }
  let s2 := if z.getLsbD 0 && z.getLsbD 1 then s1
    else { s1 with atomrace := tabSet 0 s1.atomrace sl (tabGet 0 s1.atomrace sl + 1) }
  if z.getLsbD 0 then (s2, some (leBytes h.bytes (hostValue s h))) else (hostAtomicDo s2 h, none)

/-- ATG (R252): the address, the ordered wait, translation with R and W, ATOMKIND on a UC page, and one indivisible
read and write. On a page without SYSATOM a host atomic may fall into it, which ATOMRACE counts (R249). -/
def bodyAtg (f : FG) : Body := fun c s => Ex.run do
  let n := szBytes f.sz
  let st := getStrand s c
  relWait s c (relOrd f.ord) 0x0B2
  let va ← devAddr s (addrFG st { f with rx := 0 }) n
  let (r, s1) ← devXlat s c va n .atomic
  if leafBit r.leaf 8 then trapEx s1 20
  else
    let old ← devRead s1 r.pa n
    let (v, fl) := atomicValue f.aop.toNat n old (((st.getG f.rx).toNat) % 2 ^ (8 * n)) ((st.getG f.rd).toNat % 2 ^ (8 * n))
    match hostRaces s1 r.pa n r.leaf with
    | none => do
      let s2 ← devWrite s1 r.pa n v
      return flagsDone (setGOf s2 c f.rd (BitVec.ofNat 64 old)) c fl
    | some h => do
      let (s2, late) := raceOn s1 r h
      let s3 ← devWrite s2 r.pa n v
      let s4 := match late with
        | some bs => paWrite s3 h.pa bs
        | none => s3
      return flagsDone (setGOf s4 c f.rd (BitVec.ofNat 64 old)) c fl

/-- PREFG fills the TLB when the page can be read, and changes nothing else (R253). -/
def bodyPrefg (f : FG) : Body := fun c s => Ex.run do
  let va ← devAddr s (addrFG (getStrand s c) f) 1
  let (r, s1) ← coreXlat s c va .read
  match r with
  | .ok x => return .retire (if leafBit x.leaf 8 then s else s1)
  | .error _ => return .retire s

/-- Commands that hold up a FENCE of a scope (R254): those of the strand's cluster queues from CLUSTER on, every one
from DEVICE on. -/
def fenceHolds (s : State) (c : CoreId) (scope : Nat) : Bool :=
  (coreCmds s c).any (fun e => 3 ≤ scope || (1 ≤ scope && e.2.chain.isNone))

/-- FENCE waits for the commands of its scope; every access of the strand has completed when the word issues (R254). -/
def bodyFence (f : FG) : Body := fun c s =>
  if fenceHolds s c f.scope.toNat then .wait { what := .fence, kind := 11, name := 0x0B4 } s else .retire s

/-- ATL (R269): ATG's operations at the bank of the segment's copy. -/
def bodyAtl (f : FM) : Body := fun c s => Ex.run do
  let st := getStrand s c
  let ctx := ctxNo s c
  let n := szBytes f.sz
  let a := st.getA f.ar.toNat
  let off : Int := (aOff a : Int) + dispInt f.disp + st.dispStep
  relWait s c (relOrd f.ord) 0x0C0
  let (r, o) ← segCheck s ctx (coreTile s c) a off n n true
  let s1 ← grantRefs s c (coreClient c) ctx [r]
  let bs ← segRead s1 ctx r o n
  let old := leNat bs
  let (v, fl) := atomicValue f.sh.toNat n old ((st.getG f.rx).toNat % 2 ^ (8 * n)) ((st.getG f.rd).toNat % 2 ^ (8 * n))
  let s2 := segWrite s1 ctx r.name r.tile o (leBytes n v)
  return flagsDone (setGOf s2 c f.rd (BitVec.ofNat 64 old)) c fl

/-! ### The meanings -/

/-- LDG (OP 0xB0, R251). -/
def execLdg (f : FG) (s : State) : Out := issueWord (.ldg f) (bodyLdg f) s

/-- STG (OP 0xB1, R251). -/
def execStg (f : FG) (s : State) : Out := issueWord (.stg f) (bodyStg f) s

/-- ATG (OP 0xB2, R252). -/
def execAtg (f : FG) (s : State) : Out := issueWord (.atg f) (bodyAtg f) s

/-- PREFG (OP 0xB3, R253). -/
def execPrefg (f : FG) (s : State) : Out := issueWord (.prefg f) (bodyPrefg f) s

/-- FENCE (OP 0xB4, R254). -/
def execFence (f : FG) (s : State) : Out := issueWord (.fence f) (bodyFence f) s

/-- ATL (OP 0xC0, R269). -/
def execAtl (f : FM) (s : State) : Out := issueWord (.atl f) (bodyAtl f) s

end Sys2Proof.Machine
end

