-- ==== Sys2Proof/Machine/Lines.lean ====
section
/-! DEFINITION. Queues and line words: QRD, QWR, QCNT and groups 0x53 to 0x57 and 0x6_ to 0x8_ (R139 to R161). -/

namespace Sys2Proof.Machine

/-! ### QRD, QWR and QCNT (R145 to R149) -/

/-- Filled lines of an operand queue. -/
def filledLines (q : Queue) : Nat := (q.lines.filter (·.filled)).length

/-- STATE code of a record (R144). -/
def qStateCode : QState → Nat
  | .idle => 0 | .active => 1 | .parked => 2 | .poisoned => 3

/-- The record of a queue as QCNT reads it (R144). -/
def queueRecord (q : Queue) : Word :=
  BitVec.ofNat 64 (qStateCode q.state * 2 ^ 62 + (q.next % 1024) * 2 ^ 52 + (q.rem % 1024) * 2 ^ 42
    + filledLines q * 2 ^ 37 + (q.lines.length - filledLines q) * 2 ^ 32)

/-- Line number at which a QRD or QWR goes on: NEXT when it is under way, or resumes the word that was parked; a word of
the strand's trap handler does not resume the trapped word (R146, R149). -/
def resumeLine (q : Queue) (sup : Bool) : Nat :=
  if q.state = .active ∨ (q.state = .parked ∧ q.sup = sup) then q.next else 0

/-- Progress of a queue word at line `k` of `n` (R146). -/
def Queue.at (q : Queue) (k n : Nat) : Queue := { q with state := .active, next := k, rem := n - k }

/-- A finished queue word (R146). -/
def Queue.finish (q : Queue) : Queue := { q with state := .idle }

/-- Line `k` of a QRD: the wait for space, the grant and the read (R146). Lines that a resumption reads again come first
(R150). -/
def qrdLine (c : CoreId) (f : FQ) (r : SegRef) (off w n k : Nat) (s : State) : Ex State := do
  let t := coreTile s c
  let q := f.qn.toNat
  let lines := (opQueue (getTile s t) q).lines
  if lines.any (·.again) then
    .error (.wait { what := .queueSpace, kind := 11, name := q, psrc := 2, prod := some 2, bounded := false } s)
  else if 16 ≤ lines.length then
    .error (.wait { what := .queueSpace, kind := 11, name := q, psrc := 2, prod := some 2 } s)
  else
    let o := off + 64 * w * k
    let s1 ← grantRefs s c (coreClient c) (ctxNo s c) [r]
    let bs ← segRead s1 (ctxNo s c) r o (64 * w)
    let line : QLine := { filled := false, again := false, data := lineOfBytes w bs, ctx := ctxNo s c, name := r.name,
                          tile := r.tile, off := o, width := w, bad := false }
    return modTile s1 t (fun x =>
      let old := opQueue x q
      setOpQueue x q ({ old with lines := old.lines ++ [line] }.at (k + 1) n))

/-- QRD, one line at a time (R146). On a POISONED queue it waits until the record leaves that state (R149). -/
def bodyQrd (f : FQ) : Body := fun c s => Ex.run do
  let t := coreTile s c
  let q := f.qn.toNat
  let n := f.aux.toNat
  let (r, off, w) ← lineAccess s c f n false
  if (opQueue (getTile s t) q).state = .poisoned then
    .error (.wait { what := .queueSpace, kind := 11, name := q, psrc := 2, prod := some 2 } s)
  else
    let k := resumeLine (opQueue (getTile s t) q) (isSup s c)
    let s1 := modTile s t (fun x => setOpQueue x q ((opQueue x q).at k n))
    let s2 ← if k < n then qrdLine c f r off w n k s1 else .ok s1
    return if k + 1 < n then .more s2 else .retire (modTile s2 t (fun x => setOpQueue x q (opQueue x q).finish))

/-- Line `k` of a QWR: the head line is written as line k, then popped (R146). -/
def qwrLine (c : CoreId) (f : FQ) (r : SegRef) (off w n k : Nat) (s : State) : Ex State :=
  let t := coreTile s c
  let d := f.qn.toNat
  match (drQueue (getTile s t) d).lines with
  | [] => .error (.wait { what := .drainLine, kind := 11, name := 0x100 + d, psrc := 2, prod := some 2 } s)
  | h :: rest => do
    let s1 ← grantRefs s c (coreClient c) (ctxNo s c) [r]
    if h.bad then trapEx s1 40
    else
      let s2 := segWrite s1 (ctxNo s c) r.name r.tile (off + 64 * w * k) (bytesOfLine w h.data)
      return modTile s2 t (fun x => setDrQueue x d ({ drQueue x d with lines := rest }.at (k + 1) n))

/-- QWR, one line at a time (R146). -/
def bodyQwr (f : FQ) : Body := fun c s => Ex.run do
  let t := coreTile s c
  let d := f.qn.toNat
  let n := f.aux.toNat
  let (r, off, w) ← lineAccess s c f n true
  let k := resumeLine (drQueue (getTile s t) d) (isSup s c)
  let s1 := modTile s t (fun x => setDrQueue x d ((drQueue x d).at k n))
  let s2 ← if k < n then qwrLine c f r off w n k s1 else .ok s1
  return if k + 1 < n then .more s2 else .retire (modTile s2 t (fun x => setDrQueue x d (drQueue x d).finish))

/-- QCNT reads READY or the record of a queue (R148). -/
def bodyQcnt (f : FQ) : Body := fun c s =>
  let x := getTile s (coreTile s c)
  let q := if f.qn.getLsbD 3 then drQueue x (f.qn.toNat % 4) else opQueue x (f.qn.toNat % 8)
  .retire (setGOf s c f.rc (if f.aux = 0 then BitVec.ofNat 64 (filledLines q) else queueRecord q))

/-! ### Sources and destinations (R30, R140 to R143) -/

/-- Kind of a special line operand. -/
def lineKind (l : BitVec 12) : Nat := (l.extractLsb' 10 2).toNat

/-- The operand queue that a source pops. -/
def popOf (l : BitVec 12) : Option Nat :=
  if lineDir l = 3 ∧ lineKind l = 1 then some (l.extractLsb' 0 3).toNat else none

/-- The drain queue that a destination pushes to. -/
def pushOf (l : BitVec 12) : Option Nat :=
  if lineDir l = 3 ∧ lineKind l = 1 then some (l.extractLsb' 0 2).toNat else none

/-- Slot pattern of a constant-table entry in lane i (R142). -/
def constSlot (k i : Nat) : Slot :=
  match k with
  | 0 => 0x00000000 | 1 => 0x3F800000 | 2 => 0xBF800000 | 3 => 0x3F000000
  | 4 => 0x40000000 | 5 => 0x7F800000 | 6 => 0xFF800000 | 7 => 0x7FC00000
  | 8 => 0x7F7FFFFF | 9 => BitVec.ofNat 32 i | 10 => 0x00000001 | 11 => 0xFFFFFFFF
  | 12 => 0x3FB8AA3B | 13 => 0x3C800000 | 14 => 0x00800000 | _ => 0x80000000

/-- Waiting for `n` filled lines at the head of an operand queue: QPOISON on a POISONED one whose lines have all filled
(R143, R149, R150). -/
def awaitPops (s : State) (t q n : Nat) (engine : Bool) : Ex Unit :=
  let x := opQueue (getTile s t) q
  if n ≤ x.lines.length ∧ (x.lines.take n).all (·.filled) then .ok ()
  else if x.state = .poisoned ∧ x.lines.all (·.filled) then
    let clean : Queue := { state := .idle, sup := false, next := 0, rem := 0, lines := x.lines, cause := 0 }
    .error (.trap { cond := 22, engine := engine, d0 := x.cause.zeroExtend 64 }
      (modTile s t (fun y => setOpQueue y q clean)))
  else .error (.wait { what := .lineOperands, kind := 2, name := q, psrc := 1, prod := some 1 } s)

/-- Waiting for `n` places in a drain queue (R143). -/
def awaitPush (s : State) (t d n : Nat) : Ex Unit :=
  if (drQueue (getTile s t) d).lines.length + n ≤ 16 then .ok ()
  else .error (.wait { what := .lineOperands, kind := 3, name := d, psrc := 3, prod := some 3 } s)

/-- Every wait of a word that pops from queues and pushes `pushes` lines to one. Where several are not over, the word waits
on LA's queue, then LB's, then for room in the drain queue (log entry 61). -/
def awaitLines (s : State) (t : Nat) (qs : List Nat) (push : Option (Nat × Nat)) (engine : Bool := false) : Ex Unit := do
  let _ ← qs.eraseDups.mapM (fun q => awaitPops s t q (qs.filter (· == q)).length engine)
  match push with
  | some (d, n) => awaitPush s t d n
  | none => return ()

/-- Pops the head line of an operand queue whose head is filled. -/
def popLine (s : State) (t q : Nat) : QLine × State :=
  match (opQueue (getTile s t) q).lines with
  | h :: rest => (h, modTile s t (fun x => setOpQueue x q { opQueue x q with lines := rest }))
  | [] => ({ filled := true, again := false, data := Line.zero, ctx := 0, name := 0, tile := 0, off := 0, width := 4, bad := false }, s)

/-- Pushes a line to a drain queue. -/
def pushLine (s : State) (t d : Nat) (l : Line) : State :=
  modTile s t (fun x => setDrQueue x d { drQueue x d with
    lines := (drQueue x d).lines ++ [{ filled := true, again := false, data := l, ctx := 0, name := 0, tile := 0, off := 0, width := 4, bad := false }] })

/-- Reads one source: an M line, a G register broadcast, a popped line or a constant. A poisoned line traps ECCUNC,
with the queues as they were in `s0` (R320). -/
def readSource (c : CoreId) (s0 s : State) (l : BitVec 12) : Ex (Line × State) :=
  let t := coreTile s c
  if lineDir l ≠ 3 then
    if mPoisoned (getTile s t) (mRef l) then trapEx s0 40 else .ok (readM (getTile s t) (mRef l), s)
  else if lineKind l = 0 then
    let v := ((getStrand s c).getG (BitVec.ofNat 6 (l.extractLsb' 0 5).toNat)).setWidth 32
    .ok (lineGen (fun _ => v), s)
  else if lineKind l = 1 then
    let (h, s1) := popLine s t (l.extractLsb' 0 3).toNat
    if h.bad then trapEx s0 40 else .ok (h.data, s1)
  else .ok (lineGen (fun i => constSlot (l.extractLsb' 0 4).toNat i), s)

/-- Reads the sources of a word in order. -/
def readSources (c : CoreId) (s0 : State) : List (BitVec 12) → State → Ex (List Line × State)
  | [], s => .ok ([], s)
  | l :: ls, s => do
    let (x, s1) ← readSource c s0 s l
    let (xs, s2) ← readSources c s0 ls s1
    return (x :: xs, s2)

/-- Lanes of a line word that are enabled (R141). -/
def laneEnable (x : Tile) (f : FL) : Word :=
  if f.pe = 1 then (if f.pn = 1 then ~~~ predReg x f.pred.toNat else predReg x f.pred.toNat) else BitVec.allOnes 64

/-- Rounding mode of a word: DYN reads RMDYN and traps BADFIELD on 6 and 7 (R33, R107). -/
def roundMode (s : State) (c : CoreId) (rm : BitVec 3) : Ex Nat :=
  if rm = 6 then
    let d := (getStrand s c).rmdyn.toNat
    if 6 ≤ d then trapEx s 4 else .ok d
  else .ok rm.toNat

/-- Writes a result line to its destination: merged into an M line, or pushed with disabled lanes 0 (R141). -/
def putLine (s : State) (t : Nat) (l : BitVec 12) (r : Line) (en : Word) : State :=
  match pushOf l with
  | some d => pushLine s t d (lineGen (fun i => if en.getLsbD i then lineGet r i else 0))
  | none => modTile s t (fun x => mergeM x (mRef l) r en)

/-- What a line word has in hand when its waits are over: lines in the order of its sources, the old destination, the
enabled lanes, the rounding mode, and the state with its pops made. -/
structure LineIn where
  a : Line
  b : Line
  d : Line
  en : Word
  rm : Nat
  s : State

/-- Waits, pops and reads of a line word whose sources are `srcs` (LA, LB); `readD` says that it reads LD and `dst`
that it writes LD as a line (R151). -/
def lineIn (c : CoreId) (f : FL) (srcs : List (BitVec 12)) (readD dst : Bool) (s : State) : Ex LineIn := do
  let t := coreTile s c
  let rm ← roundMode s c f.rm
  awaitLines s t (srcs.filterMap popOf) (if dst then (pushOf f.ld).map (·, 1) else none)
  let (ls, s1) ← readSources c s (if readD then srcs ++ [f.ld] else srcs) s
  let d := if readD then ls.getD srcs.length Line.zero else Line.zero
  return { a := ls.getD 0 Line.zero, b := (if srcs.length = 2 then ls.getD 1 Line.zero else Line.zero), d := d,
           en := laneEnable (getTile s t) f, rm := rm, s := s1 }

/-- Codes and flags of 64 lanes. -/
abbrev Lanes := List (Nat × BitVec 6)

/-- A value for each lane. -/
def lanesGen {α : Type} (g : Nat → α) : List α := (List.range 64).map g

/-- The line of the codes of 64 lanes. -/
def lanesLine (r : Lanes) : Line := lineGen (fun i => BitVec.ofNat 32 (r.getD i (0, 0)).1)

/-- Union of the flags of the enabled lanes. -/
def lanesFlags (r : Lanes) (en : Word) : BitVec 6 :=
  (List.range 64).foldl (fun fl i => if en.getLsbD i then fl ||| (r.getD i (0, 0)).2 else fl) 0

/-- The end of a line word: results to LD, flags to FPSTAT (R151). -/
def lineDone (c : CoreId) (f : FL) (i : LineIn) (r : Lanes) : Res :=
  flagsDone (putLine i.s (coreTile i.s c) f.ld (lanesLine r) i.en) c (lanesFlags r i.en)

/-- Elem of R6: the low bits of a slot in a format's width (R52). -/
def elemOf (f : Nat) (l : Line) (i : Nat) : Nat := (lineGet l i).toNat % 2 ^ fmtBits f

/-- t of a lane for a destination format (R58). -/
def tTo (f : Nat) (r : FRes) : Nat :=
  if 5 ≤ f ∧ f ≤ 8 then
    match r with
    | .num x => let (d, lost) := discarded 0 x; if d ≤ 32 then lost * 2 ^ (32 - d) else lost / 2 ^ (d - 32)
    | _ => 0
  else tBits f r

/-- Rounds the results of a line to a format, with the random words of their neighbours under SR (R58, R62). -/
def roundLanes (f rm : Nat) (isInt : Bool) (rs : List (Option FOut)) : Lanes :=
  let ts := if rm = 5 then rs.map (fun r => (r.map (fun o => tTo f o.res)).getD 0) else []
  (rs.zipIdx).map (fun e =>
    match e.1 with
    | some o => convTo f rm (if rm = 5 then randAt ts e.2 else 0) isInt o
    | none => (0, 0))

/-- A rounding floating-point word: `op rm a b d` gives the exact result of a lane (R153). -/
def floatBody (f : FL) (two readD : Bool) (op : Nat → Num → Num → Num → FOut) : Body := fun c s => Ex.run do
  let i ← lineIn c f (if two then [f.la, f.lb] else [f.la]) readD true s
  let ty := f.ty.toNat
  let rs := lanesGen (fun k =>
    if i.en.getLsbD k then
      some (op i.rm (readElem ty (elemOf ty i.a k)) (readElem ty (elemOf ty i.b k)) (readElem ty (elemOf ty i.d k)))
    else none)
  return lineDone c f i (roundLanes ty i.rm false rs)

def bodyFadd (f : FL) : Body := floatBody f true false (fun rm a b _ => addNums rm a b)
def bodyFsub (f : FL) : Body := floatBody f true false (fun rm a b _ => subNums rm a b)
def bodyFmul (f : FL) : Body := floatBody f true false (fun _ a b _ => mulNums a b)
def bodyFma (f : FL) : Body := floatBody f true true (fun rm a b d => fmaNums rm a b d)
def bodyFexp2 (f : FL) : Body := floatBody f false false (fun _ a _ _ => funNum exp2Val a)
def bodyFlog2 (f : FL) : Body := floatBody f false false (fun _ a _ _ => funNum log2Val a)
def bodyFrcp (f : FL) : Body := floatBody f false false (fun _ a _ _ => funNum recipVal a)
def bodyFrsq (f : FL) : Body := floatBody f false false (fun _ a _ _ => funNum rsqrtVal a)

/-- FCVT converts from format FN to TY (R62, R153). -/
def bodyFcvt (f : FL) : Body := fun c s => Ex.run do
  let i ← lineIn c f [f.la] false true s
  let src := f.fn.toNat
  let rs := lanesGen (fun k =>
    if i.en.getLsbD k then some (numRes (readElem src (elemOf src i.a k))) else none)
  return lineDone c f i (roundLanes f.ty.toNat i.rm (decide (5 ≤ src ∧ src ≤ 8)) rs)

/-- FSCALE: LB is read as INT32 (R153). -/
def bodyFscale (f : FL) : Body := fun c s => Ex.run do
  let i ← lineIn c f [f.la, f.lb] false true s
  let ty := f.ty.toNat
  let rs := lanesGen (fun k =>
    if i.en.getLsbD k then some (scaleNum (readElem ty (elemOf ty i.a k)) (lineGet i.b k).toInt) else none)
  return lineDone c f i (roundLanes ty i.rm false rs)

/-- The larger or smaller of two codes of a floating-point format (R154). -/
def floatPick (ty : Nat) (larger : Bool) (a b : Nat) : Nat × BitVec 6 :=
  let x := readElem ty a
  let y := readElem ty b
  match x.val, y.val with
  | .nan p, .nan _ => (nanTo ty p, sigFlags [x, y])
  | .nan _, _ => (b, sigFlags [x])
  | _, .nan _ => (a, sigFlags [y])
  | p, q => (if valLt true p q == larger then b else a, 0)

/-- A word on two lines whose result in each lane is a code (R151). -/
def pairBody (f : FL) (two readD : Bool) (op : Nat → Nat → Nat → Nat × BitVec 6) : Body := fun c s => Ex.run do
  let i ← lineIn c f (if two then [f.la, f.lb] else [f.la]) readD true s
  let ty := f.ty.toNat
  return lineDone c f i (lanesGen (fun k => op (elemOf ty i.a k) (elemOf ty i.b k) (elemOf ty i.d k)))

def bodyFmax (f : FL) : Body := pairBody f true false (fun a b _ => floatPick f.ty.toNat true a b)
def bodyFmin (f : FL) : Body := pairBody f true false (fun a b _ => floatPick f.ty.toNat false a b)

/-- Sign bit of a floating-point format. -/
def signBit (ty : Nat) : Nat := 2 ^ (fmtBits ty - 1)

def bodyFabs (f : FL) : Body := pairBody f false false (fun a _ _ => (a % signBit f.ty.toNat, 0))
def bodyFneg (f : FL) : Body := pairBody f false false (fun a _ _ => (a ^^^ signBit f.ty.toNat, 0))

/-! ### Integer lines (R155) -/

/-- An exact integer narrowed to a format: modulo, or SatInt with SAT (R155). -/
def intNarrow (ty : Nat) (sat : Bool) (r : Int) : Nat × BitVec 6 :=
  let (lo, hi) := intRange ty
  let v := if sat then clampInt lo hi r else r
  (intCode (fmtBits ty) v, if sat ∧ v ≠ r then flagSAT else 0)

/-- An integer word: `op a b d s` is the exact result, s the shift count (R155). -/
def intBody (f : FL) (readD : Bool) (op : Int → Int → Int → Nat → Int) : Body := fun c s => Ex.run do
  let i ← lineIn c f [f.la, f.lb] readD true s
  let ty := f.ty.toNat
  return lineDone c f i (lanesGen (fun k =>
    intNarrow ty (f.fn.getLsbD 0)
      (op (readInt ty (elemOf ty i.a k)) (readInt ty (elemOf ty i.b k)) (readInt ty (elemOf ty i.d k))
        (elemOf ty i.b k % 32))))

def bodyIadd (f : FL) : Body := intBody f false (fun a b _ _ => a + b)
def bodyIsub (f : FL) : Body := intBody f false (fun a b _ _ => a - b)
def bodyImul (f : FL) : Body := intBody f false (fun a b _ _ => a * b)
def bodyImad (f : FL) : Body := intBody f true (fun a b d _ => a * b + d)
def bodyIshl (f : FL) : Body := intBody f false (fun a _ _ n => a * 2 ^ n)
/-- Rounds down: arithmetic for signed formats, logical for UINT8. -/
def bodyIshr (f : FL) : Body := intBody f false (fun a _ _ n => a / 2 ^ n)
def bodyImin (f : FL) : Body := intBody f false (fun a b _ _ => min a b)
def bodyImax (f : FL) : Body := intBody f false (fun a b _ _ => max a b)
def bodyIand (f : FL) : Body := pairBody f true false (fun a b _ => (a &&& b, 0))
def bodyIor (f : FL) : Body := pairBody f true false (fun a b _ => (a ||| b, 0))
def bodyIxor (f : FL) : Body := pairBody f true false (fun a b _ => (a ^^^ b, 0))

/-! ### Compares and predicates (R156 to R158) -/

/-- FCMP of two numbers: the bit and its flags (R156). -/
def floatCmp (fn : Nat) (a b : Num) : Bool × BitVec 6 :=
  let un := (firstNan [a, b]).isSome
  let lt := valLt false a.val b.val
  let gt := valLt false b.val a.val
  let fl : BitVec 6 := if 2 ≤ fn ∧ fn ≤ 5 then (if un then flagNV else 0) else sigFlags [a, b]
  let r := match fn with
    | 0 => !un && !lt && !gt
    | 1 => un || lt || gt
    | 2 => !un && lt
    | 3 => !un && !gt
    | 4 => !un && gt
    | 5 => !un && !lt
    | 6 => un
    | _ => !un
  (r, fl)

/-- ICMP of two integers (R156). -/
def intCmp (fn : Nat) (a b : Int) : Bool :=
  match fn with
  | 0 => a == b
  | 1 => a != b
  | 2 => decide (a < b)
  | 3 => decide (a ≤ b)
  | 4 => decide (b < a)
  | _ => decide (b ≤ a)

/-- The word whose bit i is `g i`. -/
def wordOfBits (g : Nat → Bool) : Word :=
  (List.range 64).foldl (fun w i => if g i then w ||| (1#64 <<< i) else w) 0

/-- A compare writes the enabled bits of a predicate (R141, R156). -/
def compareBody (f : FL) (op : Nat → Nat → Bool × BitVec 6) : Body := fun c s => Ex.run do
  let i ← lineIn c f [f.la, f.lb] false false s
  let ty := f.ty.toNat
  let t := coreTile s c
  let r := lanesGen (fun k => let (b, fl) := op (elemOf ty i.a k) (elemOf ty i.b k); ((if b then 1 else 0), fl))
  let bits := wordOfBits (fun k => (r.getD k (0, 0)).1 == 1)
  let s1 := modTile i.s t (fun x =>
    setPred x (f.ld.toNat % 8) ((bits &&& i.en) ||| (predReg x (f.ld.toNat % 8) &&& ~~~ i.en)))
  return flagsDone s1 c (lanesFlags r i.en)

def bodyFcmp (f : FL) : Body := compareBody f (fun a b =>
  floatCmp f.fn.toNat (readElem f.ty.toNat a) (readElem f.ty.toNat b))
def bodyIcmp (f : FL) : Body := compareBody f (fun a b =>
  (intCmp f.fn.toNat (readInt f.ty.toNat a) (readInt f.ty.toNat b), 0))

/-- The predicate value PSET writes for FN 0 to 8 (R157). -/
def psetValue (x : Tile) (st : Strand) (f : FL) : Word :=
  let a := predReg x (f.la.toNat % 8)
  let b := predReg x (f.lb.toNat % 8)
  match f.fn.toNat with
  | 0 => 0
  | 1 => BitVec.allOnes 64
  | 2 => a &&& b
  | 3 => a ||| b
  | 4 => a ^^^ b
  | 5 => a &&& ~~~ b
  | 6 => ~~~ a
  | 7 => BitVec.ofNat 64 (2 ^ f.la.toNat - 1)
  | _ => st.getG (BitVec.ofNat 6 (f.la.toNat % 32))

/-- PSET (R157). -/
def bodyPset (f : FL) : Body := fun c s =>
  let t := coreTile s c
  let x := getTile s t
  let d := f.ld.toNat % 8
  if f.fn = 9 then .retire (setGOf s c (BitVec.ofNat 6 (f.la.toNat % 32)) (predReg x d))
  else .retire (modTile s t (fun y => setPred y d (psetValue x (getStrand s c) f)))

/-- A word that copies slots: every lane or the enabled ones (R152, R158). -/
def slotBody (f : FL) (srcs : List (BitVec 12)) (g : LineIn → Nat → Slot) (all : Bool := false) : Body := fun c s => Ex.run do
  let i ← lineIn c f srcs false true s
  let en := if all then BitVec.allOnes 64 else i.en
  return .retire (putLine i.s (coreTile s c) f.ld (lineGen (g i)) en)

def bodyPsel (f : FL) : Body :=
  slotBody f [f.la, f.lb] (fun i k => if i.en.getLsbD k then lineGet i.a k else lineGet i.b k) true

/-! ### Moves (R152) -/

def bodyMovl (f : FL) : Body := slotBody f [f.la] (fun i k => lineGet i.a k)
def bodyBcast (f : FL) : Body := slotBody f [f.la] (fun i _ => lineGet i.a f.lb.toNat)
def bodyPerm (f : FL) : Body := slotBody f [f.la, f.lb] (fun i k => lineGet i.a ((lineGet i.b k).toNat % 64))

/-- The slot LIMML writes. -/
def limmlSlot (f : FL) : Slot :=
  let imm : BitVec 24 := f.la ++ f.lb
  match f.fn.toNat with
  | 0 => imm ++ (0 : BitVec 8)
  | 1 => imm.zeroExtend 32
  | _ => imm.signExtend 32

def bodyLimml (f : FL) : Body := slotBody f [] (fun _ _ => limmlSlot f)

/-- EXTR (R152). -/
def bodyExtr (f : FL) : Body := fun c s => Ex.run do
  let i ← lineIn c f [f.la] false false s
  let ty := f.ty.toNat
  let v := elemOf ty i.a f.lb.toNat
  let w := if 5 ≤ ty ∧ ty ≤ 7 then BitVec.ofInt 64 (readInt ty v) else BitVec.ofNat 64 v
  return .retire (setGOf i.s c (BitVec.ofNat 6 (f.ld.toNat % 32)) w)

/-- INS writes one element (R152). -/
def bodyIns (f : FL) : Body := fun c s => Ex.run do
  let i ← lineIn c f [f.la] false true s
  return .retire (putLine i.s (coreTile s c) f.ld i.a (1#64 <<< f.lb.toNat))

/-! ### Reductions and scans (R159, R66) -/

/-- One level of a pairwise tree. -/
def treeLevel {α : Type} (op : α → α → α) : List α → List α
  | a :: b :: rest => op a b :: treeLevel op rest
  | l => l

/-- The six-level pairwise tree over 64 values. -/
def treeOf {α : Type} (op : α → α → α) (d : α) (l : List α) : α :=
  ((List.range 6).foldl (fun v _ => treeLevel op v) l).getD 0 d

/-- One rounded sum of two codes, with the flags so far; each rounds one value (R58, R66). -/
def sumCode (ty rm : Nat) (x y : Nat × BitVec 6) : Nat × BitVec 6 :=
  let r := addNums rm (readElem ty x.1) (readElem ty y.1)
  let (v, fl) := roundRes ty rm (if rm = 5 then randOne ty r.res else 0) r
  (v, x.2 ||| y.2 ||| fl)

/-- A code of a floating-point format passed through a conversion to the same format. -/
def sameCode (ty : Nat) (v : Nat) : Nat × BitVec 6 := convTo ty 0 0 false (numRes (readElem ty v))

/-- Writes a reduction's value to element 0 only: other elements of an M destination stay, those of a push are 0. -/
def reduceDone (c : CoreId) (f : FL) (i : LineIn) (r : Nat × BitVec 6) : Res :=
  flagsDone (putLine i.s (coreTile i.s c) f.ld (lineGen (fun _ => BitVec.ofNat 32 r.1)) 1) c r.2

/-- REDSUM (R159). -/
def bodyRedsum (f : FL) : Body := fun c s => Ex.run do
  let i ← lineIn c f [f.la] false true s
  let ty := f.ty.toNat
  if ty = 5 then
    let sum := (lanesGen (fun k => if i.en.getLsbD k then readInt 5 (elemOf 5 i.a k) else 0)).sum
    return reduceDone c f i (intNarrow 5 (f.fn.getLsbD 0) sum)
  else
    let vs : Lanes := lanesGen (fun k => (if i.en.getLsbD k then elemOf ty i.a k else signBit ty, 0))
    return reduceDone c f i (treeOf (sumCode ty i.rm) (0, 0) vs)

/-- Identity of REDMAX or REDMIN (R159). -/
def extremeIdent (ty : Nat) (larger : Bool) : Nat :=
  if ty ≤ 2 then infCode ty larger
  else intCode (fmtBits ty) (if larger then (intRange ty).1 else (intRange ty).2)

/-- One node of REDMAX or REDMIN. -/
def extremeNode (ty : Nat) (larger : Bool) (x y : Nat × BitVec 6) : Nat × BitVec 6 :=
  if ty ≤ 2 then
    let (v, fl) := floatPick ty larger x.1 y.1
    (v, x.2 ||| y.2 ||| fl)
  else
    let a := readInt ty x.1
    let b := readInt ty y.1
    (intCode (fmtBits ty) (if larger then max a b else min a b), 0)

/-- REDMAX and REDMIN (R159). -/
def extremeBody (f : FL) (larger : Bool) : Body := fun c s => Ex.run do
  let i ← lineIn c f [f.la] false true s
  let ty := f.ty.toNat
  let vs : Lanes := lanesGen (fun k => (if i.en.getLsbD k then elemOf ty i.a k else extremeIdent ty larger, 0))
  return reduceDone c f i (treeOf (extremeNode ty larger) (0, 0) vs)

def bodyRedmax (f : FL) : Body := extremeBody f true
def bodyRedmin (f : FL) : Body := extremeBody f false

/-- Running sums of a floating-point scan, each rounded (R66), and under SR each as one value of its own (R58; log entry
50). -/
def scanFloat (ty rm : Nat) : Nat × BitVec 6 → List Nat → Lanes
  | _, [] => []
  | acc, v :: vs => let r := sumCode ty rm (acc.1, 0) (v, 0); r :: scanFloat ty rm r vs

/-- Exact running sums. -/
def scanInt : Int → List Int → List Int
  | _, [] => []
  | acc, v :: vs => (acc + v) :: scanInt (acc + v) vs

/-- SCANADD (R159, R66): the flags are those of every rounding of the scan, and SAT of the outputs written. -/
def bodyScanadd (f : FL) : Body := fun c s => Ex.run do
  let i ← lineIn c f [f.la] false true s
  let ty := f.ty.toNat
  let t := coreTile s c
  if ty = 5 then
    let ps := scanInt 0 (lanesGen (fun k => if i.en.getLsbD k then readInt 5 (elemOf 5 i.a k) else 0))
    return lineDone c f i (ps.map (intNarrow 5 (f.fn.getLsbD 0)))
  else
    let vs := lanesGen (fun k => if i.en.getLsbD k then elemOf ty i.a k else signBit ty)
    let first := sameCode ty (vs.getD 0 0)
    let r : Lanes := first :: scanFloat ty i.rm first (vs.drop 1)
    return flagsDone (putLine i.s t f.ld (lanesLine r) i.en) c (lanesFlags r (BitVec.allOnes 64))

/-! ### Bit-plane packing (R160) -/

/-- The half of plane p that slot n = 2p or 2p + 1 of a packed line holds. -/
def planeSlot (q : Nat → Int) (k n : Nat) : Slot :=
  if 2 * k ≤ n then 0
  else
    BitVec.ofNat 32 ((List.range 32).foldl (fun acc b =>
      if (BitVec.ofInt 32 (q (32 * (n % 2) + b))).getLsbD (k - 1 - n / 2) then acc + 2 ^ b else acc) 0)

/-- BPPACK (R160). -/
def bodyBppack (f : FL) : Body := fun c s => Ex.run do
  let i ← lineIn c f [f.la] false true s
  let k := f.fn.toNat
  let v := fun n => if i.en.getLsbD n then (lineGet i.a n).toInt else 0
  let q := fun n => clampInt (-(2 ^ (k - 1))) (2 ^ (k - 1) - 1) (v n)
  let fl : BitVec 6 := if (List.range 64).any (fun n => q n != v n) then flagSAT else 0
  return flagsDone (putLine i.s (coreTile s c) f.ld (lineGen (planeSlot q k)) (BitVec.allOnes 64)) c fl

/-- The j-plane value of element n of a packed line (R54). -/
def planeValue (l : Line) (j n : Nat) : Int :=
  let bits := (List.range j).foldl (fun acc p => 2 * acc + (if (lineGet l (2 * p + n / 32)).getLsbD (n % 32) then 1 else 0)) 0
  if bits < 2 ^ (j - 1) then bits else (bits : Int) - 2 ^ j

/-- BPUNP (R160). -/
def bodyBpunp (f : FL) : Body :=
  slotBody f [f.la] (fun i k => BitVec.ofInt 32 (planeValue i.a f.lb.toNat k))

/-! ### Online softmax (R161) -/

/-- The line INDEX + n of an M line operand, mod 64. -/
def lineOff (r : MRef) (n : Nat) : MRef := { r with idx := (r.idx + n) % 64 }

/-- OSMINIT (R161). -/
def bodyOsminit (f : FL) : Body := fun c s =>
  let t := coreTile s c
  let en := laneEnable (getTile s t) f
  let r := mRef f.ld
  .retire (modTile s t (fun x =>
    mergeM (mergeM x r (lineGen (fun _ => 0xFF800000)) en) (lineOff r 1) Line.zero en))

/-- e(v) of R161 for a maximum m′ that is not −∞, as an exact value. A difference past every format counts as one of
2,048 (log entry 7). -/
def osmPower (v m : FVal) : Exact :=
  match v, m with
  | .inf n, .inf _ => if n then ⟨false, 0, 0, false⟩ else ⟨false, 1, 0, false⟩
  | .inf _, _ => ⟨false, 0, 0, false⟩
  | _, .inf _ => ⟨false, 0, 0, false⟩
  | .fin a x e, .fin b y g =>
    let d := addExact 0 ⟨a, x, e, false⟩ ⟨!b, y, g, false⟩
    if d.mag = 0 then ⟨false, 1, 0, false⟩
    else if 11 ≤ (Nat.log2 d.mag : Int) + d.exp then ⟨false, 1, -2048, true⟩
    else exp2Exact d.neg d.mag d.exp
  | _, _ => ⟨false, 0, 0, false⟩

/-- The three results of OSMX in a lane before rounding: the code of m′, then l′ and c (R161). -/
def osmLane (rm : Nat) (mc lc xc : Nat) : Nat × FOut × FOut :=
  let m := readElem 0 mc
  let l := readElem 0 lc
  let x := readElem 0 xc
  match firstNan [x, m, l] with
  | some n => let o : FOut := ⟨.nan n, sigFlags [x, m, l]⟩; (nanTo 0 n, o, o)
  | none =>
    let big := if valLt true m.val x.val then xc else mc
    let mv := (readElem 0 big).val
    match mv with
    | .inf true => (big, valOut l.val, numOut false 1 0)
    | _ =>
      let em := osmPower m.val mv
      let ex := osmPower x.val mv
      let lo : FOut := match l.val with
        | .inf n => if em.mag = 0 ∧ !em.sticky then invalid else ⟨.inf n, 0⟩
        | .fin n g e => ⟨.num (addExact rm (mulExact ⟨n, g, e, false⟩ em) ex), 0⟩
        | .nan k => ⟨.nan k, 0⟩
      (big, lo, ⟨.num em, 0⟩)

/-- OSMX (R161). -/
def bodyOsmx (f : FL) : Body := fun c s => Ex.run do
  let t := coreTile s c
  let r := mRef f.ld
  let i ← lineIn c f [f.la] true true s
  if mPoisoned (getTile s t) (lineOff r 1) then trapEx s 40
  else
    let lold := readM (getTile s t) (lineOff r 1)
    let lane := fun k => osmLane i.rm (lineGet i.d k).toNat (lineGet lold k).toNat (lineGet i.a k).toNat
    let all := lanesGen (fun k => if i.en.getLsbD k then some (lane k) else none)
    let ms : Lanes := all.map (fun o => match o with | some (m, _, _) => (m, 0) | none => (0, 0))
    let ls := roundLanes 0 i.rm false (all.map (fun o => o.map (fun y => y.2.1)))
    let cs := roundLanes 0 i.rm false (all.map (fun o => o.map (fun y => y.2.2)))
    let s1 := modTile i.s t (fun y =>
      mergeM (mergeM (mergeM y r (lanesLine ms) i.en) (lineOff r 1) (lanesLine ls) i.en) (lineOff r 2) (lanesLine cs) i.en)
    return flagsDone s1 c (lanesFlags ls i.en ||| lanesFlags cs i.en)

/-! ### The meanings -/

/-- QRD (OP 0x50, R146). -/
def execQrd (f : FQ) (s : State) : Out := issueWord (.qrd f) (bodyQrd f) s

/-- QWR (OP 0x51, R146). -/
def execQwr (f : FQ) (s : State) : Out := issueWord (.qwr f) (bodyQwr f) s

/-- QCNT (OP 0x52, R148). -/
def execQcnt (f : FQ) (s : State) : Out := issueWord (.qcnt f) (bodyQcnt f) s

/-- MOVL (OP 0x53, R152). -/
def execMovl (f : FL) (s : State) : Out := issueWord (.movl f) (bodyMovl f) s

/-- BCAST (OP 0x54, R152). -/
def execBcast (f : FL) (s : State) : Out := issueWord (.bcast f) (bodyBcast f) s

/-- EXTR (OP 0x55, R152). -/
def execExtr (f : FL) (s : State) : Out := issueWord (.extr f) (bodyExtr f) s

/-- INS (OP 0x56, R152). -/
def execIns (f : FL) (s : State) : Out := issueWord (.ins f) (bodyIns f) s

/-- LIMML (OP 0x57, R152). -/
def execLimml (f : FL) (s : State) : Out := issueWord (.limml f) (bodyLimml f) s

/-- FADD (OP 0x60, R153). -/
def execFadd (f : FL) (s : State) : Out := issueWord (.fadd f) (bodyFadd f) s

/-- FSUB (OP 0x61, R153). -/
def execFsub (f : FL) (s : State) : Out := issueWord (.fsub f) (bodyFsub f) s

/-- FMUL (OP 0x62, R153). -/
def execFmul (f : FL) (s : State) : Out := issueWord (.fmul f) (bodyFmul f) s

/-- FMA (OP 0x63, R153). -/
def execFma (f : FL) (s : State) : Out := issueWord (.fma f) (bodyFma f) s

/-- FMAX (OP 0x64, R154). -/
def execFmax (f : FL) (s : State) : Out := issueWord (.fmax f) (bodyFmax f) s

/-- FMIN (OP 0x65, R154). -/
def execFmin (f : FL) (s : State) : Out := issueWord (.fmin f) (bodyFmin f) s

/-- FABS (OP 0x66, R154). -/
def execFabs (f : FL) (s : State) : Out := issueWord (.fabs f) (bodyFabs f) s

/-- FNEG (OP 0x67, R154). -/
def execFneg (f : FL) (s : State) : Out := issueWord (.fneg f) (bodyFneg f) s

/-- FEXP2 (OP 0x68, R153). -/
def execFexp2 (f : FL) (s : State) : Out := issueWord (.fexp2 f) (bodyFexp2 f) s

/-- FLOG2 (OP 0x69, R153). -/
def execFlog2 (f : FL) (s : State) : Out := issueWord (.flog2 f) (bodyFlog2 f) s

/-- FRCP (OP 0x6A, R153). -/
def execFrcp (f : FL) (s : State) : Out := issueWord (.frcp f) (bodyFrcp f) s

/-- FRSQ (OP 0x6B, R153). -/
def execFrsq (f : FL) (s : State) : Out := issueWord (.frsq f) (bodyFrsq f) s

/-- FCVT (OP 0x6C, R153). -/
def execFcvt (f : FL) (s : State) : Out := issueWord (.fcvt f) (bodyFcvt f) s

/-- FSCALE (OP 0x6D, R153). -/
def execFscale (f : FL) (s : State) : Out := issueWord (.fscale f) (bodyFscale f) s

/-- IADD (OP 0x70, R155). -/
def execIadd (f : FL) (s : State) : Out := issueWord (.iadd f) (bodyIadd f) s

/-- ISUB (OP 0x71, R155). -/
def execIsub (f : FL) (s : State) : Out := issueWord (.isub f) (bodyIsub f) s

/-- IMUL (OP 0x72, R155). -/
def execImul (f : FL) (s : State) : Out := issueWord (.imul f) (bodyImul f) s

/-- IMAD (OP 0x73, R155). -/
def execImad (f : FL) (s : State) : Out := issueWord (.imad f) (bodyImad f) s

/-- IAND (OP 0x74, R155). -/
def execIand (f : FL) (s : State) : Out := issueWord (.iand f) (bodyIand f) s

/-- IOR (OP 0x75, R155). -/
def execIor (f : FL) (s : State) : Out := issueWord (.ior f) (bodyIor f) s

/-- IXOR (OP 0x76, R155). -/
def execIxor (f : FL) (s : State) : Out := issueWord (.ixor f) (bodyIxor f) s

/-- ISHL (OP 0x77, R155). -/
def execIshl (f : FL) (s : State) : Out := issueWord (.ishl f) (bodyIshl f) s

/-- ISHR (OP 0x78, R155). -/
def execIshr (f : FL) (s : State) : Out := issueWord (.ishr f) (bodyIshr f) s

/-- IMIN (OP 0x79, R155). -/
def execImin (f : FL) (s : State) : Out := issueWord (.imin f) (bodyImin f) s

/-- IMAX (OP 0x7A, R155). -/
def execImax (f : FL) (s : State) : Out := issueWord (.imax f) (bodyImax f) s

/-- FCMP (OP 0x7B, R156). -/
def execFcmp (f : FL) (s : State) : Out := issueWord (.fcmp f) (bodyFcmp f) s

/-- ICMP (OP 0x7C, R156). -/
def execIcmp (f : FL) (s : State) : Out := issueWord (.icmp f) (bodyIcmp f) s

/-- PSET (OP 0x7D, R157). -/
def execPset (f : FL) (s : State) : Out := issueWord (.pset f) (bodyPset f) s

/-- PSEL (OP 0x7E, R158). -/
def execPsel (f : FL) (s : State) : Out := issueWord (.psel f) (bodyPsel f) s

/-- REDSUM (OP 0x80, R159). -/
def execRedsum (f : FL) (s : State) : Out := issueWord (.redsum f) (bodyRedsum f) s

/-- REDMAX (OP 0x81, R159). -/
def execRedmax (f : FL) (s : State) : Out := issueWord (.redmax f) (bodyRedmax f) s

/-- REDMIN (OP 0x82, R159). -/
def execRedmin (f : FL) (s : State) : Out := issueWord (.redmin f) (bodyRedmin f) s

/-- SCANADD (OP 0x83, R159). -/
def execScanadd (f : FL) (s : State) : Out := issueWord (.scanadd f) (bodyScanadd f) s

/-- PERM (OP 0x84, R152). -/
def execPerm (f : FL) (s : State) : Out := issueWord (.perm f) (bodyPerm f) s

/-- BPPACK (OP 0x85, R160). -/
def execBppack (f : FL) (s : State) : Out := issueWord (.bppack f) (bodyBppack f) s

/-- BPUNP (OP 0x86, R160). -/
def execBpunp (f : FL) (s : State) : Out := issueWord (.bpunp f) (bodyBpunp f) s

/-- OSMINIT (OP 0x87, R161). -/
def execOsminit (f : FL) (s : State) : Out := issueWord (.osminit f) (bodyOsminit f) s

/-- OSMX (OP 0x88, R161). -/
def execOsmx (f : FL) (s : State) : Out := issueWord (.osmx f) (bodyOsmx f) s

end Sys2Proof.Machine
end

