-- ==== Sys2Proof/Machine/Matrix.lean ====
section
/-! DEFINITION. The matrix engine and its accumulators: planes, bindings, slots, images, the progress record and the
words of group 0x9_ (R163 to R189). -/

namespace Sys2Proof.Machine

/-! ### Bindings and slots (R167 to R172) -/

/-- Key of ACCn on a tile. -/
def accKey (tile name : Nat) : Nat := 8 * tile + name % 8

/-- A binding of a context; none is UNBOUND. -/
def getAcc (s : State) (ctx tile name : Nat) : Option Acc :=
  (tabFind s.ctxs ctx).bind (fun x => tabFind x.accs (accKey tile name))

/-- Replaces a binding. -/
def setAcc (s : State) (ctx tile name : Nat) (a : Acc) : State :=
  modCtx s ctx (fun x => { x with accs := tabPut x.accs (accKey tile name) a })

/-- Changes a binding that exists. -/
def modAcc (s : State) (ctx tile name : Nat) (f : Acc → Acc) : State :=
  match getAcc s ctx tile name with
  | some a => setAcc s ctx tile name (f a)
  | none => s

/-- Every binding on a tile, with its context and name. -/
def accsOn (s : State) (tile : Nat) : List (Nat × Nat × Acc) :=
  s.ctxs.flatMap (fun cx => (cx.2.accs.filter (fun e => e.1 / 8 == tile)).map (fun e => (cx.1, e.1 % 8, e.2)))

/-- The physical slot a binding occupies. -/
def accSlot (a : Acc) : Option Nat :=
  match a.loc with
  | .live n | .spilling n | .filling n => some n
  | .spilled => none

/-- Slots of a tile in use, by bindings and by commands (R169, R226). -/
def usedSlots (s : State) (tile : Nat) : List Nat :=
  (accsOn s tile).filterMap (fun e => accSlot e.2.2) ++
    s.cmds.filterMap (fun e => e.2.anon.bind (fun p => if p.1 = tile then some p.2 else none))

/-- The lowest free slot of a tile. -/
def freeSlot (s : State) (tile : Nat) : Option Nat :=
  let used := usedSlots s tile
  [0, 1, 2, 3].find? (fun n => !used.contains n)

/-- Bytes of a spill image (R173). -/
abbrev imageBytes : Nat := 65600

/-- The binding is LIVE. -/
def isLive (a : Acc) : Bool := match a.loc with | .live _ => true | _ => false

/-- The least recently used among bindings. -/
def oldestAcc : List (Nat × Nat × Acc) → Option (Nat × Nat × Acc)
  | [] => none
  | p :: rest =>
    match oldestAcc rest with
    | none => some p
    | some q => if q.2.2.touch < p.2.2.touch then some q else some p

/-- Row r of an accumulator. -/
def accRow (a : Acc) (r : Nat) : AccRow := tabGet AccRow.zero a.rows r

/-- The header of a spill image (R173). -/
def accHeader (a : Acc) (ctx name : Nat) : List Byte :=
  let h0 := 2 ^ 32 + (if a.opened then 2 ^ 21 else 0) + (if a.pin then 2 ^ 20 else 0) + a.vrows % 256 * 2 ^ 12
    + name % 8 * 2 ^ 9 + ctx % 512
  let bp := a.load.tw = 9
  let h2 := (if bp then a.load.jp % 16 * 2 ^ 12 + a.load.planes % 16 * 2 ^ 8 else 0) + a.load.tw % 16 * 2 ^ 4
    + (if a.load.sp then 1 else 0)
  leBytes 8 h0 ++ leBytes 8 a.load.src.toNat ++ leBytes 8 h2 ++ List.replicate 40 0

/-- The bytes of a row in an image. -/
def rowBytes (row : AccRow) : List Byte := row.flatMap (fun v => leBytes 4 v.toNat)

/-- The image of a binding (R173). -/
def accImage (a : Acc) (ctx name : Nat) : List Byte :=
  accHeader a ctx name ++ (List.range 128).flatMap (fun r => rowBytes (accRow a r))

/-- The row that 512 bytes of an image hold. -/
def rowOfBytes (bs : List Byte) : AccRow :=
  let arr := bs.toArray
  (List.range 128).map (fun c => BitVec.ofNat 32 ((List.range 4).foldl (fun v i => v + (arr.getD (4 * c + i) 0).toNat * 2 ^ (8 * i)) 0))

/-- The content of a binding: that of its image when it is SPILLED. A row with a poisoned sector has bad parity (R320). -/
def accNow (s : State) (ctx : Nat) (a : Acc) : Acc :=
  if a.loc = .spilled then
    let row := fun r => rowOfBytes (sideGet s ctx ((a.side.drop (8 * r + 1)).take 8))
    { a with rows := (List.range 128).filterMap (fun r => let x := row r; if x = AccRow.zero then none else some (r, x)),
             bad := a.bad ++ ((sideBad s ctx a.side).filter (1 ≤ ·)).map (fun k => (k - 1) / 8) }
  else a

/-- A spill begins: sidings space is taken (R169). -/
def startSpill (s : State) (ctx tile name slot : Nat) : State :=
  let blocks := sideFree s ctx (granOf imageBytes)
  modCtx (modAcc s ctx tile name (fun a => { a with loc := .spilling slot, side := blocks })) ctx
    (fun x => { x with sidings := x.sidings + imageBytes })

/-- A spill ends: its image is in the sidings, the binding is SPILLED and its slot free (R173). -/
def endSpill (s : State) (ctx tile name : Nat) : State :=
  match getAcc s ctx tile name with
  | none => s
  | some a => sidePut (setAcc s ctx tile name { a with loc := .spilled }) ctx a.side (accImage a ctx name) []

/-- A refill ends: the binding is LIVE with the content of its image, and the image free. -/
def endRefill (s : State) (ctx tile name slot : Nat) : State :=
  modCtx (modAcc s ctx tile name (fun a =>
      let b := accNow s ctx { a with loc := .spilled }
      { b with loc := .live slot, side := [] })) ctx
    (fun x => { x with sidings := x.sidings - imageBytes })

/-- What looking for a slot finds. -/
inductive SlotLook where
  | free (n : Nat)
  /-- A victim's spill has begun or goes on. -/
  | spilling (s : State)
  /-- Only slots that unretired matrix words use. -/
  | busy
  /-- Every candidate's sidings are full: images that could not be spilled, and the first context. -/
  | full (n ctx : Nat)

/-- A slot for a word of a context on a tile, the name itself excepted (R169). `own` allows class 3. -/
def lookSlot (s : State) (ctx tile : Nat) (name : Option Nat) (own : Bool) : SlotLook :=
  match freeSlot s tile with
  | some n => .free n
  | none =>
    let all := accsOn s tile
    if all.any (fun e => match e.2.2.loc with | .spilling _ => true | _ => false) then .spilling s
    else
      let live := all.filter (fun e => isLive e.2.2)
      let c2 := live.filter (fun e => !runningOn s e.1 tile)
      let c3 := live.filter (fun e => own && e.1 == ctx && runningOn s e.1 tile && !e.2.2.pin && some e.2.1 != name)
      let fits := fun (e : Nat × Nat × Acc) => sidingRoom s e.1 imageBytes
      match (oldestAcc (c2.filter fits)).orElse (fun _ => oldestAcc (c3.filter fits)) with
      | some (cx, nm, a) => .spilling (startSpill s cx tile nm ((accSlot a).getD 0))
      | none =>
        match (oldestAcc c2).orElse (fun _ => oldestAcc c3) with
        | some (cx, _, _) => .full (c2.length + c3.length) cx
        | none => .busy

/-- The wait for a spill or a refill, which is no blocking wait (R167, R169). -/
def accWait {α : Type} (s : State) : Ex α := .error (.wait { what := .accRefill, kind := 11, name := 0, bounded := false } s)

/-- SIDINGFULL of a word left with no slot (R169): granules that could not be spilled, and the context. -/
def slotFull {α : Type} (s : State) (n ctx : Nat) : Ex α :=
  .error (.trap { cond := 13, d1 := BitVec.ofNat 64 (n * granOf imageBytes * 2 ^ 32 + ctx % 512) } s)

/-- A binding's entry goes to the accumulator directory of its context, in a block of the sidings whose layout is left open
(R168, log entry 16). -/
def dropEntry (s : State) (ctx tile name : Nat) : State :=
  let blocks := sideFree s ctx 1
  let s1 := modCtx (modAcc s ctx tile name (fun b => { b with entry := false, dir := blocks })) ctx
    (fun x => { x with sidings := x.sidings + 64 })
  sidePut { s1 with fresh := s1.fresh + 64 } ctx blocks ((List.range 64).map (fun i => Config.freeByte (s1.fresh + i))) []

/-- A binding has an entry of the table, from the directory if it was there. -/
def gainEntry (s : State) (ctx tile name : Nat) : State :=
  match getAcc s ctx tile name with
  | some a =>
    modCtx (setAcc s ctx tile name { a with entry := true, dir := [] }) ctx
      (fun x => { x with sidings := x.sidings - 64 * a.dir.length })
  | none => s

/-- Bytes of sidings that taking a binding's entry needs: those of a LIVE one's image, and of the directory's block. -/
def entryBytes (a : Acc) : Nat := (if isLive a then imageBytes else 0) + 64

/-- An entry of the ownership table for a binding that has none: a free one, or one of a context that is not running,
whose LIVE binding is spilled first (R168). Of several, that of the least recently used binding is taken; SIDINGFULL where
no context's sidings have room (log entry 79). -/
def readyEntry (s : State) (tile : Nat) : Ex State :=
  let held := (accsOn s tile).filter (fun e => e.2.2.entry)
  if held.length < 8 then .ok s
  else if held.any (fun e => match e.2.2.loc with | .spilling _ => true | _ => false) then accWait s
  else
    let cs := held.filter (fun e => !runningOn s e.1 tile)
    match oldestAcc (cs.filter (fun e => sidingRoom s e.1 (entryBytes e.2.2))) with
    | some (cx, nm, a) =>
      if isLive a then accWait (startSpill s cx tile nm ((accSlot a).getD 0))
      else .ok (dropEntry s cx tile nm)
    | none =>
      match oldestAcc cs with
      | some (cx, _, _) => slotFull s cs.length cx
      | none => accWait s

/-- A binding of the running context takes an entry; where one has to be spilled first, its end is the next occasion. -/
def claimEntry (tile : Nat) (s : State) (e : Nat × Nat × Acc) : State :=
  match readyEntry s tile with
  | .ok s1 => gainEntry s1 e.1 tile e.2.1
  | .error (.wait _ s1) => s1
  | .error _ => s

/-- Every LIVE or SPILLED binding of the context that runs on a tile holds an entry: those that were taken away return
(R168). -/
def claimEntries (s : State) (tile : Nat) : State :=
  match (getTile s tile).task with
  | some k => ((accsOn s tile).filter (fun e => e.1 == k.ctx && !e.2.2.entry)).foldl (claimEntry tile) s
  | none => s

/-- A binding is LIVE, or a slot and an entry are ready for it: what a word waits for or traps on before it touches its
accumulator (R167 to R169). -/
def readyAcc (s : State) (ctx tile name : Nat) : Ex State := do
  let a := getAcc s ctx tile name
  let s1 ← if a.any (·.entry) then Except.ok s else readyEntry s tile
  match a with
  | some b =>
    match b.loc with
    | .live _ => return s1
    | .spilling _ | .filling _ => accWait s1
    | .spilled =>
      match lookSlot s1 ctx tile (some name) true with
      | .free n => accWait (modAcc s1 ctx tile name (fun y => { y with loc := .filling n }))
      | .spilling s2 => accWait s2
      | .busy => accWait s1
      | .full n cx => slotFull s1 n cx
  | none =>
    match lookSlot s1 ctx tile (some name) true with
    | .free _ => return s1
    | .spilling s2 => accWait s2
    | .busy => accWait s1
    | .full n cx => slotFull s1 n cx

/-- A binding at +0.0 in every element (R167). -/
def Acc.fresh (slot : Nat) : Acc :=
  { loc := .live slot, pin := false, opened := false, vrows := 0, poison := false, load := LoadRec.zero, rows := [],
    bad := [], touch := 0, entry := true, side := [], dir := [] }

/-- Binds an UNBOUND name to the slot that is ready, and marks the touch. -/
def bindAcc (s : State) (ctx tile name : Nat) : State :=
  let s1 := gainEntry { s with touches := s.touches + 1 } ctx tile name
  let a := (getAcc s1 ctx tile name).getD (Acc.fresh ((freeSlot s1 tile).getD 0))
  setAcc s1 ctx tile name { a with touch := s1.touches }

/-- Releases a binding to UNBOUND: its slot or its sidings image is free (R171, R186). -/
def freeAcc (s : State) (ctx tile name : Nat) : State :=
  match getAcc s ctx tile name with
  | none => s
  | some a =>
    modCtx s ctx (fun x => { x with accs := tabDel x.accs (accKey tile name), sidings := x.sidings - 64 * (a.side ++ a.dir).length })

/-- Releases every unpinned binding of a context on a tile (R171). -/
def releaseUnpinned (s : State) (ctx tile : Nat) : State :=
  ((accsOn s tile).filter (fun e => e.1 == ctx && !e.2.2.pin)).foldl (fun s e => freeAcc s ctx tile e.2.1) s

/-- Pinned names of a context on a tile, one name aside (R170). -/
def pinCount (s : State) (ctx tile name : Nat) : Nat :=
  ((accsOn s tile).filter (fun e => e.1 == ctx && e.2.2.pin && e.2.1 != name % 8)).length

/-- Writes row r; the row's parity is right again. -/
def setAccRow (a : Acc) (r : Nat) (l : AccRow) : Acc :=
  { a with rows := tabSet AccRow.zero a.rows r l, bad := a.bad.filter (· != r) }

/-- An unpinned binding becomes OPEN (R171). -/
def Acc.openUp (a : Acc) : Acc := { a with opened := !a.pin }

/-- A read of a POISON binding, or of a row with a parity error, traps ECCUNC and leaves it POISON (R172). -/
def readableRows (s : State) (ctx tile name r0 n : Nat) : Ex Acc :=
  match getAcc s ctx tile name with
  | none => trapEx s 26
  | some a =>
    if a.poison then trapEx s 40
    else if a.bad.any (fun r => decide (r0 ≤ r) && decide (r < r0 + n)) then
      trapEx (setAcc s ctx tile name { a with poison := true }) 40
    else .ok a

/-- Rows of a binding that a binding word reads or adds into: those of an UNBOUND name are +0.0 (R167, R172). -/
def bindableRows (s : State) (ctx tile name r0 n : Nat) : Ex Acc :=
  if (getAcc s ctx tile name).isNone then .ok (Acc.fresh 0) else readableRows s ctx tile name r0 n

/-- An OTHER form of a core is in the middle of a binding of a context on a tile, of one name or of any (R189). -/
def otherHolds (s : State) (ctx tile : Nat) (name : Option Nat) (but : Option CoreId) : Bool :=
  let names := fun (st : Strand) (f : FX) =>
    ((st.getG f.rk).extractLsb' 0 17).toNat == tile * 512 + ctx && (name.isNone || name == some (f.an.toNat % 8))
  let holds := fun (st : Strand) =>
    match st.midWord with
    | some (.accspillOther f) | some (.accfillOther f) => names st f
    | _ => false
  s.tiles.any (fun e => but != some (.tile e.1 2) && holds (e.2.strand 2)) ||
    s.boxes.any (fun e => but != some (.sbox e.1) && holds e.2)

/-! ### The progress record (R174 to R176) -/

/-- Records that `n` rows or tokens of the word in progress are complete, and the flags they raised. -/
def progNext (s : State) (c : CoreId) (t n : Nat) (fl : BitVec 6) : State :=
  orFlags (modTile s t (fun x =>
    { x with mx := { x.mx with prog := { x.mx.prog with next := n, flags := x.mx.prog.flags ||| fl } } })) c fl

/-- Flags of the word in progress. -/
def progFlags (s : State) (t : Nat) : BitVec 6 := (getTile s t).mx.prog.flags

/-- The record with which a word begins: the old one when the word is in progress or resumes it, so that it begins at
NEXT, and else a new one (R176). -/
def beginProg (s : State) (c : CoreId) (t kind an : Nat) : Progress :=
  let p := (getTile s t).mx.prog
  let mine := p.kind == kind && p.an == an
  if mine && (p.state == .active || (p.state == .parked && p.sup == isSup s c)) then { p with state := .active }
  else { Progress.zero with state := .active, an := an, kind := kind }

/-- Conditions whose DETAIL1 is defined elsewhere (07_segments, trap details; R174). -/
def ownDetail (cond : Nat) : Bool := [7, 8, 9, 10, 12, 13, 14, 15].contains cond

/-- A MATTASK occupies the engine of a tile (R226). -/
def mattaskOn (s : State) (t : Nat) : Bool :=
  s.cmds.any (fun e => e.2.state != .queued && !e.2.held && e.2.engine == 0x800 + t)

/-- A plane of a resumed task waits for its reload (R176). -/
def reloading (s : State) (t : Nat) : Bool := (getTile s t).mx.active.pending || (getTile s t).mx.shadow.pending

/-- The waits of X's words of group 0x9_ for the engine: while the array is frozen, while its planes are reloaded, and
while a MATTASK runs (R176, R226, R322). -/
def mxGate (b : Body) : Body := fun c s =>
  match c with
  | .sbox _ => b c s
  | .tile t _ =>
    if (getTile s t).mx.frozen || reloading s t then .wait { what := .frozen, kind := 11, name := 0x010, bounded := false } s
    else if mattaskOn s t then .wait { what := .frozen, kind := 11, name := 0x010 } s
    else b c s

/-- A word of the matrix engine: the waits for the engine, its progress record, and source 4 (R174, R180, R226, R322).
KIND 7 keeps no record. -/
def mxWord (kind an : Nat) (b : Nat → Body) : Body := mxGate (fun c s =>
  match c with
  | .sbox _ => .trap { cond := 1 } s
  | .tile t _ =>
      let rec_ := kind ≠ 7
      let p := beginProg s c t kind an
      let m0 := if rec_ then p.next else 0
      let s1 := if rec_ then setProg s t p else s
      let idle := fun (s2 : State) => if rec_ then setProg s2 t Progress.zero else s2
      match b m0 c s1 with
      | .trap tr s2 =>
        let s3 := if rec_ then modTile s2 t (fun x => { x with mx := x.mx.park (isSup s2 c) }) else s2
        .trap { tr with engine := true,
                        d1 := if ownDetail tr.cond then tr.d1 else progressWord (getTile s3 t).mx.prog } s3
      | .retire s2 => .retire (idle s2)
      | .after tr s2 =>
        let s3 := idle s2
        .after { tr with engine := true, d1 := if ownDetail tr.cond then tr.d1 else progressWord (getTile s3 t).mx.prog } s3
      | r => r)

/-! ### Planes (R163 to R166, R181) -/

/-- A checked read of a plane's sources: the segment and offset of its weights, metadata and scales, with k and jp. -/
structure PlaneRefs where
  w : SegRef
  woff : Nat
  meta_ : Option (SegRef × Nat)
  scale : Option (SegRef × Nat)
  planes : Nat
  jp : Nat
  bytes : Nat

/-- Checks of an MLDW before its grant: weights, metadata and scale stream, their one home, the format, JPL (R132, R164,
R181). `r.jp` is JPL here. A BP range takes its planes, and its scale stream, from the attributes of the weight segment (log
entry 67). A reload takes k and jp from the record, and judges neither the format nor JPL again (R176). -/
def planeRefs (s : State) (ctx tile : Nat) (r : LoadRec) (again : Bool := false) : Ex PlaneRefs := do
  let off : Int := aOff r.src
  let w ← segName s ctx tile r.src off
  let k := if r.tw ≠ 9 then 0 else if again then r.planes else attrPlanes w.seg.attr
  let n := if r.tw = 9 then 2048 * k else 16384 * (fmtBits r.tw / 8)
  let o ← segRange s w r.src off n 64 false
  let m ← if r.sp then (do let (x, y) ← segCheck s ctx tile r.maddr (aOff r.maddr) 4096 64 false; return some (x, y))
    else Except.ok none
  let sc ← if r.tw = 9 ∧ (again ∨ attrFmt w.seg.attr = 9) then (do
      let (x, y) ← segCheck s ctx tile (mkA (attrScale w.seg.attr) 0) r.soff.toNat 512 64 false
      return some (x, y))
    else Except.ok none
  let refs := w :: ((m.map (·.1)).toList ++ (sc.map (·.1)).toList)
  if refs.any (fun x => x.tile != w.tile) then segTrap s 14 r.src off
  else if !again && attrFmt w.seg.attr ≠ r.tw then trapEx s 27
  else if !again && k < r.jp then trapEx s 4
  else
    return { w := w, woff := o, meta_ := m, scale := sc, planes := k, jp := if r.jp = 0 then k else r.jp, bytes := n }

/-- The segments of a plane's sources. -/
def PlaneRefs.segs (p : PlaneRefs) : List SegRef := p.w :: ((p.meta_.map (·.1)).toList ++ (p.scale.map (·.1)).toList)

/-- Byte i of a list. -/
def byteAt (l : Array Byte) (i : Nat) : Nat := (l.getD i 0).toNat

/-- The j-plane value of element e of a BP tensor of `n` elements in `k` planes (R53, R54). -/
def bpValue (b : Array Byte) (n j e : Nat) : Int :=
  let g := (n + 511) / 512
  let v := (List.range j).foldl (fun acc p =>
    2 * acc + byteAt b (64 * (p * g + e / 512) + e % 512 / 8) / 2 ^ (e % 8) % 2) 0
  if v < 2 ^ (j - 1) then v else (v : Int) - 2 ^ j

/-- An integer times a power of two, exact. -/
def scaledNum (q : Int) (e : Int) : Num := if q = 0 then Num.zero else ⟨.fin (decide (q < 0)) q.natAbs e, false⟩

/-- A zero weight is held in one form. -/
def normZero (x : Num) : Num :=
  match x.val with
  | .fin n 0 _ => ⟨.fin n 0 0, x.sig⟩
  | _ => x

/-- Weight of row j, column n of a stationary tile (R164). -/
def weightAt (tw k jp : Nat) (wb sb : Array Byte) (j n : Nat) : Num :=
  let e := 128 * j + n
  if tw = 9 then
    let sc := byteAt sb (4 * n + j / 32)
    if sc = 255 then ⟨.nan canonNan, false⟩ else scaledNum (bpValue wb 16384 jp e) ((k : Int) - jp + sc - 127)
  else if tw = 1 then normZero (readFloat 1 (byteAt wb (2 * e) + 256 * byteAt wb (2 * e + 1)))
  else normZero (readFloat tw (byteAt wb e))

/-- Nibble of the metadata for column n, group g: the two positions (R165). -/
def sparsePair (mb : Array Byte) (g n : Nat) : Nat × Nat :=
  let b := byteAt mb (64 * g + n / 2)
  let v := if n % 2 = 0 then b % 16 else b / 16
  (v % 4, v / 4)

/-- A plane from its source bytes; none when the metadata is invalid (R163 to R165). -/
def decodePlane (r : LoadRec) (p : PlaneRefs) (wb mb sb : Array Byte) : Option Plane :=
  let ok := !r.sp || (List.range 64).all (fun g => (List.range 128).all (fun n =>
    decide ((sparsePair mb g n).1 < (sparsePair mb g n).2)))
  if !ok then none
  else
    let zeroCol := List.replicate 128 Num.zero
    let cols := (List.range 128).filterMap (fun n =>
      let col := (List.range 128).map (fun j => weightAt r.tw p.planes p.jp wb sb j n)
      if col = zeroCol then none else some (n, col))
    let pos := if r.sp then
        (List.range 128).map (fun n =>
          (n, (List.range 128).map (fun j => let q := sparsePair mb (j / 2) n; if j % 2 = 0 then q.1 else q.2)))
      else []
    some { cols := cols, pos := pos, load := { r with planes := p.planes, jp := p.jp }, unloaded := none, pending := false }

/-- Reads and decodes a plane whose sources are granted. Every plane of a BP tensor is read, those below jp too (log entry
81). -/
def readPlane (s : State) (ctx : Nat) (r : LoadRec) (p : PlaneRefs) : Ex Plane := do
  let wb ← segRead s ctx p.w p.woff p.bytes
  let mb ← match p.meta_ with
    | some (x, o) => segRead s ctx x o 4096
    | none => Except.ok []
  let sb ← match p.scale with
    | some (x, o) => segRead s ctx x o 512
    | none => Except.ok []
  match decodePlane r p wb.toArray mb.toArray sb.toArray with
  | some pl => return pl
  | none => trapEx s 27

/-- The load record an MLDW asks for, with JPL in place of jp (R163, R180). -/
def mldwRecord (st : Strand) (f : FX) : LoadRec :=
  let sp := f.flags.getLsbD 0
  let m : Word := if sp then st.getA f.ar2.toNat else 0
  let g : Word := if f.tw = 9 then st.getG f.rk else 0
  LoadRec.mk (st.getA f.ar1.toNat) f.tw.toNat 0 (f.flags.extractLsb' 1 4).toNat sp m g

/-- MLDW (R181). -/
def bodyMldw (f : FX) : Body := mxWord 7 0 (fun _ c s => Ex.run do
  let st := getStrand s c
  let ctx := ctxNo s c
  let t := coreTile s c
  let r := mldwRecord st f
  let p ← planeRefs s ctx t r
  let s1 ← grantRefs s c 4 ctx p.segs true
  let pl ← readPlane s1 ctx r p
  return .retire (modTile s1 t (fun x => { x with mx := { x.mx with shadow := pl } })))

/-- MSWAP (R181). -/
def bodyMswap (_f : FX) : Body := mxWord 7 0 (fun _ c s =>
  .retire (modTile s (coreTile s c) (fun x => { x with mx := { x.mx with active := x.mx.shadow, shadow := x.mx.active } })))

/-- One of the two planes of an engine. -/
def Engine.plane (e : Engine) (shadow : Bool) : Plane := if shadow then e.shadow else e.active

/-- Replaces one of the two planes of a tile. -/
def setPlane (s : State) (tile : Nat) (shadow : Bool) (p : Plane) : State :=
  modTile s tile (fun x => { x with mx := if shadow then { x.mx with shadow := p } else { x.mx with active := p } })

/-- A reload that is impossible leaves its plane marked unloaded, with the condition (R176). -/
def unloadPlane (s : State) (tile : Nat) (shadow : Bool) (cond : Nat) (d0 d1 : Word) : State :=
  setPlane s tile shadow { (getTile s tile).mx.plane shadow with unloaded := some (cond, d0, d1), pending := false }

/-- One plane is reloaded from its record under client 4, at once when its segments are RESIDENT and else once its request,
in the tile's queue, is granted (R176). -/
def reloadPlane (granted : Bool) (ctx tile : Nat) (shadow : Bool) (s : State) : State :=
  let p := (getTile s tile).mx.plane shadow
  if p.load.tw = 0 then s
  else
    match planeRefs s ctx tile p.load true with
    | .ok q =>
      let items := footprint q.segs
      let party := Party.reload tile shadow
      if granted || grantAtOnce s ctx q.w.tile 4 party items then
        let s1 := touchAll s ctx q.segs
        match readPlane s1 ctx p.load q with
        | .ok y => setPlane s1 tile shadow y
        | .error (.trap t _) => unloadPlane s1 tile shadow t.cond t.d0 t.d1
        | .error _ => s1
      else if overFloor s q.w.tile 4 party items then
        let t := quotaTrap items 15 (floorOf s q.w.tile 4)
        unloadPlane s tile shadow t.cond t.d0 t.d1
      else
        setPlane (queueGrant s q.w.tile (newReq s (some party) tile ctx 4 q.w.tile items false)) tile shadow
          { p with pending := true }
    | .error (.trap t _) => unloadPlane s tile shadow t.cond t.d0 t.d1
    | .error _ => s

/-- Both planes are reloaded (R176, R226). -/
def reloadPlanes (s : State) (ctx tile : Nat) : State := reloadPlane false ctx tile true (reloadPlane false ctx tile false s)

/-! ### Streaming (R64, R65, R182) -/

/-- A code with the flags raised on the way to it. -/
abbrev CodeFl := Nat × BitVec 6

/-- RNE32(p + a × w), one fused rounding (R64). -/
def fmaStep (p : CodeFl) (a w : Num) : CodeFl :=
  let (v, fl) := rne32 (fmaNums 0 a w (readFloat 0 p.1))
  (v, p.2 ||| fl)

/-- RNE32(a + b), the accumulator's code and a partial sum; a NaN of the accumulator comes last (R60). -/
def addStep (a : Nat) (b : CodeFl) : CodeFl :=
  let (v, fl) := rne32 (addNums 0 (readFloat 0 b.1) (readFloat 0 a))
  (v, b.2 ||| fl)

/-- Code of −0.0 in FP32. -/
abbrev negZero : Nat := 0x80000000

/-- The weights of a column with their zeros in the skipped positions of a sparse plane (R65, R165). -/
def planeColumn (p : Plane) (n : Nat) : List Num :=
  let col := tabGet (List.replicate 128 Num.zero) p.cols n
  if p.load.sp then
    let ps := tabGet (List.replicate 128 0) p.pos n
    (List.range 256).map (fun k =>
      let j := 2 * (k / 4)
      if ps.getD j 0 = k % 4 then col.getD j Num.zero
      else if ps.getD (j + 1) 0 = k % 4 then col.getD (j + 1) Num.zero
      else Num.zero)
  else col

/-- The column sum of a row of activations, in increasing k from −0.0 (R64). -/
def columnSum (a w : List Num) : CodeFl := (a.zip w).foldl (fun p x => fmaStep p x.1 x.2) (negZero, 0)

/-- One activation row into one accumulator row: the new row and its flags (R64). -/
def streamRow (cols : List (List Num)) (a : List Num) (row : AccRow) : AccRow × BitVec 6 :=
  let out := (cols.zip row).map (fun x => addStep x.2.toNat (columnSum a x.1))
  (out.map (fun v => BitVec.ofNat 32 v.1), out.foldl (fun fl v => fl ||| v.2) 0)

/-- Activations that a row of the plane takes: two of a sparse plane's (R165). -/
def rowActs (p : Plane) : Nat := if p.load.sp then 2 else 1

/-- A row as it enters the array: no column has begun. -/
def Wave.enter (acts : List Num) : Wave := { acts := acts, sums := List.replicate 128 (0, negZero, 0), front := 0 }

/-- A column's sum goes on through the activations from `i` up to `j`. -/
def sumOn (a w : List Num) (i j : Nat) (x : CodeFl) : CodeFl :=
  (((a.zip w).take j).drop i).foldl (fun p y => fmaStep p y.1 y.2) x

/-- The wavefront has come to depth d: the sum of column n has gone through the rows up to d − n (R179). -/
def Wave.advance (p : Plane) (d : Nat) (w : Wave) : Wave :=
  { w with
    front := d
    sums := w.sums.zipIdx.map (fun y =>
      let j := max y.1.1 (min 128 (d + 1 - y.2))
      let (v, fl) := sumOn w.acts (planeColumn p y.2) (rowActs p * y.1.1) (rowActs p * j) y.1.2
      (j, v, fl)) }

/-- The row leaves the array into an accumulator row: every column goes on to its end, from −0.0 unless a scan has put other
data in its cells (R64, R179). -/
def waveRow (p : Plane) (w : Wave) (row : AccRow) : AccRow × BitVec 6 :=
  let out := (w.sums.zipIdx.zip row).map (fun x =>
    addStep x.2.toNat (sumOn w.acts (planeColumn p x.1.2) (rowActs p * x.1.1.1) (rowActs p * 128) x.1.1.2))
  (out.map (fun v => BitVec.ofNat 32 v.1), out.foldl (fun fl v => fl ||| v.2) 0)

/-- Gk of R180: n and row0; none on a breach. -/
def rowArg (w : Word) : Option (Nat × Nat) :=
  let n := (w.extractLsb' 0 8).toNat
  let r := (w.extractLsb' 8 8).toNat
  if w.extractLsb' 16 48 ≠ 0 ∨ 128 < n ∨ 127 < r ∨ 128 < r + n then none else some (n, r)

/-- Gt of R180. -/
def tokenArg (w : Word) : Option Nat :=
  let n := (w.extractLsb' 0 8).toNat
  if w.extractLsb' 8 56 ≠ 0 ∨ 128 < n then none else some n

/-- An operand of the matrix words in a segment: checks 1 to 5 of R132, then the format (R180). -/
def mxSeg (s : State) (c : CoreId) (a : Word) (n align fmt : Nat) (write : Bool) : Ex (SegRef × Nat) := do
  let (r, o) ← segCheck s (ctxNo s c) (coreTile s c) a (aOff a) n align write
  if attrFmt r.seg.attr ≠ fmt then trapEx s 27 else return (r, o)

/-- Two operands in segments: checks 1 to 5 of each, their one home, then the formats (R128, R132, R180). -/
def mxPair (s : State) (c : CoreId) (a : Word) (n align fmt : Nat) (b : Word) (m align2 fmt2 : Nat) (write : Bool) :
    Ex ((SegRef × Nat) × (SegRef × Nat)) := do
  let x ← segCheck s (ctxNo s c) (coreTile s c) a (aOff a) n align false
  let y ← segCheck s (ctxNo s c) (coreTile s c) b (aOff b) m align2 write
  if x.1.tile ≠ y.1.tile then segTrap s 14 b (aOff b)
  else if attrFmt x.1.seg.attr ≠ fmt ∨ attrFmt y.1.seg.attr ≠ fmt2 then trapEx s 27
  else return (x, y)

/-- Elements of a format from packed bytes. -/
def numsOfBytes (fmt : Nat) (bs : List Byte) : List Num :=
  let w := fmtBits fmt / 8
  let arr := bs.toArray
  (List.range (bs.length / w)).map (fun i =>
    readElem fmt ((List.range w).foldl (fun acc k => acc + byteAt arr (w * i + k) * 2 ^ (8 * k)) 0))

/-- Elements of a format from the slots of lines. -/
def numsOfLines (fmt : Nat) (ls : List QLine) : List Num :=
  ls.flatMap (fun l => lanesGen (fun i => readElem fmt (elemOf fmt l.data i)))

/-- Pops `n` lines of a queue; one with bad parity traps ECCUNC (R320). -/
def popMany (s0 : State) (t q : Nat) : Nat → State → Ex (List QLine × State)
  | 0, s => .ok ([], s)
  | n + 1, s => do
    let (h, s1) := popLine s t q
    if h.bad then trapEx s0 40
    else
      let (rest, s2) ← popMany s0 t q n s1
      return (h :: rest, s2)

/-- Queue named by FLAGS[3:1]. -/
def srcQueue (f : FX) : Nat := (f.flags.extractLsb' 1 3).toNat

/-- QSRC of FLAGS (R180). -/
def qsrc (f : FX) : Bool := f.flags.getLsbD 0

/-- A word that goes on row by row, or token by token, after one of them: it retires after the last (R174, R182). -/
def rowEnd (c : CoreId) (last : Bool) (s : State) : Res :=
  if last then flagsDone s c (progFlags s (coreTile s c)) true else .more s

/-- The row of activations in the array of a tile. -/
def setWave (s : State) (t : Nat) (w : Option Wave) : State := modTile s t (fun x => { x with mx := { x.mx with wave := w } })

/-- Row m of an MSTREAM enters the array: it is read or popped, and from here on it completes (R175, R182). The name is bound
once nothing can stop the row any more (R7). -/
def rowEnters (c : CoreId) (f : FX) (r : Option (SegRef × Nat)) (L row0 m : Nat) (s : State) : Ex State := do
  let t := coreTile s c
  let ctx := ctxNo s c
  let an := f.an.toNat
  let w := fmtBits f.ta.toNat / 8
  let _ ← bindableRows s ctx t an (row0 + m) 1
  let (act, s1) ← match r with
    | some (sr, o) => do
      let bs ← segRead s ctx sr (o + m * L * w) (L * w)
      pure (numsOfBytes f.ta.toNat bs, s)
    | none => do
      let _ ← awaitLines s t (List.replicate (L / 64) (srcQueue f)) none
      let (ls, s1) ← popMany s t (srcQueue f) (L / 64) s
      pure (numsOfLines f.ta.toNat ls, s1)
  return setWave (bindAcc s1 ctx t an) t (some (Wave.enter act))

/-- Row m of an MSTREAM leaves the array and is added into its accumulator row (R64, R182). The flags go to FPSTAT with each
row. -/
def rowLeaves (c : CoreId) (f : FX) (row0 m : Nat) (w : Wave) (s : State) : State :=
  let t := coreTile s c
  let ctx := ctxNo s c
  let an := f.an.toNat
  let act := (getTile s t).mx.active
  let a := (getAcc s ctx t an).getD (Acc.fresh 0)
  let (row, fl') := waveRow act w (accRow a (row0 + m))
  let s2 := setAcc (setWave s t none) ctx t an { setAccRow a (row0 + m) row with
    vrows := max a.vrows (row0 + m + 1), opened := !a.pin, load := act.load }
  progNext s2 c t (m + 1) fl'

/-- The grant of a word's segment operands, held until it retires; a word without any asks for none (R180). -/
def operandGrant (s : State) (c : CoreId) (segs : List SegRef) : Ex State :=
  if segs = [] then .ok s else holdGrant s c 4 (ctxNo s c) segs true

/-- MSTREAM up to the entry of its next row (R182). -/
def streamNext (f : FX) (m0 : Nat) : Body := fun c s => Ex.run do
  let st := getStrand s c
  let ctx := ctxNo s c
  let t := coreTile s c
  let act := (getTile s t).mx.active
  let ta := f.ta.toNat
  let L := if act.load.sp then 256 else 128
  if ta ≠ 1 ∧ act.load.tw = 1 then trapEx s 27
  else
    match rowArg (st.getG f.rk) with
    | none => trapEx s 26
    | some (n, row0) =>
      let r ← if qsrc f then Except.ok none else (do
        let x ← mxSeg s c (st.getA f.ar1.toNat) (n * L * (fmtBits ta / 8)) (fmtBits ta / 8) ta false
        return some x)
      match act.unloaded with
      | some (cond, d0, d1) => trapEx s cond d0 d1
      | none =>
        if n = 0 then
          let s1 ← operandGrant s c (r.map (·.1)).toList
          return .retire s1
        else
          let s1 ← readyAcc s ctx t f.an.toNat
          let s2 ← operandGrant s1 c (r.map (·.1)).toList
          let s3 ← rowEnters c f r L row0 m0 s2
          return .more s3

/-- MSTREAM, row by row: a row enters, and leaves in the strand's next turn (R182). -/
def bodyMstream (f : FX) : Body := mxWord 0 f.an.toNat (fun m0 c s =>
  match (getTile s (coreTile s c)).mx.wave with
  | some w =>
    let gk := (getStrand s c).getG f.rk
    rowEnd c (decide ((gk.extractLsb' 0 8).toNat ≤ m0 + 1)) (rowLeaves c f (gk.extractLsb' 8 8).toNat m0 w s)
  | none => streamNext f m0 c s)

/-! ### Rank-1 updates, zero, pins (R183, R184) -/

/-- ACC[i][j] + u_i × v_j for a row i, fused. -/
def rankRow (u : Num) (v : List Num) (row : AccRow) : AccRow × BitVec 6 :=
  let out := (v.zip row).map (fun x => fmaStep (x.2.toNat, 0) u x.1)
  (out.map (fun y => BitVec.ofNat 32 y.1), out.foldl (fun fl y => fl ||| y.2) 0)

/-- Applies `g` to every row of a binding, with the union of flags. -/
def mapRows (a : Acc) (g : Nat → AccRow → AccRow × BitVec 6) : Acc × BitVec 6 :=
  (List.range 128).foldl (fun p i =>
    let (row, fl) := g i (accRow p.1 i)
    (setAccRow p.1 i row, p.2 ||| fl)) (a, 0)

/-- MRANK1 (R183): every read comes before the first add. -/
def bodyMrank1 (f : FX) : Body := mxWord 7 f.an.toNat (fun _ c s => Ex.run do
  let st := getStrand s c
  let ctx := ctxNo s c
  let t := coreTile s c
  let an := f.an.toNat
  let ta := f.ta.toNat
  let tw := f.tw.toNat
  let segs ← if qsrc f then Except.ok none else (do
    let x ← mxPair s c (st.getA f.ar1.toNat) (128 * (fmtBits ta / 8)) (fmtBits ta / 8) ta
      (st.getA f.ar2.toNat) (128 * (fmtBits tw / 8)) (fmtBits tw / 8) tw false
    return some x)
  awaitLines s t (if qsrc f then List.replicate 4 (srcQueue f) else []) none
  let s1 ← readyAcc s ctx t an
  let (u, v, s2) ← match segs with
    | some (x, y) => do
      let s2 ← grantRefs s1 c 4 ctx [x.1, y.1] true
      let ub ← segRead s2 ctx x.1 x.2 (128 * (fmtBits ta / 8))
      let vb ← segRead s2 ctx y.1 y.2 (128 * (fmtBits tw / 8))
      pure (numsOfBytes ta ub, numsOfBytes tw vb, s2)
    | none => do
      let (ls, s2) ← popMany s1 t (srcQueue f) 4 s1
      pure (numsOfLines ta (ls.take 2), numsOfLines tw (ls.drop 2), s2)
  let _ ← bindableRows s ctx t an 0 128
  let s3 := bindAcc s2 ctx t an
  let (a, fl) := mapRows ((getAcc s3 ctx t an).getD (Acc.fresh 0)) (fun i row => rankRow (u.getD i Num.zero) v row)
  return flagsDone (setAcc s3 ctx t an ({ a with vrows := 128 } : Acc).openUp) c fl true)

/-- ACCZERO (R184). -/
def bodyAcczero (f : FX) : Body := mxWord 7 f.an.toNat (fun _ c s => Ex.run do
  let ctx := ctxNo s c
  let t := coreTile s c
  let s1 ← readyAcc s ctx t f.an.toNat
  return .retire (modAcc (bindAcc s1 ctx t f.an.toNat) ctx t f.an.toNat (fun a =>
    { a with rows := [], bad := [], vrows := 128, poison := false, opened := false })))

/-- ACCPIN (R170, R184). -/
def bodyAccpin (f : FX) : Body := mxWord 7 f.an.toNat (fun _ c s => Ex.run do
  let ctx := ctxNo s c
  let t := coreTile s c
  if 3 ≤ pinCount s ctx t f.an.toNat then trapEx s 25
  else
    let s1 ← readyAcc s ctx t f.an.toNat
    return .retire (modAcc (bindAcc s1 ctx t f.an.toNat) ctx t f.an.toNat (fun a => { a with pin := true, opened := false })))

/-- ACCUNPIN (R184). -/
def bodyAccunpin (f : FX) : Body := mxWord 7 f.an.toNat (fun _ c s =>
  .retire (modAcc s (ctxNo s c) (coreTile s c) f.an.toNat (fun a => { a with pin := false })))

/-! ### Rows to and from segments (R185) -/

/-- A row of FP32 codes rounded to a format, in runs of 64 (R58, R185). -/
def roundRow (fmt rm : Nat) (row : AccRow) : Lanes :=
  let rs := row.map (fun v => some (numRes (readFloat 0 v.toNat)))
  roundLanes fmt rm false (rs.take 64) ++ roundLanes fmt rm false (rs.drop 64)

/-- Packed bytes of codes of a format. -/
def bytesOfCodes (fmt : Nat) (l : Lanes) : List Byte := l.flatMap (fun v => leBytes (fmtBits fmt / 8) v.1)

/-- Row m of an ACCRD. -/
def readStep (c : CoreId) (f : FX) (r : SegRef) (o rm row0 m : Nat) (s : State) : Ex State := do
  let t := coreTile s c
  let ctx := ctxNo s c
  let tw := f.tw.toNat
  let a ← readableRows s ctx t f.an.toNat (row0 + m) 1
  let row := roundRow tw rm (accRow a (row0 + m))
  let fl' := row.foldl (fun x v => x ||| v.2) 0
  let s1 := segWrite s ctx r.name r.tile (o + 128 * m * (fmtBits tw / 8)) (bytesOfCodes tw row)
  return progNext s1 c t (m + 1) fl'

/-- ACCRD, row by row; the last closes the binding (R185). -/
def bodyAccrd (f : FX) : Body := mxWord 1 f.an.toNat (fun m0 c s => Ex.run do
  let st := getStrand s c
  let ctx := ctxNo s c
  let t := coreTile s c
  let an := f.an.toNat
  let w := fmtBits f.tw.toNat / 8
  let rm ← roundMode s c (f.flags.extractLsb' 0 3)
  match rowArg (st.getG f.rk) with
  | none => trapEx s 26
  | some (n, row0) =>
    if (getAcc s ctx t an).isNone then trapEx s 26
    else
      let (r, o) ← mxSeg s c (st.getA f.ar1.toNat) (n * 128 * w) w f.tw.toNat true
      if n = 0 then
        let s1 ← operandGrant s c [r]
        return .retire s1
      else
        let s1 ← readyAcc s ctx t an
        let s2 ← operandGrant s1 c [r]
        let s3 ← readStep c f r o rm row0 m0 (bindAcc s2 ctx t an)
        return if n ≤ m0 + 1 then rowEnd c true (modAcc s3 ctx t an (fun a => { a with opened := false })) else .more s3)

/-- Row m of an ACCWR. The name is bound once the row is read (R7). -/
def writeStep (c : CoreId) (f : FX) (r : SegRef) (o row0 m : Nat) (s : State) : Ex State := do
  let t := coreTile s c
  let ctx := ctxNo s c
  let ta := f.ta.toNat
  let w := fmtBits ta / 8
  let bs ← segRead s ctx r (o + 128 * m * w) (128 * w)
  let out := (numsOfBytes ta bs).map (fun x => convTo 0 0 0 false (numRes x))
  let fl' := out.foldl (fun x v => x ||| v.2) 0
  let s1 := modAcc (bindAcc s ctx t f.an.toNat) ctx t f.an.toNat (fun a =>
    { setAccRow a (row0 + m) (out.map (fun v => BitVec.ofNat 32 v.1)) with
      vrows := max a.vrows (row0 + m + 1), opened := !a.pin })
  return progNext s1 c t (m + 1) fl'

/-- ACCWR, row by row (R185). -/
def bodyAccwr (f : FX) : Body := mxWord 2 f.an.toNat (fun m0 c s => Ex.run do
  let st := getStrand s c
  let ctx := ctxNo s c
  let t := coreTile s c
  let an := f.an.toNat
  let w := fmtBits f.ta.toNat / 8
  match rowArg (st.getG f.rk) with
  | none => trapEx s 26
  | some (n, row0) =>
    let (r, o) ← mxSeg s c (st.getA f.ar1.toNat) (n * 128 * w) w f.ta.toNat false
    if n = 0 then
      let s1 ← operandGrant s c [r]
      return .retire s1
    else
      let s1 ← readyAcc s ctx t an
      let s2 ← operandGrant s1 c [r]
      let s3 ← writeStep c f r o row0 m0 s2
      return rowEnd c (decide (n ≤ m0 + 1)) s3)

/-! ### Spill images (R173, R186) -/

/-- What the header of an image holds, for a target context; a breach is the condition of the trap (R186). -/
def imageHead (ctx : Nat) (bs : List Byte) : Except Nat Acc :=
  let h0 := leNat (bs.take 8)
  let h1 := leNat ((bs.drop 8).take 8)
  let h2 := leNat ((bs.drop 16).take 8)
  let vrows := h0 / 2 ^ 12 % 256
  if h0 / 2 ^ 32 % 2 ^ 16 ≠ 1 ∨ h0 / 2 ^ 48 ≠ 0 ∨ h0 / 2 ^ 22 % 2 ^ 10 ≠ 0 ∨ h2 / 2 ^ 16 ≠ 0 ∨ h2 / 2 % 8 ≠ 0
      ∨ ((bs.drop 24).take 40).any (· != 0) ∨ 128 < vrows then .error 26
  else if h0 % 512 ≠ ctx then .error 25
  else
    let pin := h0 / 2 ^ 20 % 2 == 1
    .ok { loc := .spilled, pin := pin, opened := h0 / 2 ^ 21 % 2 == 1 && !pin, vrows := vrows, poison := false,
          load := { src := BitVec.ofNat 64 h1, tw := h2 / 16 % 16, planes := h2 / 256 % 16, jp := h2 / 4096 % 16,
                    sp := h2 % 2 == 1, maddr := 0, soff := 0 },
          rows := [], bad := [], touch := 0, entry := false, side := [], dir := [] }

/-- The rows of an image of 65,600 bytes. -/
def imageRows (bs : List Byte) : Tab AccRow :=
  (List.range 128).filterMap (fun r =>
    let x := rowOfBytes ((bs.drop (64 + 512 * r)).take 512)
    if x = AccRow.zero then none else some (r, x))

/-- Records that a word has written the header of an image, or read it. -/
def headDone (s : State) (t : Nat) (bs : List Byte) : State :=
  modTile s t (fun x => { x with mx := { x.mx with prog := { x.mx.prog with head := some bs } } })

/-- ACCSPILL of a binding of the running context: the header, then row by row; the last closes the binding or releases it
(R186). -/
def bodyAccspill (f : FX) : Body := mxWord 3 f.an.toNat (fun m0 c s => Ex.run do
  let st := getStrand s c
  let ctx := ctxNo s c
  let t := coreTile s c
  let an := f.an.toNat
  if (getAcc s ctx t an).isNone then trapEx s 26
  else
    let (r, o) ← mxSeg s c (st.getA f.ar1.toNat) imageBytes 64 0 true
    let s1 ← readyAcc s ctx t an
    let s2 ← operandGrant s1 c [r]
    if (getTile s t).mx.prog.head.isNone then
      let a ← readableRows s2 ctx t an 0 0
      return .more (headDone (segWrite (bindAcc s2 ctx t an) ctx r.name r.tile o (accHeader a ctx an)) t [])
    else
      let a ← readableRows s2 ctx t an m0 1
      let s3 := segWrite (bindAcc s2 ctx t an) ctx r.name r.tile (o + 64 + 512 * m0) (rowBytes (accRow a m0))
      let s4 := progNext s3 c t (m0 + 1) 0
      return if m0 + 1 < 128 then .more s4
        else .retire (if f.flags.getLsbD 0 then modAcc s4 ctx t an (fun b => { b with opened := false })
          else freeAcc s4 ctx t an))

/-- The content of an image's header put into a binding, its place, entry, touch and rows kept. -/
def Acc.fillFrom (old new : Acc) : Acc :=
  { new with loc := old.loc, touch := old.touch, entry := old.entry, side := old.side, dir := old.dir, rows := old.rows }

/-- ACCFILL of a binding of the running context: the header, whose checks come first, then row by row; with the last the
binding has the attributes of the image (R186). -/
def bodyAccfill (f : FX) : Body := mxWord 4 f.an.toNat (fun m0 c s => Ex.run do
  let st := getStrand s c
  let ctx := ctxNo s c
  let t := coreTile s c
  let an := f.an.toNat
  let (r, o) ← mxSeg s c (st.getA f.ar1.toNat) imageBytes 64 0 false
  let s1 ← readyAcc s ctx t an
  let s2 ← operandGrant s1 c [r]
  let bs ← match (getTile s t).mx.prog.head with
    | some bs => Except.ok bs
    | none => segRead s2 ctx r o 64
  match imageHead ctx bs with
  | .error cond => trapEx s2 cond
  | .ok a =>
    if a.pin ∧ 3 ≤ pinCount s2 ctx t an then trapEx s2 25
    else if (getTile s t).mx.prog.head.isNone then return .more (headDone s2 t bs)
    else
      let row ← segRead s2 ctx r (o + 64 + 512 * m0) 512
      let s3 := modAcc (bindAcc s2 ctx t an) ctx t an (fun b => setAccRow b m0 (rowOfBytes row))
      let s4 := progNext s3 c t (m0 + 1) 0
      return if m0 + 1 < 128 then .more s4 else .retire (modAcc s4 ctx t an (fun b => b.fillFrom a)))

/-- The target of an OTHER form: ACCSTATE, ACCOWNER (R186). -/
def otherTarget (s : State) (c : CoreId) (f : FX) : Ex (Nat × Nat) :=
  let g := (getStrand s c).getG f.rk
  let cx := (g.extractLsb' 0 9).toNat
  let t := (g.extractLsb' 9 8).toNat
  if g.extractLsb' 17 47 ≠ 0 ∨ t / 32 ≠ coreTile s c / 32 ∨ !tilePresent s t ∨ (tabFind s.ctxs cx).isNone then trapEx s 26
  else if runningOn s cx t then trapEx s 25
  else .ok (cx, t)

/-- A binding on its way to or from the sidings; an OTHER form waits until it is there. -/
def accMoves (a : Acc) : Bool := a.loc != .spilled && !isLive a

/-- The grant of an OTHER form, held from access to access. -/
def otherGrant (s : State) (c : CoreId) (r : SegRef) : Ex State := holdGrant s c 4 (ctxNo s c) [r] false

/-- One more access of a word that keeps no record. -/
def stepOn (s : State) (c : CoreId) : State := modStrand s c (fun st => { st with step := st.step + 1 })

/-- ACCSPILL.OTHER acts on the binding wherever it lies, and keeps no record: stopped, it is performed again from its start
(R186). From its first access to its last no other word reaches the binding (R189). A row with a parity error leaves the
binding POISON as R172 has it, where R186 leaves it as it was (log entry 80). -/
def bodyAccspillOther (f : FX) : Body := mxGate (fun c s => Ex.run do
  let (cx, t) ← otherTarget s c f
  let an := f.an.toNat
  let ctx := ctxNo s c
  match getAcc s cx t an with
  | none => trapEx s 26
  | some b =>
    let (r, o) ← mxSeg s c ((getStrand s c).getA f.ar1.toNat) imageBytes 64 0 true
    if accMoves b || otherHolds s cx t (some (an % 8)) (some c) then accWait s
    else
      let s1 ← otherGrant s c r
      let a := accNow s1 cx b
      let k := (getStrand s c).step
      if a.poison then trapEx s1 40
      else if k = 0 then return .more (stepOn (segWrite s1 ctx r.name r.tile o (accHeader a cx an)) c)
      else if a.bad.contains (k - 1) then trapEx (setAcc s1 cx t an { b with poison := true }) 40
      else
        let s2 := segWrite s1 ctx r.name r.tile (o + 64 + 512 * (k - 1)) (rowBytes (accRow a (k - 1)))
        return if k < 128 then .more (stepOn s2 c)
          else .retire (if f.flags.getLsbD 0 then modAcc s2 cx t an (fun y => { y with opened := false })
            else freeAcc s2 cx t an))

/-- Where an OTHER fill puts a binding that is UNBOUND: a free slot with a free entry, or else the sidings (R168, R169; log
entry 13). -/
def otherPlace (s : State) (cx t an : Nat) (a : Acc) : Option State :=
  let entries := ((accsOn s t).filter (fun e => e.2.2.entry)).length
  match if entries < 8 then freeSlot s t else none with
  | some n => some (setAcc s cx t an { a with loc := .live n, entry := true })
  | none =>
    if sidingRoom s cx imageBytes then
      let blocks := sideFree s cx (granOf imageBytes)
      let s1 := modCtx (setAcc s cx t an { a with side := blocks }) cx (fun x => { x with sidings := x.sidings + imageBytes })
      some (sidePut s1 cx blocks (accImage a cx an) [])
    else none

/-- An OTHER fill into a binding that there is: its rows, in the sidings too, and its attributes. -/
def otherFill (s : State) (cx t an : Nat) (old a : Acc) : State :=
  let b := { old.fillFrom a with rows := a.rows }
  let s1 := setAcc s cx t an b
  if old.loc = .spilled then sidePut s1 cx b.side (accImage b cx an) [] else s1

/-- ACCFILL.OTHER reads the header and the rows, one after another, and then acts whole (R186). -/
def bodyAccfillOther (f : FX) : Body := mxGate (fun c s => Ex.run do
  let (cx, t) ← otherTarget s c f
  let an := f.an.toNat
  let (r, o) ← mxSeg s c ((getStrand s c).getA f.ar1.toNat) imageBytes 64 0 false
  if (getAcc s cx t an).any accMoves || otherHolds s cx t (some (an % 8)) (some c) then accWait s
  else
    let s1 ← otherGrant s c r
    let k := (getStrand s c).step
    let got := ((getStrand s c).staged).getD []
    let new ← segRead s1 (ctxNo s c) r (o + got.length) (if k = 0 then 64 else 512)
    let bs := got ++ new
    match imageHead cx bs with
    | .error cond => trapEx s1 cond
    | .ok a =>
      if a.pin ∧ 3 ≤ pinCount s1 cx t an then trapEx s1 25
      else if k < 128 then return .more (modStrand (stepOn s1 c) c (fun st => { st with staged := some bs }))
      else
        let full := { a with rows := imageRows bs }
        match getAcc s1 cx t an with
        | some old => return .retire (otherFill s1 cx t an old full)
        | none =>
          match otherPlace s1 cx t an full with
          | none => slotFull s1 1 cx
          | some s2 => return .retire (claimEntries s2 t))

/-! ### The delta rule (R187, R188) -/

/-- RNE32 of a × b for two numbers. -/
def mulStep (a b : Num) : CodeFl := rne32 (mulNums a b)

/-- The number of a code. -/
def codeNum (v : Nat) : Num := readFloat 0 v

/-- b[i] of R187: β × RNE32(v − α × u), the inner step fused. -/
def deltaTerm (al be v : Num) (u : CodeFl) : CodeFl :=
  let x := codeNum u.1
  let (d, f1) := rne32 (fmaNums 0 al ⟨negVal x.val, x.sig⟩ v)
  let (b, f2) := mulStep be (codeNum d)
  (b, u.2 ||| f1 ||| f2)

/-- The dot product of a row with a key, in increasing j from −0.0. Of two NaNs that of S goes before that of k (log entry
76). -/
def dotRow (row : AccRow) (k : List Num) : CodeFl :=
  ((row.map (fun v => codeNum v.toNat)).zip k).foldl (fun p x => fmaStep p x.1 x.2) (negZero, 0)

/-- α × S + b × k with one rounding. The first NaN is taken in the order α, S, b, k, which R60 does not settle for four
operands (log entry 63). -/
def decayStep (al : Num) (s : Num) (b k : Num) : CodeFl :=
  match firstNan [al, s, b, k] with
  | some n => (nanTo 0 n, sigFlags [al, s, b, k])
  | none =>
    let x := mulVals al.val s.val
    let y := mulVals b.val k.val
    match x.res, y.res with
    | .nan n, _ => (nanTo 0 n, x.flags)
    | _, .nan n => (nanTo 0 n, y.flags)
    | p, q => rne32 (addVals 0 (resVal p) (resVal q))

/-- Row i of S after a token. -/
def deltaRow (al be : Num) (k : List Num) (v : Num) (row : AccRow) : AccRow × BitVec 6 :=
  let b := deltaTerm al be v (dotRow row k)
  let out := (row.zip k).map (fun x => decayStep al (codeNum x.1.toNat) (codeNum b.1) x.2)
  (out.map (fun y => BitVec.ofNat 32 y.1), out.foldl (fun fl y => fl ||| y.2) b.2)

/-- The emitted read of a state: 128 codes with their flags. -/
def emitRead (a : Acc) (q : List Num) : List CodeFl := (List.range 128).map (fun i => dotRow (accRow a i) q)

/-- QDST and its drain queue (R180). -/
def qdst (f : FX) : Option Nat := if f.flags.getLsbD 4 then some (f.flags.extractLsb' 5 2).toNat else none

/-- A token's record as numbers: popped before the grant, and held in the progress record, or read. -/
def tokenRecord (c : CoreId) (src : Option (SegRef × Nat)) (R t : Nat) (s : State) : Ex (List Num) :=
  match src with
  | some (r, o) => do
    let bs ← segRead s (ctxNo s c) r (o + 256 * R * t) (256 * R)
    return numsOfBytes 0 bs
  | none => return numsOfLines 0 (getTile s (coreTile s c)).mx.prog.held

/-- Lines popped for the token under way. -/
def setHeld (s : State) (t : Nat) (ls : List QLine) : State :=
  modTile s t (fun x => { x with mx := { x.mx with prog := { x.mx.prog with held := ls } } })

/-- The queue waits of a token and its pops, which come before its grant (R143, R180). -/
def tokenPops (c : CoreId) (f : FX) (emit : Bool) (src dst : Option (SegRef × Nat)) (R : Nat) (s : State) : Ex State :=
  let t := coreTile s c
  let push := if emit ∧ dst.isNone then (qdst f).map (·, 2) else none
  if src.isNone && (getTile s t).mx.prog.held.isEmpty then do
    awaitLines s t (List.replicate R (srcQueue f)) push
    let (ls, s1) ← popMany s t (srcQueue f) R s
    return setHeld s1 t ls
  else do
    awaitLines s t [] push
    return s

/-- Writes or pushes an emitted read. -/
def tokenOut (c : CoreId) (f : FX) (dst : Option (SegRef × Nat)) (t : Nat) (out : List CodeFl) (s : State) : State :=
  match dst, qdst f with
  | some (r, o), _ => segWrite s (ctxNo s c) r.name r.tile (o + 512 * t) (bytesOfCodes 0 out)
  | none, some d =>
    let line := fun (l : List CodeFl) => lanesLine l
    pushLine (pushLine s (coreTile s c) d (line (out.take 64))) (coreTile s c) d (line (out.drop 64))
  | none, none => s

/-- Token t of a GDELTA or a GDREAD, its grant given (R187, R188). An UNBOUND name is bound once the record is read (R7). -/
def tokenStep (c : CoreId) (f : FX) (upd emit : Bool) (src dst : Option (SegRef × Nat)) (R t : Nat) (s : State) : Ex State := do
  let tile := coreTile s c
  let ctx := ctxNo s c
  let an := f.an.toNat
  let _ ← bindableRows s ctx tile an 0 128
  let r ← tokenRecord c src R t s
  let s0 := bindAcc s ctx tile an
  let a := (getAcc s0 ctx tile an).getD (Acc.fresh 0)
  let k := r.take 128
  let q := if upd then (r.drop 256).take 128 else r.take 128
  let g := r.drop (64 * (R - 1))
  let (a1, f1) := if upd then
      mapRows a (fun i row => deltaRow (g.getD 0 Num.zero) (g.getD 1 Num.zero) k (r.getD (128 + i) Num.zero) row)
    else (a, 0)
  let out := if emit then emitRead a1 q else []
  let f2 := out.foldl (fun x y => x ||| y.2) f1
  let s1 := if upd then setAcc s0 ctx tile an ({ a1 with vrows := 128 } : Acc).openUp else s0
  let s2 := if emit then tokenOut c f dst t out s1 else s1
  return progNext (setHeld s2 tile []) c tile (t + 1) f2

/-- A word with a queue operand releases its pins at the end of each row or token (R180). -/
def rowPins (s : State) (c : CoreId) (queues : Bool) : State := if queues then modStrand s c (fun st => { st with pins := [] }) else s

/-- GDELTA and GDREAD. -/
def deltaBody (f : FX) (kind : Nat) (upd emit : Bool) (R : Nat) : Body := mxWord kind f.an.toNat (fun m0 c s => Ex.run do
  let st := getStrand s c
  let ctx := ctxNo s c
  let tile := coreTile s c
  let an := f.an.toNat
  match tokenArg (st.getG f.rk) with
  | none => trapEx s 26
  | some T =>
    if !upd ∧ (getAcc s ctx tile an).isNone then trapEx s 26
    else
      let a1 := st.getA f.ar1.toNat
      let a2 := st.getA f.ar2.toNat
      let toSeg := emit && (qdst f).isNone
      let (src, dst) ←
        if !qsrc f && toSeg then (do
          let x ← mxPair s c a1 (256 * R * T) 4 0 a2 (512 * T) 4 0 true
          return (some x.1, some x.2))
        else if !qsrc f then (do
          let x ← mxSeg s c a1 (256 * R * T) 4 0 false
          return (some x, none))
        else if toSeg then (do
          let x ← mxSeg s c a2 (512 * T) 4 0 true
          return (none, some x))
        else Except.ok (none, none)
      let segs := (src.map (·.1)).toList ++ (dst.map (·.1)).toList
      let queues := src.isNone || (emit && dst.isNone)
      if T = 0 then
        let s1 ← operandGrant s c (if queues then [] else segs)
        return .retire s1
      else
        let s1 ← readyAcc s ctx tile an
        let s2 ← tokenPops c f emit src dst R s1
        let s3 ← operandGrant s2 c segs
        let s4 ← tokenStep c f upd emit src dst R m0 s3
        return rowEnd c (decide (T ≤ m0 + 1)) (rowPins s4 c queues))

/-- GDELTA: seven record lines with EMIT, five without (R187). -/
def bodyGdelta (f : FX) : Body :=
  deltaBody f 5 true (f.flags.getLsbD 7) (if f.flags.getLsbD 7 then 7 else 5)

/-- GDREAD (R188). -/
def bodyGdread (f : FX) : Body := deltaBody f 6 false true 2

/-! ### The meanings -/

/-- MLDW (OP 0x90, R181). -/
def execMldw (f : FX) (s : State) : Out := issueWord (.mldw f) (bodyMldw f) s

/-- MSWAP (OP 0x91, R181). -/
def execMswap (f : FX) (s : State) : Out := issueWord (.mswap f) (bodyMswap f) s

/-- MSTREAM (OP 0x92, R182). -/
def execMstream (f : FX) (s : State) : Out := issueWord (.mstream f) (bodyMstream f) s

/-- MRANK1 (OP 0x93, R183). -/
def execMrank1 (f : FX) (s : State) : Out := issueWord (.mrank1 f) (bodyMrank1 f) s

/-- ACCZERO (OP 0x94, R184). -/
def execAcczero (f : FX) (s : State) : Out := issueWord (.acczero f) (bodyAcczero f) s

/-- ACCRD (OP 0x95, R185). -/
def execAccrd (f : FX) (s : State) : Out := issueWord (.accrd f) (bodyAccrd f) s

/-- ACCWR (OP 0x96, R185). -/
def execAccwr (f : FX) (s : State) : Out := issueWord (.accwr f) (bodyAccwr f) s

/-- ACCPIN (OP 0x97, R184). -/
def execAccpin (f : FX) (s : State) : Out := issueWord (.accpin f) (bodyAccpin f) s

/-- ACCUNPIN (OP 0x98, R184). -/
def execAccunpin (f : FX) (s : State) : Out := issueWord (.accunpin f) (bodyAccunpin f) s

/-- ACCSPILL (OP 0x99, R186). -/
def execAccspill (f : FX) (s : State) : Out := issueWord (.accspill f) (bodyAccspill f) s

/-- ACCSPILL_OTHER (OP 0x99, R186). -/
def execAccspillOther (f : FX) (s : State) : Out := issueWord (.accspillOther f) (bodyAccspillOther f) s

/-- ACCFILL (OP 0x9A, R186). -/
def execAccfill (f : FX) (s : State) : Out := issueWord (.accfill f) (bodyAccfill f) s

/-- ACCFILL_OTHER (OP 0x9A, R186). -/
def execAccfillOther (f : FX) (s : State) : Out := issueWord (.accfillOther f) (bodyAccfillOther f) s

/-- GDELTA (OP 0x9B, R187). -/
def execGdelta (f : FX) (s : State) : Out := issueWord (.gdelta f) (bodyGdelta f) s

/-- GDREAD (OP 0x9C, R188). -/
def execGdread (f : FX) (s : State) : Out := issueWord (.gdread f) (bodyGdread f) s

end Sys2Proof.Machine
end

