-- ==== Sys2Proof/Machine/Command.lean ====
section
/-! DEFINITION. The 128 bytes of a command: its header, operand descriptors and parameters, the rules it is judged
by, and the ranges of its footprint (R191 to R201, R205, R225, R227, R273, R274, R280 to R284, R331). -/

namespace Sys2Proof.Machine

/-! ### Fields (R194, R197) -/

/-- `n` bits from bit `lo` of the doubleword or word at byte `off`. -/
def rawField (r : BitVec 1024) (off lo n : Nat) : Nat := (r.extractLsb' (8 * off + lo) n).toNat

/-- KIND. -/
def cmdKind (r : BitVec 1024) : Nat := rawField r 0 0 8
/-- NONSTRICT. -/
def cmdNonstrict (r : BitVec 1024) : Bool := r.getLsbD 8
/-- CHAIN. -/
def cmdChain (r : BitVec 1024) : Bool := r.getLsbD 9
/-- RWAIT. -/
def cmdRwait (r : BitVec 1024) : Bool := r.getLsbD 10
/-- RPOST. -/
def cmdRpost (r : BitVec 1024) : Bool := r.getLsbD 11
/-- CLASS. -/
def cmdClass (r : BitVec 1024) : Nat := rawField r 0 16 4
/-- FPC. -/
def cmdFpc (r : BitVec 1024) : Nat := rawField r 0 24 2
/-- TIER. -/
def cmdTier (r : BitVec 1024) : Nat := rawField r 0 32 2
/-- WAIT. -/
def cmdWait (r : BitVec 1024) : Word := r.extractLsb' 64 64
/-- SIGNAL. -/
def cmdSignal (r : BitVec 1024) : Word := r.extractLsb' 128 64
/-- LINK, or the absorb specification and demand count. -/
def cmdLink (r : BitVec 1024) : Word := r.extractLsb' 192 64
/-- OUT of a near-slice command (R280). -/
def cmdOut (r : BitVec 1024) : Word := r.extractLsb' 960 64
/-- RM in byte 104. -/
def cmdRm (r : BitVec 1024) : Nat := rawField r 104 0 3
/-- RESCALE, or ACC of MATTASK. -/
def cmdBit3 (r : BitVec 1024) : Bool := r.getLsbD (8 * 104 + 3)
/-- DEMAND of a NONSTRICT command (R227). -/
def cmdDemand (r : BitVec 1024) : Nat := if cmdNonstrict r then rawField r 24 32 16 else 0
/-- AT_d of a NONSTRICT command. -/
def cmdAt (r : BitVec 1024) (d : Nat) : Nat := if cmdNonstrict r then rawField r 24 (6 + 9 * d) 3 else 0
/-- AF_d of a NONSTRICT command. -/
def cmdAf (r : BitVec 1024) (d : Nat) : Nat := rawField r 24 (9 * d) 6

/-- An operand descriptor (R197). -/
structure Opd where
  stride1 : Nat
  name : Nat
  devhi : Nat
  raw : Bool
  jp : Nat
  k : Nat
  fmt : Nat
  space : Nat
  base : Nat
  stride2 : Nat
  dim2 : Nat
  dim1 : Nat
  dim0 : Nat
  deriving DecidableEq, Repr

/-- Byte at which descriptor `d` begins. -/
def opdByte (d : Nat) : Nat := 32 + 24 * d

/-- Descriptor `d` of a command. -/
def opdAt (r : BitVec 1024) (d : Nat) : Opd :=
  let b := opdByte d
  { stride1 := rawField r b 48 16, name := rawField r b 32 16, devhi := rawField r b 24 3,
    raw := rawField r b 20 1 == 1, jp := rawField r b 16 4, k := rawField r b 12 4, fmt := rawField r b 8 4,
    space := rawField r b 0 2, base := rawField r (b + 8) 0 64, stride2 := rawField r (b + 16) 48 16,
    dim2 := rawField r (b + 16) 32 16, dim1 := rawField r (b + 16) 16 16, dim0 := rawField r (b + 16) 0 16 }

/-- Element width in bytes; 1 when RAW, 0 for BP. -/
def opdW (o : Opd) : Nat := if o.raw then 1 else (fmtWidth o.fmt).getD 0

/-- A BP operand. -/
def isBp (o : Opd) : Bool := o.fmt == 9 && !o.raw

/-- Elements of an operand. -/
def opdCount (o : Opd) : Nat := o.dim0 * o.dim1 * o.dim2

/-- The device that a SPACE 3 operand names (R329). -/
def opdDevice (o : Opd) : Nat := o.devhi * 2 ^ 16 + o.name

/-- Replaces `n` bits from bit `lo` of byte `off` on. -/
def setRaw (r : BitVec 1024) (off lo n v : Nat) : BitVec 1024 :=
  (r &&& ~~~ BitVec.ofNat 1024 ((2 ^ n - 1) * 2 ^ (8 * off + lo))) ||| BitVec.ofNat 1024 (v % 2 ^ n * 2 ^ (8 * off + lo))

/-- Descriptor `d` as SPACE 1 where its SPACE 3 names this device (R329). -/
def ownOpd (device : Nat) (r : BitVec 1024) (d : Nat) : BitVec 1024 :=
  let b := opdByte d
  if d < cmdFpc r ∧ (opdAt r d).space = 3 ∧ opdDevice (opdAt r d) = device then
    setRaw (setRaw (setRaw r b 0 2 1) b 32 16 0) b 24 3 0
  else r

/-- A command as it is judged and run: an operand that names the issuing device counts as SPACE 1 (R329). -/
def ownRaw (s : State) (r : BitVec 1024) : BitVec 1024 := (List.range 3).foldl (ownOpd s.device) r

/-- The descriptors in use. -/
def usedOpds (r : BitVec 1024) : List Opd := (List.range (cmdFpc r)).map (opdAt r)

/-- Number of the destination operand of a kind. -/
def destOf (kind : Nat) : Option Nat :=
  match kind with
  | 0x01 | 0x02 | 0x03 | 0x30 => some 1
  | 0x04 | 0x3F => some 0
  | 0x10 => some 2
  | _ => none

/-- Class of a kind (R195). -/
def kindClass (kind : Nat) : Option Nat :=
  match kind with
  | 0x01 | 0x02 | 0x03 | 0x04 | 0x30 | 0x3F => some 1
  | 0x10 => some 2
  | 0x20 | 0x21 | 0x22 => some 3
  | _ => none

/-- Class 3, which has an output record. -/
def isNear (r : BitVec 1024) : Bool := cmdKind r == 0x20 || cmdKind r == 0x21 || cmdKind r == 0x22

/-- Bytes of the output record of a near-slice command (R280). -/
def outBytes (r : BitVec 1024) : Nat :=
  match cmdKind r with
  | 0x20 => 16 + 8 * rawField r 116 0 32
  | 0x21 => 16 + 8 * rawField r 104 0 16
  | _ => 16 + 4 * (opdAt r 0).dim0

/-! ### AG registers (R273, R274) -/

/-- AG register of a context. -/
def agReg (s : State) (ctx n : Nat) : BitVec 512 := ((tabFind s.ctxs ctx).map (fun x => tabGet 0 x.ags (n % 16))).getD 0

/-- `n` bits from bit `lo` of doubleword `dw` of an AG register. -/
def agField (v : BitVec 512) (dw lo n : Nat) : Nat := (v.extractLsb' (64 * dw + lo) n).toNat

/-- PSTRIDE. -/
def agPs (v : BitVec 512) : Nat := agField v 2 32 32
/-- HSTRIDE. -/
def agHs (v : BitVec 512) : Nat := agField v 2 0 32
/-- SLOTS. -/
def agSlots (v : BitVec 512) : Nat := agField v 3 40 24
/-- MAXPOS. -/
def agMaxpos (v : BitVec 512) : Nat := agField v 3 16 24
/-- HEADS. -/
def agHeads (v : BitVec 512) : Nat := agField v 3 0 16
/-- BLKPOS. -/
def agBlkpos (v : BitVec 512) : Nat := agField v 5 16 24
/-- FMT. -/
def agFmt (v : BitVec 512) : Nat := agField v 5 8 4
/-- SCALED. -/
def agScaled (v : BitVec 512) : Bool := agField v 5 0 1 == 1

/-- First position of an arena operand. -/
def opdPos (o : Opd) : Nat := o.base % 2 ^ 24
/-- First head of an arena operand. -/
def opdHead (o : Opd) : Nat := o.base / 2 ^ 24 % 2 ^ 16
/-- Slot of an arena operand. -/
def opdSlot (o : Opd) : Nat := o.base / 2 ^ 40

/-- Address of element (a, b, c) of an operand: a segment offset or a virtual address (R197, R274). -/
def elemAddr (s : State) (ctx : Nat) (o : Opd) (a b c : Nat) : Nat :=
  if o.space = 2 then
    let v := agReg s ctx o.name
    agField v 0 0 52 + opdSlot o * agField v 1 0 64 + (opdPos o + b) * agPs v + (opdHead o + c) * agHs v + a * opdW o
  else o.base + a * opdW o + 64 * (b * o.stride1 + c * o.stride2)

/-- The AG register's limits are broken: COND ADDRRANGE (R274). -/
def agRangeBad (s : State) (ctx : Nat) (o : Opd) : Bool :=
  let v := agReg s ctx o.name
  o.space == 2 && (v == 0 || decide (agSlots v ≤ opdSlot o) || decide (agMaxpos v < opdPos o + o.dim1) ||
    decide (agHeads v < opdHead o + o.dim2) || decide (agPs v < o.dim0 * opdW o))

/-! ### Ranges of a footprint (R205) -/

/-- Planes of a BP operand: from the descriptor, or from the segment it lies in (R197). -/
def opdPlanes (s : State) (ctx : Nat) (o : Opd) : Nat :=
  if o.space = 0 then ((findSeg s ctx o.name).map (fun g => attrPlanes g.attr)).getD 0 else o.k

/-- Lowest and highest byte of an operand. -/
def opdSpan (s : State) (ctx : Nat) (o : Opd) : Nat × Nat :=
  let lo := elemAddr s ctx o 0 0 0
  if isBp o then (lo, lo + 64 * max 1 (opdPlanes s ctx o) * ((o.dim0 + 511) / 512) - 1)
  else (lo, elemAddr s ctx o (o.dim0 - 1) (o.dim1 - 1) (o.dim2 - 1) + opdW o - 1)

/-- The range of a descriptor. A device other than this one has its own addresses. -/
def opdRange (s : State) (ctx : Nat) (o : Opd) (write : Bool) : Range :=
  let (lo, hi) := opdSpan s ctx o
  { isVa := o.space != 0, name := if o.space = 0 then o.name else if o.space = 3 then opdDevice o + 1 else 0,
    lo := lo, hi := hi, write := write }

/-- The range of an output record (R280). -/
def outRange (r : BitVec 1024) : Range :=
  let w := cmdOut r
  let lo := if w.getLsbD 63 then w.toNat % 2 ^ 52 else w.toNat % 2 ^ 32
  { isVa := w.getLsbD 63, name := if w.getLsbD 63 then 0 else aName w, lo := lo, hi := lo + outBytes r - 1, write := true }

/-- Every range of a command. -/
def cmdRanges (s : State) (ctx : Nat) (r : BitVec 1024) : List Range :=
  (List.range (cmdFpc r)).map (fun d => opdRange s ctx (opdAt r d) (destOf (cmdKind r) == some d))
    ++ (if isNear r then [outRange r] else [])

/-- Two ranges meet in a 64-byte sector, with at least one write (R205). -/
def rangesMeet (a b : Range) : Bool :=
  a.isVa == b.isVa && a.name == b.name && decide (a.lo / 64 ≤ b.hi / 64) && decide (b.lo / 64 ≤ a.hi / 64) &&
    (a.write || b.write)

/-- Two footprints overlap. -/
def footprintsMeet (a b : List Range) : Bool := a.any (fun x => b.any (rangesMeet x))

/-! ### The rules a command is judged by (R198) -/

/-- A rule that is broken reports a byte. -/
def brk (off : Nat) (bad : Bool) : List Nat := if bad then [off] else []

/-- Must-be-0 fields and field rules of a used descriptor (R197, R198). -/
def opdBad (r : BitVec 1024) (d : Nat) : List Nat :=
  let b := opdByte d
  let o := opdAt r d
  brk b (rawField r b 2 6 != 0) ++ brk (b + 2) (rawField r b 21 3 != 0) ++ brk (b + 3) (rawField r b 27 5 != 0)
    ++ brk b ((o.space != 3 && o.devhi != 0) || (o.space == 1 && o.name != 0) || (o.space == 2 && o.name / 16 != 0))
    ++ brk (b + 8) (o.space == 0 && o.base / 2 ^ 32 != 0)
    ++ brk (b + 1) (decide (11 ≤ o.fmt) || (o.raw && (o.fmt != 0 || o.k != 0 || o.jp != 0)))
    ++ brk (b + 1) ((o.space == 0 && o.k != 0) || (isBp o && o.space != 0 && !(2 ≤ o.k && o.k ≤ 8)) ||
        (!(isBp o && o.space == 0) && decide (o.k < o.jp)) || (isBp o && !(o.dim1 == 1 && o.dim2 == 1)))
    ++ brk (b + 16) (o.dim0 == 0) ++ brk (b + 18) (o.dim1 == 0) ++ brk (b + 20) (o.dim2 == 0)
    ++ brk (b + 6) (o.space == 2 && o.stride1 != 0) ++ brk (b + 22) (o.space == 2 && o.stride2 != 0)

/-- Rows of a destination that could overlap (R198). -/
def rowsBad (r : BitVec 1024) (d : Nat) : List Nat :=
  let o := opdAt r d
  let row := o.dim0 * opdW o
  brk (opdByte d + 6) (o.space != 2 && !isBp o &&
    ((decide (1 < o.dim1) && decide (64 * o.stride1 < row)) ||
     (decide (1 < o.dim2) && decide (64 * o.stride2 < max row (64 * o.stride1 * o.dim1)))))

/-- A field of the parameter bytes that must be 0. -/
def zeroBytes (r : BitVec 1024) (off n : Nat) : List Nat := brk off (rawField r off 0 (8 * n) != 0)

/-- An integer format. -/
def isIntFmt (f : Nat) : Bool := 5 ≤ f && f ≤ 8

/-- The operand is in a SCALED arena (R277). -/
def isScaled (s : State) (ctx : Nat) (o : Opd) : Bool := o.space == 2 && agScaled (agReg s ctx o.name)

/-- Nothing is rounded by a copy command: it fills, or moves bytes, planes, or codes that no scale changes (R199, R200). -/
def roundsNothing (s : State) (ctx : Nat) (r : BitVec 1024) : Bool :=
  let a := opdAt r 0
  let b := opdAt r 1
  cmdKind r == 0x04 || a.raw || (isBp a && isBp b) ||
    (a.fmt == b.fmt && !isScaled s ctx a && !isScaled s ctx b)

/-- The absorbing test of operand `d` is accepted by the kind (R229). -/
def testAccepted (r : BitVec 1024) (d : Nat) : Bool :=
  match cmdKind r with
  | 0x01 | 0x02 | 0x03 => d == 0 && (cmdAt r d == 1 || !(opdAt r 0).raw)
  | 0x10 => decide (d < 2) && cmdAt r d == 1
  | _ => false

/-- Byte of AT_d. -/
def testByte (d : Nat) : Nat := if d = 2 then 27 else 24 + d

/-- Bits of a word in the form of LINK that must be 0 are not (R206). -/
def linkBits (w : Word) : Bool := if w.getLsbD 63 then w.extractLsb' 52 11 != 0 else w.extractLsb' 48 15 != 0

/-- Rules of a NONSTRICT command (R227), and LINK of a chain entry (R206). -/
def nonstrictBad (r : BitVec 1024) : List Nat :=
  if cmdNonstrict r then
    brk 30 (rawField r 24 48 16 != 0) ++ brk 27 (rawField r 24 27 5 != 0)
      ++ (List.range 3).flatMap (fun d =>
          brk (testByte d) (decide (4 < cmdAt r d) || (cmdAt r d != 0 && !testAccepted r d))
            ++ brk (24 + d) (cmdAf r d != 0 && cmdAt r d == 0)
            ++ brk 8 (cmdAt r d != 0 && !(cmdWait r).getLsbD (cmdAf r d)))
  else brk 1 (!cmdChain r && cmdLink r != 0) ++ brk 24 (cmdChain r && linkBits (cmdLink r))

/-- Parameters of COPY, MCAST, GATHER and FILL (R199); a rule of the table's row for a field is a rule on that field
(R198; DEDUCED, log entry 33). -/
def copyParamsBad (s : State) (ctx : Nat) (r : BitVec 1024) : List Nat :=
  let a := opdAt r 0
  let b := opdAt r 1
  let pj := rawField r 105 0 4
  let both := cmdKind r != 0x04 && isBp a && isBp b
  brk 104 (decide (5 < cmdRm r) || rawField r 104 4 4 != 0 || (cmdRm r != 0 && roundsNothing s ctx r))
    ++ brk 105 (rawField r 105 4 4 != 0)
    ++ brk 105 (pj != (if both then a.jp else 0))
    ++ zeroBytes r 106 2 ++ (if cmdKind r = 0x04 then [] else zeroBytes r 108 4)
    ++ brk 112 (!cmdRwait r && rawField r 112 0 8 != 0) ++ brk 116 (!cmdRwait r && rawField r 116 0 32 != 0)
    ++ brk 113 (!cmdRpost r && rawField r 113 0 8 != 0)
    ++ brk 120 (cmdRpost r != (rawField r 120 0 32 != 0))
    ++ zeroBytes r 114 2 ++ zeroBytes r 124 4

/-- Planes of a BP operand, where they are known: of its descriptor, or of the segment that the name is of now. -/
def planesKnown (s : State) (ctx : Nat) (o : Opd) : Option Nat :=
  if o.space = 0 then (findSeg s ctx o.name).bind (fun g => if attrFmt g.attr = 9 then some (attrPlanes g.attr) else none)
  else some o.k

/-- The planes that a BP-to-BP copy moves differ from those of its destination (R200): the source's first JP, or all. -/
def copyPlanesBad (s : State) (ctx : Nat) (r : BitVec 1024) : Bool :=
  let a := opdAt r 0
  let b := opdAt r 1
  isBp a && isBp b &&
    (match if a.jp = 0 then planesKnown s ctx a else some a.jp, planesKnown s ctx b with
     | some p, some q => q != p
     | _, _ => false)

/-- Kind-specific rules of the copy kinds (R200). -/
def copyBad (s : State) (ctx : Nat) (r : BitVec 1024) : List Nat :=
  let a := opdAt r 0
  let b := opdAt r 1
  let x := opdAt r 2
  copyParamsBad s ctx r ++
    (match cmdKind r with
     | 0x01 => brk 34 (a.raw != b.raw) ++ brk 48 (opdCount a != opdCount b)
        ++ brk 0 ((cmdFpc r == 3) != ((isBp a && a.space != 0) || (isBp b && b.space != 0)))
        ++ brk 82 (cmdFpc r == 3 && x.raw) ++ brk 81 (cmdFpc r == 3 && !x.raw && x.fmt != 10)
        ++ brk 57 (copyPlanesBad s ctx r)
     | 0x02 => brk 34 (a.raw != b.raw) ++ brk 48 (opdCount a != opdCount b) ++ brk 56 (b.space != 0)
        ++ brk 57 (copyPlanesBad s ctx r)
     | 0x03 => brk 34 (a.raw != b.raw) ++ brk 82 x.raw ++ brk 81 (!x.raw && x.fmt != 5)
        ++ brk 74 (b.dim1 != x.dim0) ++ brk 48 (a.dim0 != b.dim0) ++ brk 57 (copyPlanesBad s ctx r)
     | _ => brk 33 (isBp a))

/-- FENCEREC (R201). -/
def fencerecBad (r : BitVec 1024) : List Nat :=
  let o := opdAt r 0
  brk 32 (o.space != 1) ++ brk 34 (!o.raw) ++ brk 40 (o.base % 64 != 0) ++ brk 48 (o.dim0 != 64) ++ brk 50 (o.dim1 != 1)
    ++ brk 52 (o.dim2 != 1) ++ zeroBytes r 112 16

/-- A floating format of a MATTASK source (R225). -/
def mattaskFmt (f : Nat) : Bool := f == 1 || f == 3 || f == 4

/-- MATTASK (R225). -/
def mattaskBad (r : BitVec 1024) : List Nat :=
  let a := opdAt r 0
  let b := opdAt r 1
  let d := opdAt r 2
  brk 32 (decide (1 < a.space)) ++ brk 56 (decide (1 < b.space)) ++ brk 80 (decide (1 < d.space))
    ++ brk 33 (a.raw || !mattaskFmt a.fmt) ++ brk 57 (b.raw || !mattaskFmt b.fmt)
    ++ brk 33 ((a.fmt == 3 || a.fmt == 4) && b.fmt == 1)
    ++ brk 81 (d.raw || decide (4 < d.fmt) || (cmdBit3 r && d.fmt != 0))
    ++ brk 52 (a.dim2 != 1) ++ brk 76 (b.dim2 != 1) ++ brk 100 (d.dim2 != 1)
    ++ brk 48 (a.dim0 != b.dim1) ++ brk 50 (a.dim1 != d.dim1) ++ brk 72 (b.dim0 != d.dim0)
    ++ brk 104 (decide (5 < cmdRm r) || rawField r 104 4 4 != 0) ++ zeroBytes r 105 23

/-- OUT of a near-slice command: the form of LINK, not 0, and 16-byte aligned (R280, R206). -/
def outBad (r : BitVec 1024) : List Nat :=
  let w := cmdOut r
  brk 120 (w == 0 || w.toNat % 16 != 0 || linkBits w)

/-- SELECT (R281). -/
def selectBad (r : BitVec 1024) : List Nat :=
  let o := opdAt r 0
  let op := rawField r 104 0 8
  brk 32 (o.space == 3) ++ brk 33 (o.raw || decide (8 < o.fmt)) ++ brk 48 (decide (2 ^ 32 < opdCount o))
    ++ brk 33 ((op == 7 || op == 8) && !isIntFmt o.fmt) ++ brk 104 (decide (8 < op)) ++ zeroBytes r 105 3
    ++ brk 112 (op != 6 && rawField r 112 0 32 != 0) ++ brk 116 (decide (2 ^ 24 < rawField r 116 0 32)) ++ outBad r

/-- TOPK (R282). -/
def topkBad (r : BitVec 1024) : List Nat :=
  let o := opdAt r 0
  let x := opdAt r 1
  let mem := isBp o && o.space != 0
  let k := rawField r 104 0 16
  brk 32 (o.space == 3) ++ brk 33 (o.raw || decide (9 < o.fmt)) ++ brk 0 ((cmdFpc r == 2) != mem)
    ++ brk 57 (mem && (x.raw || x.fmt != 10)) ++ brk 56 (mem && x.space == 3) ++ brk 104 (k == 0 || decide (256 < k))
    ++ brk 106 (rawField r 106 1 7 != 0) ++ zeroBytes r 107 13 ++ outBad r

/-- ATTNPART (R284). -/
def attnBad (r : BitVec 1024) : List Nat :=
  let q := opdAt r 0
  let k := opdAt r 1
  let v := opdAt r 2
  brk 32 (decide (1 < q.space)) ++ brk 33 (q.raw || decide (2 < q.fmt)) ++ brk 48 (decide (256 < q.dim0))
    ++ brk 50 (q.dim1 != 1) ++ brk 52 (q.dim2 != 1) ++ brk 56 (k.space != 2) ++ brk 80 (v.space != 2)
    ++ brk 58 k.raw ++ brk 82 v.raw ++ brk 72 (k.dim0 != q.dim0) ++ brk 96 (v.dim0 != q.dim0) ++ brk 98 (k.dim1 != v.dim1)
    ++ brk 76 (k.dim2 != 1) ++ brk 100 (v.dim2 != 1)
    ++ brk 104 (decide (5 < cmdRm r) || rawField r 104 3 5 != 0) ++ zeroBytes r 105 3 ++ outBad r

/-- COLLECTIVE among `n` devices (R331). -/
def collectiveBad (n : Nat) (r : BitVec 1024) : List Nat :=
  let a := opdAt r 0
  let b := opdAt r 1
  let op := rawField r 104 0 8
  let sums := op == 0 || op == 1 || op == 2
  let root := rawField r 108 0 32
  brk 1 (cmdNonstrict r) ++ brk 32 (decide (1 < a.space)) ++ brk 56 (decide (1 < b.space)) ++ brk 34 (a.raw != b.raw)
    ++ brk 50 (a.dim1 != 1) ++ brk 52 (a.dim2 != 1) ++ brk 74 (b.dim1 != 1) ++ brk 76 (b.dim2 != 1)
    ++ brk 33 (if sums then a.raw || b.raw || decide (2 < a.fmt) || a.fmt != b.fmt else isBp a || isBp b)
    ++ brk 48 (if op = 2 then decide (n = 0) || decide (b.dim0 * n ≠ a.dim0) else if op = 3 then b.dim0 != a.dim0 * n
        else b.dim0 != a.dim0)
    ++ brk 104 (decide (4 < op)) ++ brk 105 (rawField r 105 3 5 != 0 || decide (5 < rawField r 105 0 3))
    ++ brk 105 (rawField r 105 0 3 != 0 && !(op == 0 || op == 2)) ++ zeroBytes r 106 2
    ++ brk 108 (if op = 4 then decide (n ≤ root) else root != 0) ++ zeroBytes r 120 8

/-- Rules of R195 and R198 that name the header. -/
def headerBad (serves : Nat → Bool) (chain box : Bool) (r : BitVec 1024) : List Nat :=
  let fpc := cmdFpc r
  let kind := cmdKind r
  let count := match kind with
    | 0x01 => fpc == 2 || fpc == 3
    | 0x02 | 0x30 => fpc == 2
    | 0x03 | 0x10 | 0x22 => fpc == 3
    | 0x04 | 0x20 | 0x3F => fpc == 1
    | 0x21 => fpc == 1 || fpc == 2
    | _ => true
  brk 0 (kindClass kind != some (cmdClass r) || !serves (cmdClass r) || !count)
    ++ brk 4 (rawField r 0 34 14 != 0) ++ brk 3 (rawField r 0 26 6 != 0) ++ brk 2 (rawField r 0 20 4 != 0)
    ++ brk 1 (rawField r 0 12 4 != 0)
    ++ brk 3 ((List.range 3).any (fun d => decide (fpc ≤ d) && (r.extractLsb' (8 * opdByte d) 192) != 0))
    ++ brk 1 ((cmdNonstrict r && cmdChain r) || cmdChain r != chain)
    ++ brk 1 (cmdClass r != 1 && (cmdRwait r || cmdRpost r))
    ++ brk 1 (box && cmdNonstrict r) ++ brk 8 (box && cmdWait r != 0) ++ brk 16 (box && cmdSignal r != 0)

/-- The kind's own rules. -/
def kindBad (s : State) (ctx n : Nat) (r : BitVec 1024) : List Nat :=
  match cmdKind r with
  | 0x01 | 0x02 | 0x03 | 0x04 => copyBad s ctx r
  | 0x10 => mattaskBad r
  | 0x20 => selectBad r
  | 0x21 => topkBad r
  | 0x22 => attnBad r
  | 0x30 => collectiveBad n r
  | 0x3F => fencerecBad r
  | _ => []

/-- FMT of an arena operand must be its register's (R274). -/
def agFmtBad (s : State) (ctx : Nat) (r : BitVec 1024) : List Nat :=
  (List.range (cmdFpc r)).flatMap (fun d =>
    let o := opdAt r d
    brk (opdByte d + 1) (o.space == 2 && agFmt (agReg s ctx o.name) != o.fmt))

/-- JP of a BP segment operand is above its segment's planes (R54, R198). -/
def jpBad (s : State) (ctx : Nat) (r : BitVec 1024) (d : Nat) : List Nat :=
  let o := opdAt r d
  brk (opdByte d + 1) (isBp o && o.space == 0 &&
    (findSeg s ctx o.name).any (fun g => attrFmt g.attr == 9 && decide (attrPlanes g.attr < o.jp)))

/-- Every byte that a failing rule reports. -/
def cmdBad (s : State) (ctx n : Nat) (serves : Nat → Bool) (chain box : Bool) (r : BitVec 1024) : List Nat :=
  headerBad serves chain box r ++ nonstrictBad r ++ (List.range (cmdFpc r)).flatMap (opdBad r)
    ++ (match destOf (cmdKind r) with | some d => rowsBad r d | none => []) ++ kindBad s ctx n r
    ++ (List.range (cmdFpc r)).flatMap (jpBad s ctx r) ++ agFmtBad s ctx r

/-- The lowest byte that a failing rule reports: DETAIL0 of CMDFORMAT (R198). -/
def cmdFailByte (s : State) (ctx n : Nat) (serves : Nat → Bool) (chain box : Bool) (r : BitVec 1024) : Option Nat :=
  (cmdBad s ctx n serves chain box r).min?

end Sys2Proof.Machine
end

