-- ==== Sys2Proof/Machine/CmdOps.lean ====
section
/-! DEFINITION. Commands in their queues: enqueue, the range checker, retirement with flags, settle summaries and ring
posts, absorbed firing, withdrawals, errors and chains (R191 to R193, R203 to R207, R227 to R231). -/

namespace Sys2Proof.Machine

/-! ### Queues (R191) -/

/-- The queue that QN names for a tile. -/
def queueOfQn (tile : Nat) (qn : BitVec 4) : EngQueue :=
  match qn.toNat with
  | 0 => .ce (2 * (tile / 4))
  | 1 => .ce (2 * (tile / 4) + 1)
  | 2 => .ns (tile / 4)
  | 3 => .mx tile
  | _ => .pool (tile / 4)

/-- QN of a queue. -/
def qnOfQueue : EngQueue → Nat
  | .ce n => n % 2
  | .ns _ => 2
  | .mx _ => 3
  | .pool _ => 8

/-- The class that a queue serves. -/
def queueServes (q : EngQueue) (cls : Nat) : Bool :=
  match q with
  | .ce _ => cls == 1
  | .ns _ => cls == 3
  | .mx _ => cls == 2
  | .pool _ => true

/-- Depth of a queue, and the entries of it that a tile may hold. -/
def queueDepth : EngQueue → Nat × Nat
  | .ce _ | .ns _ => (32, 16)
  | .mx _ => (8, 8)
  | .pool _ => (128, 64)

/-- Device engine number as a STALL record has it (R209). -/
def engineName : EngQueue → Nat
  | .ce n => n
  | .ns sl => 0x400 + sl
  | .mx t => 0x800 + t
  | .pool _ => 0xFFF

/-- Commands of a queue in order. -/
def queueCmds (s : State) (q : EngQueue) : List (Nat × Cmd) := s.cmds.filter (fun e => e.2.queue == q)

/-- The queue has room for one more command of a tile (R191). -/
def queueFits (s : State) (q : EngQueue) (tile : Nat) : Bool :=
  let l := queueCmds s q
  let (depth, per) := queueDepth q
  decide (l.length < depth) && decide ((l.filter (fun e => e.2.tile == tile)).length < per)

/-- Commands of a tile in flight, with the errors that its strands hold (R191, R315, log entry 60). -/
def inFlight (s : State) (tile : Nat) : Nat :=
  (s.cmds.filter (fun e => e.2.tile == tile)).length + ((getTile s tile).strands.toList.map (·.errors.length)).sum

/-- A tile may queue one more command (R191). -/
def queueRoom (s : State) (q : EngQueue) (tile : Nat) : Bool := queueFits s q tile && decide (inFlight s tile < 64)

/-- Number of devices of the launch domain of a command's launch (R332). -/
def domainSize (s : State) (launch : Option Nat) : Nat :=
  ((launch.bind (tabFind s.launches)).map (fun l => max 1 l.members.length)).getD 1

/-- The instance number that a COLLECTIVE takes among its launch's commands with its TAG (R332), and the launch after. -/
def takeInstance (s : State) (launch : Option Nat) (raw : BitVec 1024) : Nat × State :=
  match launch.bind (fun id => (tabFind s.launches id).map (fun l => (id, l))) with
  | none => (0, s)
  | some (id, l) =>
    if cmdKind raw ≠ 0x30 then (0, s)
    else
      let tag := rawField raw 112 0 64
      let n := ((l.colls.find? (fun e => e.1 == tag)).map (·.2)).getD 0
      (n, { s with launches := tabPut s.launches id { l with colls := (tag, n + 1) :: l.colls.filter (fun e => e.1 != tag) } })

/-- The engine number of a queue's own engine. -/
def ownEngine (q : EngQueue) : Nat := engineName q

/-- The engine that a command counts as before one takes it: that of its queue. Of a pool, whose commands may run on either
copy engine of the cluster, it is the lower one (log entry 59). -/
def firstEngine (q : EngQueue) (raw : BitVec 1024) : Nat :=
  match q with
  | .pool cl => if cmdClass raw = 3 then 0x400 + cl else if cmdClass raw = 2 then 0x800 + 4 * cl else 2 * cl
  | q => ownEngine q

/-- The launch of a core's task; a core program has none. -/
def coreLaunch (s : State) (c : CoreId) : Option Nat :=
  match c with
  | .tile t _ => (getTile s t).task.map (·.launch)
  | .sbox _ => none

/-- A command as a core issues it. -/
def newCmd (s : State) (c : CoreId) (q : EngQueue) (addr : Word) (raw : BitVec 1024) (chain : Option Chain) : Cmd :=
  let t := coreTile s c
  let k := match c with | .tile t _ => (getTile s t).task | .sbox _ => none
  let serial : Option Nat := match c with | .tile _ _ => k.map (·.serial) | .sbox g => (tabFind s.boxProgs g).map (·.serial)
  let hwq := ((tabFind s.ctxs (ctxNo s c)).map (fun x => x.block.queue.toNat)).getD 0
  { raw := raw, queue := q, tile := t, seq := coreSeq c, box := (match c with | .sbox _ => true | .tile _ _ => false),
    ctx := ctxNo s c, task := serial.getD 0, launch := coreLaunch s c, pos := (k.map (·.pos)).getD 0, hwq := hwq, addr := addr,
    state := .queued, engine := firstEngine q raw, progress := 0, flags := 0, sticky := 0, demand := cmdDemand raw, withdrawals := 0,
    withdrawn := false, absorbed := false, entered := 0, clock := s.cycle, begun := false, ranges := [], behind := [], pins := [], names := [],
    fits := 15, wrote := false, reads := [], ready := false, sub := 0, block := none, chain := chain, under := .queued, held := false, faulted := false, met := false, walk := none, ringSeen := false, inst := 0,
    fed := 0, sent := 0, acks := 0, inbox := [], flights := [], turn := 0, anon := none, test := 0, work := none }

/-- Changes a command. -/
def modCmd (s : State) (id : Nat) (f : Cmd → Cmd) : State :=
  match tabFind s.cmds id with
  | some c => { s with cmds := tabPut s.cmds id (f c) }
  | none => s

/-- The entry of a command that the range checker holds: a chain between entries has none. -/
def hasEntry (c : Cmd) : Bool := match c.chain with | some ch => ch.loaded | none => true

/-- A command enters the range checker of its tile, behind every command there whose footprint meets its own (R205). -/
def enterChecker (s : State) (id : Nat) (c : Cmd) : State :=
  let rs := cmdRanges s c.ctx c.raw
  let before := (s.cmds.filter (fun e => e.1 != id && e.2.tile == c.tile && hasEntry e.2 &&
    footprintsMeet rs e.2.ranges)).map (·.1)
  let names := (rs.filter (fun r => !r.isVa)).map (·.name)
  { s with nextCmd := s.nextCmd + 1,
           cmds := tabPut s.cmds id { c with entered := s.nextCmd, clock := s.cycle, ranges := rs, names := names, behind := before } }

/-! ### Errors (R203) -/

/-- STATUS (R196). -/
def statusOf (c : Cmd) (outcome cond : Nat) : BitVec 16 :=
  BitVec.ofNat 16 (cond % 256 * 256 + c.flags.toNat * 4 + outcome)

/-- Source number of a command's errors (R203). -/
def cmdErrSrc (c : Cmd) : Nat := if cmdClass c.raw = 3 ∧ hasEntry c then 6 else 5

/-- UNIT of a command's faults and errors (R243). -/
def cmdUnit (c : Cmd) : Nat := if c.engine < 128 then c.engine else if c.engine < 0x800 then c.engine - 0x400 else 0

/-- The task of a command runs on its tile now. -/
def cmdTaskRuns (s : State) (c : Cmd) : Bool := !c.box && (getTile s c.tile).task.any (fun k => k.serial == c.task)

/-- A core holds one more error. -/
def holdError (s : State) (c : CoreId) (e : EngineError) : State := modStrand s c (fun x => { x with errors := x.errors ++ [e] })

/-- A strand of a tile holds an error, or C does when that strand issues no more (R203). -/
def strandError (tile seq : Nat) (e : EngineError) (s : State) : State :=
  let st := getStrand s (.tile tile seq)
  holdError s (.tile tile (if st.run = .arrived ∨ st.run = .idle then 0 else seq)) e

/-- An engine error goes to the strand that issued or kicked the command, of a saved task too, or to C when that strand
issues no more (R203, R299, R315). -/
def deliverError (s : State) (c : Cmd) (e : EngineError) : State :=
  if c.box then
    if (tabFind s.boxProgs (c.tile / 32)).any (fun p => p.serial == c.task) then holdError s (.sbox (c.tile / 32)) e else s
  else if cmdTaskRuns s c then strandError c.tile c.seq e s
  else if (tabFind s.saves (256 * c.ctx + c.tile)).any (fun sv => sv.task.serial == c.task) then
    onSaved s c.ctx c.tile c.seq (strandError c.tile c.seq e)
  else s

/-- The error of a command with a status halfword. -/
def cmdError (c : Cmd) (cond : Nat) (status : BitVec 16) : EngineError :=
  { cond := cond, src := cmdErrSrc c, unit := cmdUnit c, d0 := BitVec.ofNat 64 (c.seq * 2 ^ 16 + status.toNat), d1 := c.addr }

/-- A command leaves the lists that hold others up. -/
def unblock (cmds : Tab Cmd) (id : Nat) : Tab Cmd :=
  cmds.map (fun e => (e.1, { e.2 with behind := e.2.behind.filter (· != id) }))

/-- A chain leaves its queue. -/
def dropChain (s : State) (id : Nat) : State := { s with cmds := unblock (tabDel s.cmds id) id }

/-- A chain ends in an error, at the address of an entry, that its kicking strand takes (R203, R207). -/
def failChain (s : State) (id : Nat) (c : Cmd) (cond : Nat) (addr : Word) : State :=
  deliverError (dropChain s id) c
    { cond := cond, src := 5, unit := cmdUnit c, d0 := BitVec.ofNat 64 (c.seq * 2 ^ 16 + cond * 256 + 2), d1 := addr }

/-! ### Flags and settle summaries (R204, R228) -/

/-- Event flags that a command's waits read; a core program has none. -/
def cmdFlags (s : State) (c : Cmd) : Word := if cmdTaskRuns s c then (getTile s c.tile).flags else 0

/-- Settle summary of a flag of a tile. -/
def settleOf (x : Tile) (f : Nat) : Nat := tabGet 0 x.settle f

/-- Numbers of the flags of a mask. -/
def flagNos (mask : Word) : List Nat := (List.range 64).filter (fun f => mask.getLsbD f)

/-- Flags of a tile are set with a summary; what they were before the clock is kept for a clear in it (R193). -/
def Tile.setFlags (x : Tile) (mask : Word) (summary : Nat) : Tile :=
  { x with
    flags := x.flags ||| mask
    settle := (flagNos mask).foldl (fun t f => tabSet 0 t f summary) x.settle
    setNow := x.setNow ||| mask
    wasSet := x.wasSet ||| (x.flags &&& mask &&& ~~~ x.setNow)
    wasSettle := (flagNos (mask &&& ~~~ x.setNow)).foldl (fun t f => tabSet 0 t f (settleOf x f)) x.wasSettle }

/-- Flags as a word that clears some of them observes those: as they were before any set of the clock (R193). -/
def Tile.clearView (x : Tile) : Word := (x.flags &&& ~~~ x.setNow) ||| (x.wasSet &&& x.setNow)

/-- Flags of a mask are cleared, ahead of every set of the clock, which stand (R193). -/
def Tile.clearFlags (x : Tile) (mask : Word) : Tile :=
  { x with flags := x.flags &&& ~~~ (mask &&& ~~~ x.setNow), wasSet := x.wasSet &&& ~~~ mask }

/-- Sets flags with a summary, and wakes the strands of the task (R193, R318). -/
def setFlags (s : State) (tile : Nat) (mask : Word) (summary : Nat) : State :=
  if mask = 0 then s else wakeTile (modTile s tile (fun x => x.setFlags mask summary)) tile 1

/-- Code of the summary of what a command wrote (R228). -/
def summaryOf (c : Cmd) : Nat :=
  if !c.wrote then 0
  else if c.fits.getLsbD 0 then 1
  else if c.fits.getLsbD 1 then 2
  else if c.fits.getLsbD 2 then 3
  else if c.fits.getLsbD 3 then 4
  else 0

/-- A ring wait and a ring post belong to the copy kinds (R199). -/
def ringKind (r : BitVec 1024) : Bool := 1 ≤ cmdKind r && cmdKind r ≤ 4

/-- RINGS of a context (R295). -/
def ringsOf (x : Context) : Nat := x.block.rings.toNat + 1

/-- A counter has reached a target, by their distance mod 2^32 (R199, R261). -/
def ringReached (v target : Nat) : Bool := decide ((v + 2 ^ 32 - target % 2 ^ 32) % 2 ^ 32 < 2 ^ 31)

/-- The target of the RINGWAIT, under REP or not, that a core waits in on a counter: its take is done. -/
def ringTarget (st : Strand) (r : Nat) : Option Nat :=
  match st.run, st.wait with
  | .waiting, some w =>
    match w.what, waitWord st w with
    | .ringSlot, .ringwait f =>
      if (f.aux.extractLsb' 0 8).toNat = r then some ((st.getG f.rc).extractLsb' 0 32).toNat else none
    | _, _ => none
  | _, _ => none

/-- A core that waits for a value that a counter has reached goes on. -/
def releaseCore (r v : Nat) (s : State) (c : CoreId) : State :=
  if (ringTarget (getStrand s c) r).any (ringReached v) then completeWait s c else s

/-- Strands of saved tasks of a context that wait for a value that a counter has reached, by tile and sequencer. -/
def savedRings (s : State) (ctx r v : Nat) : List (Nat × Nat) :=
  s.saves.flatMap (fun e =>
    if e.1 / 256 = ctx then
      ((List.range 4).filter (fun q => (ringTarget (e.2.tile.strand q).unpreempt r).any (ringReached v))).map
        (fun q => (e.1 % 256, q))
    else [])

/-- A command that has not begun, and waits for a value that a counter of its context has reached (R199). -/
def ringCmd (ctx r v : Nat) (c : Cmd) : Bool :=
  c.ctx == ctx && hasEntry c && !c.begun && cmdRwait c.raw && ringKind c.raw && rawField c.raw 112 0 8 == r &&
    ringReached v (rawField c.raw 116 0 32)

/-- Cores of a context. -/
def ctxCores (s : State) (ctx : Nat) : List CoreId :=
  (tilesOfCtx s ctx).flatMap (fun t => (List.range 4).map (CoreId.tile t)) ++ (boxesOfCtx s ctx).map CoreId.sbox

/-- A post releases every core and every command that waits for the value it has reached, in the same clock (R261). -/
def releaseRing (s : State) (ctx r v : Nat) : State :=
  let s1 := (ctxCores s ctx).foldl (releaseCore r v) s
  let s2 := (savedRings s1 ctx r v).foldl (fun s p => onSaved s ctx p.1 p.2 (fun u => releaseCore r v u (.tile p.1 p.2))) s1
  { s2 with cmds := s2.cmds.map (fun e => if ringCmd ctx r v e.2 then (e.1, { e.2 with ringSeen := true }) else e) }

/-- Adds to a ring-slot counter of a context (R260, R261). -/
def ringPost (s : State) (ctx r n : Nat) : State :=
  match tabFind s.ctxs ctx with
  | none => s
  | some x =>
    if r < ringsOf x then
      let v := (tabGet 0 x.ringCtr r + n) % 2 ^ 32
      releaseRing (modCtx s ctx (fun y => { y with ringCtr := tabSet 0 y.ringCtr r v })) ctx r v
    else s

/-- The ring post of a command. -/
def cmdRingPost (s : State) (c : Cmd) : State :=
  if cmdRpost c.raw && ringKind c.raw then ringPost s c.ctx (rawField c.raw 113 0 8) (rawField c.raw 120 0 32) else s

/-! ### Retirement (R193, R203, R206, R231) -/

/-- A command's place after it retires: gone, or a chain that has its STATUS to write. -/
def afterRetire (c : Cmd) (status : BitVec 16) : Option Cmd :=
  c.chain.map (fun ch =>
    { c with chain := some { ch with loaded := false, count := ch.count + 1, status := some status },
             state := .queued, ranges := [], names := [], behind := [], pins := [], progress := 0, flags := 0,
             sticky := 0, fits := 15, wrote := false, reads := [], ready := false, sub := 0, faulted := false, begun := false,
             ringSeen := false, walk := none, fed := 0, sent := 0, acks := 0, inbox := [], flights := [], turn := 0,
             work := none })

/-- The planes of the tile that a MATTASK ran on are reloaded for the task that runs there (R226, R176). -/
def matrixFree (s : State) (c : Cmd) : State :=
  let t := c.engine - 0x800
  match (getTile s t).task with
  | some k => if cmdKind c.raw = 0x10 ∧ c.state ≠ .queued ∧ !c.absorbed then reloadPlanes s k.ctx t else s
  | none => s

/-- A command's effects at retirement but for what the flags it sets decide: STATUS, sticky bits, its place, and for a
command that did not fail its ring post and flags. -/
def retireCore (s : State) (id : Nat) (c : Cmd) (outcome cond : Nat) : State :=
  let st := statusOf c outcome cond
  let s0 := matrixFree s c
  let s1 := { s0 with lastStatus := tabPut s0.lastStatus (16 * c.tile + qnOfQueue c.queue) st }
  let s2 := if c.sticky = 0 then s1 else
    modCtx s1 c.ctx (fun x => { x with sticky := tabSet 0 x.sticky (c.tile / 4) (tabGet 0 x.sticky (c.tile / 4) ||| c.sticky) })
  let cmds := match afterRetire c st with
    | some d => tabPut s2.cmds id d
    | none => tabDel s2.cmds id
  let s3 := { s2 with cmds := unblock cmds id }
  if outcome = 2 then deliverError s3 c (cmdError c cond st)
  else
    let s4 := cmdRingPost s3 c
    if cmdTaskRuns s4 c then setFlags s4 c.tile (cmdSignal c.raw) (if outcome = 3 then 7 else summaryOf c) else s4

/-- One withdrawal reaches a producer: its demand falls; at 0 it is cancelled, or stops at its next boundary. The
masks of the withdrawals that cancelled commands send in turn are added (R231). -/
def withdrawOne (acc : State × List Word) (id : Nat) : State × List Word :=
  let (s, ms) := acc
  match tabFind s.cmds id with
  | none => acc
  | some c =>
    if c.demand = 0 then acc
    else
      let d := { c with demand := c.demand - 1, withdrawals := c.withdrawals + 1 }
      let s1 := { s with cmds := tabPut s.cmds id d }
      if d.demand ≠ 0 then (s1, ms)
      else if d.state = .queued then
        let mask := cmdWait d.raw &&& ~~~ cmdFlags s1 d
        (retireCore s1 id d 3 0, ms ++ [mask])
      else (modCmd s1 id (fun x => { x with withdrawn := true }), ms)

/-- Producers of a task whose SIGNAL names a flag of a mask (R231). -/
def producers (s : State) (tile task : Nat) (mask : Word) : List Nat :=
  (s.cmds.filter (fun e => !e.2.box && e.2.tile == tile && e.2.task == task && cmdNonstrict e.2.raw &&
    cmdDemand e.2.raw != 0 && (cmdSignal e.2.raw &&& mask) != 0)).map (·.1)

/-- Withdrawals to the producers of flags, and those that cancelled producers send, at most `fuel` rounds. -/
def withdraw (tile task : Nat) : Nat → List Word → State → State
  | 0, _, s => s
  | _, [], s => s
  | fuel + 1, m :: ms, s =>
    let (s1, more) := (producers s tile task m).foldl withdrawOne (s, [])
    withdraw tile task fuel (more ++ ms) s1

/-- Sends one withdrawal to each producer of the flags of a mask. -/
def sendWithdrawals (s : State) (tile task : Nat) (mask : Word) : State := withdraw tile task (s.cmds.length + 1) [mask] s

/-- The operand whose settled flag decides an absorbed firing: the lowest one (R229). -/
def absorbOperand (s : State) (c : Cmd) : Option Nat :=
  (List.range 3).find? (fun d =>
    cmdAt c.raw d != 0 && (cmdFlags s c).getLsbD (cmdAf c.raw d) &&
      settleOf (getTile s c.tile) (cmdAf c.raw d) == cmdAt c.raw d)

/-- The absorbed firing of a command that has not been dispatched, with its withdrawals (R229, R231). -/
def absorb (s : State) (id : Nat) : State :=
  match tabFind s.cmds id with
  | none => s
  | some c =>
    if !cmdNonstrict c.raw || c.absorbed || c.begun || c.state != .queued then s
    else
      match absorbOperand s c with
      | none => s
      | some d =>
        let s1 := modCmd s id (fun x => { x with absorbed := true, test := cmdAt c.raw d })
        sendWithdrawals s1 c.tile c.task (cmdWait c.raw &&& ~~~ cmdFlags s c)

/-- A command retires: its flags are recorded, then every absorbed firing they decide is made (R230). -/
def retireCmd (s : State) (id outcome cond : Nat) : State :=
  match tabFind s.cmds id with
  | none => s
  | some c =>
    let s1 := retireCore s id c outcome cond
    if outcome = 2 ∨ !cmdTaskRuns s c then s1
    else
      let touched := s1.cmds.filter (fun e => e.2.tile == c.tile && e.2.task == c.task && !e.2.box &&
        (cmdWait e.2.raw &&& cmdSignal c.raw) != 0)
      touched.foldl (fun x e => absorb x e.1) s1

/-- A command ends in error. A chain between entries has no command: it ends, with the address of the entry whose STATUS
or fetch failed, and the STATUS of an entry that has retired stays (R203, R206). -/
def failCmd (s : State) (id cond : Nat) : State :=
  match tabFind s.cmds id with
  | none => s
  | some c =>
    match c.chain with
    | some ch => if ch.loaded then retireCmd s id 2 cond else failChain s id c cond (if ch.status.isSome then c.addr else ch.next)
    | none => retireCmd s id 2 cond

/-- A command is queued: it enters the checker, may fail by its AG registers, and may fire absorbed at once (R205, R229,
R274). -/
def enqueueCmd (s : State) (c : Cmd) : State :=
  let id := s.nextCmd
  let s1 := enterChecker { s with cmds := tabPut s.cmds id c } id c
  if (usedOpds c.raw).any (agRangeBad s c.ctx) then failCmd s1 id 19 else absorb s1 id

/-- A chain is queued (R206). -/
def enqueueChain (s : State) (c : Cmd) : State :=
  { s with nextCmd := s.nextCmd + 1, cmds := tabPut s.cmds s.nextCmd { c with entered := s.nextCmd } }

end Sys2Proof.Machine
end

