-- ==== Sys2Proof/Machine/EngWords.lean ====
section
/-! DEFINITION. The engine words ECMD, EWAIT, EPOLL, ELINK, EKICK, EQSTAT and WITHDRAW (R209 to R215, R232, R233). -/

namespace Sys2Proof.Machine

/-- Source number of the engine that makes room in a full queue: 4, 5 or 6; 7 where it is the pool, or where the tile's 64
commands in flight are what is full (R75, R191). -/
def spaceSrc (s : State) (q : EngQueue) (tile : Nat) : Nat :=
  if queueFits s q tile then 7
  else match q with | .ce _ => 5 | .ns _ => 6 | .mx _ => 4 | .pool _ => 7

/-- Waiting for space in a queue, or QFULL under NB (R210). -/
def awaitRoom (s : State) (c : CoreId) (q : EngQueue) (nb : Bool) : Ex Unit :=
  if queueRoom s q (coreTile s c) then .ok ()
  else if nb then trapEx s 31
  else .error (.wait { what := .engineSpace, kind := 9, name := engineName q, psrc := spaceSrc s q (coreTile s c) } s)

/-- A higher sequencer of the tile, on which a core program counts as C (R377), has queued a command in this clock: words that retire in one clock enter in increasing
sequencer number, so that this word retires in a later one (R205). -/
def enteredLater (s : State) (c : CoreId) : Bool :=
  s.cmds.any (fun e => !e.2.box && e.2.tile == coreTile s c && e.2.clock == s.cycle && decide (coreSeq c < e.2.seq))

/-- ECMD (R210). -/
def bodyEcmd (f : FQ) : Body := fun c s => Ex.run do
  let st := getStrand s c
  let ctx := ctxNo s c
  let t := coreTile s c
  let a := st.getA f.ar.toNat
  let (r, o) ← segCheck s ctx t a (offFQ st f) 128 64 false
  let q := queueOfQn t f.qn
  awaitRoom s c q (f.aux.getLsbD 0)
  if enteredLater s c then return .more s
  else
    let s1 ← grantRefs s c (coreClient c) ctx [r]
    let bs ← segRead s1 ctx r o 128
    let raw := ownRaw s1 (BitVec.ofNat 1024 (leNat bs))
    let addr := mkA r.name o
    match cmdFailByte s1 ctx (domainSize s1 (coreLaunch s1 c)) (queueServes q) false (isBox c) raw with
    | some b => trapEx s1 30 (BitVec.ofNat 64 b) addr
    | none =>
      let (n, s2) := takeInstance s1 (coreLaunch s1 c) raw
      return .retire (enqueueCmd s2 { newCmd s2 c q addr raw none with inst := n })

/-- The flags that a word awaits: one, or the set bits of Gm (R211). -/
def awaitedFlags (st : Strand) (f : FQ) : Word :=
  if f.rc = 0 then (1 : Word) <<< (f.aux.extractLsb' 0 6).toNat else st.getG f.rc

/-- EWAIT (R211). -/
def bodyEwait (f : FQ) : Body := fun c s =>
  match c with
  | .sbox _ => .trap { cond := 1 } s
  | .tile t _ =>
    let m := awaitedFlags (getStrand s c) f
    let clr := f.aux.getLsbD 6
    let have_ := if clr then (getTile s t).clearView else (getTile s t).flags
    let miss := m &&& ~~~ have_
    if miss = 0 then .retire (if clr then modTile s t (fun x => x.clearFlags m) else s)
    else
      .wait { what := .ewait, kind := 4, name := ((List.range 64).find? (fun k => miss.getLsbD k)).getD 0 } s

/-- EPOLL (R212). -/
def bodyEpoll (f : FQ) : Body := fun c s =>
  match c with
  | .sbox _ => .trap { cond := 1 } s
  | .tile t _ =>
    let m := (1 : Word) <<< (f.aux.extractLsb' 0 6).toNat
    let x := getTile s t
    if f.aux.getLsbD 6 then .retire (modTile (setGOf s c f.rc ((x.flags &&& ~~~ m) ||| (x.clearView &&& m))) t (fun y => y.clearFlags m))
    else .retire (setGOf s c f.rc x.flags)

/-- The LINK that ELINK writes (R213). -/
def linkValue (s : State) (c : CoreId) (r : BitVec 6) : Ex Word :=
  let st := getStrand s c
  if isA r then .ok (st.getA (aNum r))
  else if r = 0 then .ok 0
  else if (st.getG r).extractLsb' 52 12 ≠ 0 then trapEx s 19
  else .ok (st.getG r ||| (1 : Word) <<< 63)

/-- ELINK (R213). -/
def bodyElink (f : FQ) : Body := fun c s => Ex.run do
  let st := getStrand s c
  let ctx := ctxNo s c
  let (r, o) ← segCheck s ctx (coreTile s c) (st.getA f.ar.toNat) (offFQ0 st f) 128 64 true
  let link ← linkValue s c f.rc
  let s1 ← grantRefs s c (coreClient c) ctx [r]
  let bs ← segRead s1 ctx r o 8
  let h := BitVec.ofNat 64 (leNat bs)
  let h1 := (h &&& 0x0000FFFFFFFFFEFF#64) ||| 0x200#64
  let s2 := segWrite s1 ctx r.name r.tile o (leBytes 8 h1.toNat)
  return .retire (segWrite s2 ctx r.name r.tile (o + 24) (leBytes 8 link.toNat))

/-- EKICK (R214). -/
def bodyEkick (f : FQ) : Body := fun c s => Ex.run do
  let st := getStrand s c
  let t := coreTile s c
  let (r, o) ← segCheck s (ctxNo s c) t (st.getA f.ar.toNat) (offFQ0 st f) 128 64 false
  let q := queueOfQn t (f.qn &&& 1)
  awaitRoom s c q (f.qn.getLsbD 3)
  let addr := mkA r.name o
  return .retire (enqueueChain s (newCmd s c q addr 0
    (some { next := addr, count := 0, max := f.aux.toNat, loaded := false, status := none })))

/-- STATE of a queue as EQSTAT reads it (R215). -/
def queueState (h : Option (Nat × Cmd)) : Nat :=
  match h with
  | none => 0
  | some (_, c) =>
    match c.state with
    | .running | .written => if c.faulted then 3 else 1
    | .parked => 3
    | .queued => if c.held || c.faulted then 3 else 2

/-- EQSTAT (R215). -/
def bodyEqstat (f : FQ) : Body := fun c s =>
  let t := coreTile s c
  let q := queueOfQn t f.qn
  let l := queueCmds s q
  let h := l.head?
  let count := (l.filter (fun e => e.2.tile == t)).length
  let last := (tabGet 0 s.lastStatus (16 * t + qnOfQueue q)).toNat
  let prog := match h with | some (_, x) => if x.tile = t then x.progress % 2 ^ 32 else 0 | none => 0
  .retire (setGOf s c f.rc (BitVec.ofNat 64 (queueState h * 2 ^ 62 + count * 2 ^ 55 + last * 2 ^ 32 + prog)))

/-- WITHDRAW (R233). -/
def bodyWithdraw (f : FQ) : Body := fun c s =>
  match c with
  | .sbox _ => .trap { cond := 1 } s
  | .tile t _ =>
    let m := awaitedFlags (getStrand s c) f
    .retire (sendWithdrawals s t (((getTile s t).task.map (·.serial)).getD 0) m)

/-! ### The meanings -/

/-- ECMD (OP 0xA0, R210). -/
def execEcmd (f : FQ) (s : State) : Out := issueWord (.ecmd f) (bodyEcmd f) s

/-- EWAIT (OP 0xA1, R211). -/
def execEwait (f : FQ) (s : State) : Out := issueWord (.ewait f) (bodyEwait f) s

/-- EPOLL (OP 0xA2, R212). -/
def execEpoll (f : FQ) (s : State) : Out := issueWord (.epoll f) (bodyEpoll f) s

/-- ELINK (OP 0xA3, R213). -/
def execElink (f : FQ) (s : State) : Out := issueWord (.elink f) (bodyElink f) s

/-- EKICK (OP 0xA4, R214). -/
def execEkick (f : FQ) (s : State) : Out := issueWord (.ekick f) (bodyEkick f) s

/-- EQSTAT (OP 0xA5, R215). -/
def execEqstat (f : FQ) (s : State) : Out := issueWord (.eqstat f) (bodyEqstat f) s

/-- WITHDRAW (OP 0xA7, R233). -/
def execWithdraw (f : FQ) (s : State) : Out := issueWord (.withdraw f) (bodyWithdraw f) s

end Sys2Proof.Machine
end

