-- ==== Sys2Proof/Machine/Engine.lean ====
section
/-! DEFINITION. What every engine does: its accesses to segments, device memory and other devices, its grants and
pins, how a command stops, dispatch, retirement and chains (R125, R128, R192, R202, R203, R206, R207, R231, R329). -/

namespace Sys2Proof.Machine

/-- How a turn of a command ends before its work is done. -/
inductive CEnd where
  /-- An error that is not recoverable (R203). -/
  | err (cond : Nat) (s : State)
  /-- A recoverable fault parks the command (R202). -/
  | park (f : FaultInfo) (s : State)
  /-- It waits: for a grant, or for another device. -/
  | hold (s : State)

/-- A turn of a command. -/
abbrev CEx (α : Type) := Except CEnd α

/-- A command as it stands now. -/
def liveCmd (s : State) (id : Nat) (c : Cmd) : Cmd := (tabFind s.cmds id).getD c

/-- K-steps of an output block of MATTASK (R226). -/
def blockSteps (r : BitVec 1024) : Nat := ((opdAt r 0).dim0 + 127) / 128

/-- A command that waits for more than movement holds no pins (R125). The portion that it has read but not written is read
again from its progress on (R202), and a block of MATTASK whose K-steps are not complete begins anew (R226). -/
def Cmd.stop (c : Cmd) : Cmd :=
  { c with pins := [], reads := [], ready := false, sub := 0, walk := none,
           block := c.block.bind (fun b => if b.steps < blockSteps c.raw then none else some b) }

/-- A command parks at a recoverable fault. -/
def parkCmd (s : State) (id : Nat) (f : FaultInfo) : State :=
  raiseFault (modCmd s id (fun c =>
    { c.stop with state := .parked, faulted := true, under := if c.state = .parked then c.under else c.state })) f

/-- What the end of a turn means. -/
def CEx.settle (id : Nat) : CEx State → State
  | .ok s => s
  | .error (.err cond s) => failCmd s id cond
  | .error (.park f s) => parkCmd s id f
  | .error (.hold s) => s

/-- Ends a turn in error. -/
def cerr {α : Type} (s : State) (cond : Nat) : CEx α := .error (.err cond s)

/-! ### Grants (R125, R126, R128, R202) -/

/-- Client of a command's class. -/
def cmdClient (c : Cmd) : Nat :=
  if hasEntry c && cmdClass c.raw == 3 then 6 else if hasEntry c && cmdClass c.raw == 2 then 4 else 5

/-- Every item is pinned for the command. -/
def itemsPinned (c : Cmd) (tile : Nat) (items : List (Nat × Nat)) : Bool :=
  items.all (fun it => c.pins.any (fun p => p.seg == it.1 && p.tile == tile))

/-- Pins of a grant. -/
def pinsFor (c : Cmd) (tile : Nat) (items : List (Nat × Nat)) : List Pin :=
  items.map (fun it => ({ ctx := c.ctx, seg := it.1, tile := tile, client := cmdClient c, gran := it.2 } : Pin))

/-! ### Accesses -/

/-- A segment range of a command that passes R132. -/
def cmdSeg (s : State) (c : Cmd) (name off n : Nat) (write : Bool) : CEx SegRef :=
  match lookupSeg s c.ctx c.tile name with
  | .error cond => cerr s cond
  | .ok r =>
    if r.seg.bytes < off + n then cerr s 10
    else if write && attrRo r.seg.attr then cerr s 14
    else .ok r

/-- Source number of a command's recoverable faults (R7). -/
def cmdSrc (c : Cmd) : Nat :=
  if hasEntry c && cmdClass c.raw == 3 then 6 else if hasEntry c && cmdClass c.raw == 2 then 4 else 5

/-- SEGABSENT in a command's fault queue, under absence tracing, once its recall is complete (R120, R310). -/
def absNotice (s : State) (c : Cmd) (recalled : Bool) : State :=
  if recalled && traceAbs s c.ctx then fqNotice s c.ctx (11 * 8 + cmdSrc c) c.tile (cmdUnit c) c.addr.toNat 0 0 else s

/-- Names of the segments that a command's grant is for: absorbed, of those it writes (R229). -/
def grantNames (c : Cmd) : List Nat := (c.ranges.filter (fun r => !r.isVa && (!c.absorbed || r.write))).map (·.name)

/-- The home of a command's segments, when they share one and are granted together; MCAST writes copies on several tiles
(R200, R202). -/
def wholeHome (s : State) (c : Cmd) : Option Nat :=
  if cmdKind c.raw = 0x02 then none
  else
    match (grantNames c).filterMap (fun n => (findSeg s c.ctx n).map (fun g => copyTile g c.tile)) with
    | [] => none
    | t :: ts => if ts.all (· == t) then some t else none

/-- What an access of a command to a segment asks a grant for: its whole footprint where that has one home, else that
segment (R128, R202). -/
def cmdItems (s : State) (c : Cmd) (r : SegRef) : List (Nat × Nat) :=
  if (wholeHome s c).isSome ∧ r.name ∈ grantNames c then
    ((grantNames c).filterMap (fun n => (findSeg s c.ctx n).map (fun g => (n, granOf g.bytes)))).eraseDups
  else footprint [r]

/-- Touches the copies that a grant on a tile names, in order (R353). -/
def touchItems (s : State) (ctx tile : Nat) (items : List (Nat × Nat)) : State := items.foldl (fun s it => touchSeg s ctx it.1 tile) s

/-- An access of a command under its pins: it waits for a segment that the Shunter moves, which absence tracing then reports
(R120, R124). -/
def cmdPinned (s : State) (id : Nat) (c : Cmd) (tile : Nat) (items : List (Nat × Nat)) : CEx State :=
  if touchesAbsent s c.ctx tile items then .error (.hold (modCmd s id (fun y => { y with met := true })))
  else if c.met then .ok (absNotice (modCmd s id (fun y => { y with met := false })) c true)
  else .ok s

/-- The grant of a command for items on one tile, at once or through the tile's queue, where it waits without a pin (R125,
R126). Its other pins are released where the items do not fit beside them. A whole footprint stays pinned; a portion holds
pins on one home only (R128). -/
def cmdGrant (s : State) (id : Nat) (c0 : Cmd) (tile : Nat) (items : List (Nat × Nat)) : CEx State :=
  let c := liveCmd s id c0
  let cl := cmdClient c
  let party := Party.command id
  if items = [] then .ok s
  else if itemsPinned c tile items then cmdPinned s id c tile items
  else if overFloor s tile cl party items then cerr s 15
  else
    let s0 := if grantAtOnce s c.ctx tile cl party items then s else modCmd s id (fun y => { y with pins := [] })
    if grantAtOnce s0 c.ctx tile cl party items then
      let s1 := touchItems (absNotice (dropGrant s0 tile party) c (wasRecalled s0 tile party)) c.ctx tile items
      .ok (if wholeHome s c = some tile then modCmd s1 id (fun y => { y with pins := y.pins ++ pinsFor y tile items }) else s1)
    else .error (.hold (queueGrant s0 tile (newReq s0 (some party) c.tile c.ctx cl tile items false)))

/-- The fault record of a command (R243). -/
def cmdFault (id : Nat) (c : Cmd) (va n : Nat) (acc : Access) (f : XFail) : FaultInfo :=
  { party := .command id, ctx := c.ctx, cond := f.cond, reason := f.reason, level := f.level, mega := f.mega, va := va, acc := acc,
    size := sizeLog (min n 64), tile := c.tile, unit := cmdUnit c, src := cmdSrc c, pc := c.addr, done := c.progress,
    queued := false }

/-- Translation of an access of a command, in user mode (R240). -/
def cmdXlat (s : State) (id : Nat) (c : Cmd) (va n : Nat) (acc : Access) : CEx (XOk × State) :=
  if Config.vaEnd < va + n then cerr s 19
  else
    let w := (liveCmd s id c).walk
    match walkStops s c.tile c.ctx va acc .user w with
    | some (x, s1) => .error (.hold (modCmd s1 id (fun y => { y with walk := x })))
    | none =>
      let (r, s1) := translate s c.tile c.ctx va acc .user w
      match r with
      | .ok x => .ok (x, if w.isSome then modCmd s1 id (fun y => { y with walk := none }) else s1)
      | .error f => if f.hard then cerr s f.cond else .error (.park (cmdFault id c va n acc f) s)

/-- Bytes of a range up to the end of the page that holds its first byte. -/
def pagePart (va n : Nat) : Nat := min n (2 ^ 16 - va % 2 ^ 16)

/-- Reads device memory, page by page. -/
def cmdReadVa (id : Nat) (c : Cmd) : Nat → State → Nat → Nat → CEx (List Byte × State)
  | 0, s, _, _ => .ok ([], s)
  | fuel + 1, s, va, n =>
    if n = 0 then .ok ([], s)
    else do
      let k := pagePart va n
      let (x, s1) ← cmdXlat s id c va k .read
      if linkDown s1 x.pa then cerr s1 41
      else if paPoisoned s1 x.pa k then cerr s1 40
      else do
        let (rest, s2) ← cmdReadVa id c fuel s1 (va + k) (n - k)
        return (paBytes s1 x.pa k ++ rest, s2)

/-- Translates a range for writing, page by page, before any of it is written. -/
def cmdTouchVa (id : Nat) (c : Cmd) : Nat → State → Nat → Nat → CEx (List (Nat × Nat) × State)
  | 0, s, _, _ => .ok ([], s)
  | fuel + 1, s, va, n =>
    if n = 0 then .ok ([], s)
    else do
      let k := pagePart va n
      let (x, s1) ← cmdXlat s id c va k .write
      if linkDown s1 x.pa then cerr s1 41
      else do
        let (rest, s2) ← cmdTouchVa id c fuel s1 (va + k) (n - k)
        return ((x.pa, k) :: rest, s2)

/-- Pages that a range may reach. -/
def pagesOf (n : Nat) : Nat := n / 2 ^ 16 + 2

/-- Writes device memory. -/
def cmdWriteVa (s : State) (id : Nat) (c : Cmd) (va : Nat) (bs : List Byte) : CEx State := do
  let (ps, s1) ← cmdTouchVa id c (pagesOf bs.length) s va bs.length
  let (_, s2) := ps.foldl (fun (acc : List Byte × State) p =>
    (acc.1.drop p.2, paWrite acc.2 p.1 (acc.1.take p.2))) (bs, s1)
  return s2

/-- Reads a segment range under a grant. -/
def cmdReadSeg (s : State) (id : Nat) (c : Cmd) (name off n : Nat) : CEx (List Byte × State) := do
  let r ← cmdSeg s c name off n false
  let s1 ← cmdGrant s id c r.tile (cmdItems s c r)
  if segPoisoned s1 c.ctx r.name r.tile off n then cerr s1 40
  else return (segBytes s1 c.ctx r.name r.tile off n, touchSeg s1 c.ctx r.name r.tile)

/-- Writes a segment range under a grant, to the copy its name resolves to or to the copy of a tile. -/
def cmdWriteSeg (s : State) (id : Nat) (c : Cmd) (name off : Nat) (bs : List Byte) (copy : Option Nat) : CEx State := do
  let r0 ← cmdSeg s c name off bs.length true
  let r := match copy with | some t => { r0 with tile := t } | none => r0
  let s1 ← cmdGrant s id c r.tile (cmdItems s c r)
  return segWrite (touchSeg s1 c.ctx r.name r.tile) c.ctx r.name r.tile off bs

/-- The port that carries the next flit of a command: the next one in turn that leads to the device and is up
(R328). -/
def nextPort (s : State) (turn dev : Nat) : Option Nat :=
  let m := Config.routeMask (dev / 64)
  ((List.range 16).map (fun k => (turn + k) % 16)).find? (fun p => m.getLsbD p && !s.fabDown.contains p)

/-- A command's flits as they are sent: the next sequence number, the port at which the next turn begins, and those in
flight. -/
structure Sending where
  seq : Nat
  turn : Nat
  flights : List (Nat × Nat)
  deriving DecidableEq, Repr

/-- One flit is sent to a device on the next port in turn (R328); none leads there. -/
def Sending.one (s : State) (dev : Nat) (x : Sending) : Option Sending :=
  (nextPort s x.turn dev).map (fun p => { seq := x.seq + 1, turn := (p + 1) % 16, flights := x.flights ++ [(x.seq, p)] })

/-- A command's flits as they stand. -/
def sending (s : State) (c : Cmd) : Sending := { seq := s.flitSeq, turn := c.turn, flights := c.flights }

/-- Flits have been sent. -/
def sentOn (s : State) (id : Nat) (x : Sending) : State :=
  modCmd { s with flitSeq := x.seq } id (fun c => { c with flights := x.flights, turn := x.turn })

/-- A command waits for another device, with a flit in flight on a port, and holds no pins (R125); a device that no port
reaches gives LINKERR (R329). -/
def fabricWait {α : Type} (s : State) (id : Nat) (c : Cmd) (dev : Nat) : CEx α :=
  let s1 := modCmd s id (fun x => { x with pins := [] })
  if (liveCmd s id c).flights ≠ [] then .error (.hold s1)
  else
    match (sending s (liveCmd s id c)).one s dev with
    | none => cerr s 41
    | some x => .error (.hold (sentOn s1 id x))

/-- Reads `n` bytes of an operand. -/
def opdRead (s : State) (id : Nat) (c : Cmd) (o : Opd) (addr n : Nat) : CEx (List Byte × State) :=
  match o.space with
  | 0 => cmdReadSeg s id c o.name addr n
  | 3 =>
    let inbox := (liveCmd s id c).inbox
    if n ≤ inbox.length then .ok (inbox.take n, modCmd s id (fun x => { x with inbox := x.inbox.drop n }))
    else fabricWait s id c (opdDevice o)
  | _ => cmdReadVa id c (pagesOf n) s addr n

/-- Writes bytes of an operand; on another device, until its acknowledgement has come. -/
def opdWrite (s : State) (id : Nat) (c : Cmd) (o : Opd) (addr : Nat) (bs : List Byte) (copy : Option Nat) : CEx State :=
  match o.space with
  | 0 => cmdWriteSeg s id c o.name addr bs copy
  | 3 =>
    if 0 < (liveCmd s id c).acks then .ok (modCmd s id (fun x => { x with acks := x.acks - 1 }))
    else fabricWait s id c (opdDevice o)
  | _ => cmdWriteVa s id c addr bs

/-- Reads at an address in the form of LINK (R206). -/
def linkRead (s : State) (id : Nat) (c : Cmd) (w : Word) (off n : Nat) : CEx (List Byte × State) :=
  if w.getLsbD 63 then cmdReadVa id c (pagesOf n) s (w.toNat % 2 ^ 52 + off) n
  else cmdReadSeg s id c (aName w) (aOff w + off) n

/-- Writes at an address in the form of LINK. -/
def linkWrite (s : State) (id : Nat) (c : Cmd) (w : Word) (off : Nat) (bs : List Byte) : CEx State :=
  if w.getLsbD 63 then cmdWriteVa s id c (w.toNat % 2 ^ 52 + off) bs
  else cmdWriteSeg s id c (aName w) (aOff w + off) bs none

/-! ### Dispatch (R192, R201, R205, R226, R229) -/

/-- The command is the head of its queue, or stands in the pool. -/
def atHead (s : State) (id : Nat) (c : Cmd) : Bool :=
  match c.queue with
  | .pool _ => true
  | q => ((queueCmds s q).head?.map (·.1)) == some id

/-- A chain keeps its engine from its first fetch to its end. -/
def chainHolds (c : Cmd) : Bool := match c.chain with | some ch => ch.loaded || decide (0 < ch.count) | none => false

/-- An engine runs a command. -/
def engineBusy (s : State) (e id : Nat) : Bool :=
  s.cmds.any (fun x => x.1 != id && ((x.2.state != .queued && x.2.engine == e) ||
    (chainHolds x.2 && ownEngine x.2.queue == e)))

/-- A matrix word of the tile is in progress (R226): the record says so, or X is between the accesses of an OTHER form, which
keeps none. -/
def mxInProgress (s : State) (t : Nat) : Bool :=
  (getTile s t).mx.prog.state == .active ||
    (match ((getTile s t).strand 2).midWord with
     | some (.accspillOther _) | some (.accfillOther _) => true
     | _ => false)

/-- A tile lends its engine to pool nodes of a context (R226). -/
def lendsEngine (s : State) (t ctx : Nat) : Bool := (getTile s t).task.any (fun k => k.ctx == ctx && k.pool)

/-- An engine may take a command. -/
def engineServes (s : State) (c : Cmd) (e : Nat) : Bool :=
  match c.queue with
  | .pool cl =>
    if cmdClass c.raw = 1 then e / 2 == cl && decide (e < 128)
    else if cmdClass c.raw = 3 then e == 0x400 + cl
    else decide (0x800 ≤ e) && (e - 0x800) / 4 == cl && lendsEngine s (e - 0x800) c.ctx && !mxInProgress s (e - 0x800)
  | .mx t => e == 0x800 + t && !mxInProgress s t
  | q => e == ownEngine q

/-- The ring wait of a command is satisfied, now or by a post that came while it waited (R199, R261). -/
def ringMet (s : State) (c : Cmd) : Bool :=
  !(cmdRwait c.raw && ringKind c.raw) || c.ringSeen ||
    (match tabFind s.ctxs c.ctx with
     | some x =>
       let r := rawField c.raw 112 0 8
       decide (ringsOf x ≤ r) || ringReached (tabGet 0 x.ringCtr r) (rawField c.raw 116 0 32)
     | none => false)

/-- The range checker releases a command; absorbed, only its writes count (R205, R229). -/
def checkerFree (s : State) (c : Cmd) : Bool :=
  c.behind.all (fun b =>
    match tabFind s.cmds b with
    | some x => c.absorbed && !footprintsMeet (c.ranges.filter (·.write)) x.ranges
    | none => true)

/-- A fence record waits for every earlier command of its context (R201). -/
def fencerecFree (s : State) (id : Nat) (c : Cmd) : Bool :=
  cmdKind c.raw != 0x3F || !s.cmds.any (fun e => e.1 != id && e.2.ctx == c.ctx && hasEntry e.2 && decide (e.2.entered < c.entered))

/-- Every wait of a command but its grant and its engine is over. -/
def cmdReady (s : State) (id : Nat) (c : Cmd) : Bool :=
  c.state == .queued && !c.held && !c.faulted && hasEntry c && atHead s id c && checkerFree s c &&
    (c.begun || c.absorbed || ((cmdWait c.raw &&& ~~~ cmdFlags s c) == 0 && ringMet s c && fencerecFree s id c))

/-- Tier of a command: the larger of its own and its context's (R192). -/
def cmdTierOf (s : State) (c : Cmd) : Nat :=
  max (cmdTier c.raw) (((tabFind s.ctxs c.ctx).map (fun x => x.block.tier.toNat)).getD 0)

/-- A flag of WAIT is VOID (R231). -/
def waitsOnVoid (s : State) (c : Cmd) : Bool :=
  cmdTaskRuns s c && (List.range 64).any (fun f => (cmdWait c.raw).getLsbD f && settleOf (getTile s c.tile) f == 7)

/-- A ring counter that the command names is not the context's (R260). -/
def ringBad (s : State) (c : Cmd) : Bool :=
  ringKind c.raw && (match tabFind s.ctxs c.ctx with
    | some x => (cmdRwait c.raw && decide (ringsOf x ≤ rawField c.raw 112 0 8)) ||
        (cmdRpost c.raw && decide (ringsOf x ≤ rawField c.raw 113 0 8))
    | none => false)

/-- The segments of a command's footprint, checked: names, ranges, formats and RO (R132, R197). Absorbed, only the
destination counts. -/
def cmdSegs (s : State) (c : Cmd) : List Range → CEx (List SegRef)
  | [] => .ok []
  | r :: rs => do
    if r.isVa || (c.absorbed && !r.write) then cmdSegs s c rs
    else
      let x ← cmdSeg s c r.name r.lo (r.hi + 1 - r.lo) r.write
      let rest ← cmdSegs s c rs
      return x :: rest

/-- FMT of a segment operand is its segment's; its planes hold JP, and a copy of planes fits its destination (R54, R197,
R200). -/
def opdFmtBad (s : State) (c : Cmd) (o : Opd) : Option Nat :=
  if o.space ≠ 0 ∨ o.raw then none
  else
    match findSeg s c.ctx o.name with
    | none => none
    | some g =>
      if attrFmt g.attr ≠ o.fmt then some 27
      else if isBp o && decide (attrPlanes g.attr < o.jp) then some 30
      else none

/-- Planes that a BP-to-BP copy moves (R200). -/
def copyPlanes (s : State) (c : Cmd) : Nat :=
  let a := opdAt c.raw 0
  if a.jp = 0 then opdPlanes s c.ctx a else a.jp

/-- A BP-to-BP copy whose destination has another number of planes (R200). -/
def planesBad (s : State) (c : Cmd) : Bool :=
  let a := opdAt c.raw 0
  let b := opdAt c.raw 1
  (cmdKind c.raw == 0x01 || cmdKind c.raw == 0x02 || cmdKind c.raw == 0x03) && isBp a && isBp b && opdPlanes s c.ctx b != copyPlanes s c

/-- Execution errors that show when a command is to be dispatched. -/
def dispatchCheck (s : State) (c : Cmd) : CEx (List SegRef) := do
  if !c.absorbed && !c.begun && waitsOnVoid s c then cerr s 22
  else if ringBad s c then cerr s 34
  else
    let rs ← cmdSegs s c c.ranges
    match (usedOpds c.raw).findSome? (opdFmtBad s c) with
    | some cond => cerr s cond
    | none => if planesBad s c then cerr s 30 else return rs

/-- A command begins on an engine. -/
def startCmd (s : State) (id e : Nat) : State := modCmd s id (fun c => { c with state := .running, engine := e, begun := true })

/-- The dispatch of a command that is ready, on a free engine: its checks, its grant, and its start. -/
def dispatchOn (s : State) (id e : Nat) (c : Cmd) : CEx State := do
  let rs ← dispatchCheck s c
  match wholeHome s c with
  | some t =>
    let s1 ← cmdGrant s id c t (footprint rs)
    return startCmd (touchAll s1 c.ctx rs) id e
  | none => return startCmd s id e

/-- The grant of a command that is ready does not keep it waiting. -/
def hasGrant (s : State) (id e : Nat) (c : Cmd) : Bool := match dispatchOn s id e c with | .error (.hold _) => false | _ => true

/-- No node of the pool that is ready, its grant included, comes before the command on an engine: the lower tier, then the
earlier enqueue (R192). -/
def poolTurn (s : State) (id : Nat) (c : Cmd) (e : Nat) : Bool :=
  match c.queue with
  | .pool _ => (queueCmds s c.queue).all (fun x =>
      x.1 == id || !cmdReady s x.1 x.2 || !engineServes s x.2 e || !hasGrant s x.1 e x.2 ||
        decide (cmdTierOf s c < cmdTierOf s x.2) || (cmdTierOf s c == cmdTierOf s x.2 && decide (id < x.1)))
  | _ => true

/-- COMMAND_DISPATCH (R192): nothing happens unless the command is ready and the engine may take it. -/
def execCommandDispatch (cmd engine : Nat) (s : State) : Out :=
  match tabFind s.cmds cmd with
  | none => .next s
  | some c =>
    if cmdReady s cmd c && engineServes s c engine && !engineBusy s engine cmd && poolTurn s cmd c engine then
      .next (CEx.settle cmd (dispatchOn s cmd engine c))
    else .next s

/-! ### Chains (R206, R207) -/

/-- LINK names no place that a chain entry may lie at (R206). -/
def linkBad (w : Word) : Bool := w.toNat % 64 != 0 || linkBits w

/-- After an entry has retired: its STATUS is written into it, and the chain ends at LINK 0, at an error, or with
CHAINLOOP (R206, R207). -/
def chainSettle (s : State) (id : Nat) (c : Cmd) (ch : Chain) (st : BitVec 16) : CEx State := do
  let s1 ← linkWrite s id c c.addr 6 (leBytes 2 st.toNat)
  let link := cmdLink c.raw
  if st.extractLsb' 0 2 = 2 ∨ link = 0 then return dropChain s1 id
  else if link = c.addr ∨ ch.max ≤ ch.count then return failChain s1 id c 35 c.addr
  else return modCmd s1 id (fun x => { x with chain := some { ch with status := none, next := link }, pins := [] })

/-- A fetched entry: it fails CMDFORMAT, with its STATUS written, or enters the range checker (R206, R207). -/
def enterEntry (s : State) (id : Nat) (c : Cmd) (ch : Chain) (raw : BitVec 1024) : CEx State :=
  let (inst, s0) := takeInstance s c.launch raw
  let c1 := { c with raw := raw, addr := ch.next, chain := some { ch with loaded := true }, progress := 0, flags := 0,
                     demand := 0, pins := [], ringSeen := false, walk := none, inst := inst }
  match cmdFailByte s c.ctx (domainSize s c.launch) (queueServes c.queue) true c.box raw with
  | some _ => do
    let s1 ← linkWrite s id c ch.next 6 (leBytes 2 (30 * 256 + 2))
    let s2 := { s1 with lastStatus := tabPut s1.lastStatus (16 * c.tile + qnOfQueue c.queue) (BitVec.ofNat 16 (30 * 256 + 2)) }
    return failChain s2 id c 30 ch.next
  | none =>
    let s1 := enterChecker s0 id c1
    .ok (if (usedOpds raw).any (agRangeBad s c.ctx) then failCmd s1 id 19 else s1)

/-- The fetch of a chain's next entry; a fault in it is that of the entry (R243). -/
def fetchEntry (s : State) (id : Nat) (c : Cmd) (ch : Chain) : CEx State := do
  if linkBad ch.next then return failChain s id c 30 ch.next
  else
    let c1 := { c with addr := ch.next, progress := 0 }
    let (bs, s1) ← linkRead s id c1 ch.next 0 128
    enterEntry s1 id c1 ch (ownRaw s1 (BitVec.ofNat 1024 (leNat bs)))

/-- What a chain's turn means: an error of its own accesses ends it. -/
def chainTurn (id : Nat) (c : Cmd) (addr : Word) : CEx State → State
  | .ok s => s
  | .error (.err cond s) => failChain s id c cond addr
  | .error (.park f s) => parkCmd s id f
  | .error (.hold s) => s

/-- CHAIN_ENTRY_FETCH (R206): the STATUS of the entry before is written first, if it still is to be. -/
def execChainEntryFetch (cmd : Nat) (s : State) : Out :=
  match tabFind s.cmds cmd with
  | none => .next s
  | some c =>
    match c.chain with
    | none => .next s
    | some ch =>
      if ch.loaded || c.held || c.faulted || !atHead s cmd c || engineBusy s (ownEngine c.queue) cmd then .next s
      else
        match ch.status with
        | some st => .next (chainTurn cmd c c.addr (chainSettle s cmd c ch st))
        | none => .next (chainTurn cmd c ch.next (fetchEntry s cmd c ch))

/-! ### Retirement events -/

/-- A chain whose entry has just retired writes its STATUS at once, if it can. -/
def settleChain (s : State) (id : Nat) : State :=
  match tabFind s.cmds id with
  | none => s
  | some c =>
    match c.chain with
    | none => s
    | some ch => match ch.status with
      | some st => chainTurn id c c.addr (chainSettle s id c ch st)
      | none => s

/-- COMMAND_RETIRE (R193): a command whose writes are all made retires DONE, LATE if a withdrawal reached it (R231). -/
def execCommandRetire (cmd : Nat) (s : State) : Out :=
  match tabFind s.cmds cmd with
  | none => .next s
  | some c =>
    if c.state = .written ∧ !c.held then
      .next (settleChain (retireCmd s cmd 1 (if c.withdrawals = 0 then 0 else 0xFF)) cmd)
    else .next s

/-- WITHDRAWN_STOP (R231): a running producer at demand zero retires WITHDRAWN. -/
def execWithdrawnStop (cmd : Nat) (s : State) : Out :=
  match tabFind s.cmds cmd with
  | none => .next s
  | some c =>
    if c.withdrawn ∧ (c.state = .running ∨ c.state = .parked) ∧ !c.held ∧ !c.faulted then .next (retireCmd s cmd 3 0)
    else .next s

/-! ### What a portion writes (R228) -/

/-- The summaries that an element's code fits. -/
def codeFits (fmt code : Nat) : BitVec 4 :=
  let x := (readElem fmt code).val
  let one := match x with | .fin n m e => !n && m != 0 && (addExact 0 ⟨false, m, e, false⟩ ⟨true, 1, 0, false⟩).mag == 0 | _ => false
  let zero := match x with | .fin _ m _ => m == 0 | _ => false
  (if zero then 1 else 0) ||| (if one then 2 else 0) ||| (if x = .inf false then 4 else 0) ||| (if x = .inf true then 8 else 0)

/-- The summaries that raw bytes or plane bits fit. -/
def bytesFit (bs : List Byte) : BitVec 4 := if bs.all (· == 0) then 1 else 0

/-- Records a portion: the elements done, the flags and the summaries. -/
def portionDone (s : State) (id n : Nat) (fl : BitVec 6) (fits : BitVec 4) : State :=
  modCmd s id (fun c => { c with progress := c.progress + n, flags := c.flags ||| fl, fits := c.fits &&& fits, wrote := true })

/-- The last write is made. -/
def allWritten (s : State) (id : Nat) : State := modCmd s id (fun c => { c with state := .written })

/-- A turn of a running command of a kind; nothing happens to any other. -/
def runKind (kinds : List Nat) (cmd : Nat) (s : State) (turn : State → Cmd → CEx State) : Out :=
  match tabFind s.cmds cmd with
  | none => .next s
  | some c =>
    if c.state = .running ∧ !c.held ∧ !c.withdrawn ∧ hasEntry c ∧ kinds.contains (cmdKind c.raw) then
      .next (let s' := CEx.settle cmd (turn s c)
             match tabFind s'.cmds cmd with
             | some d => if d.chain.isSome ∧ !hasEntry d then settleChain s' cmd else s'
             | none => s')
    else .next s

end Sys2Proof.Machine
end

