-- ==== Sys2Proof/Machine/Engines.lean ====
section
/-! DEFINITION. The copy engines and MATTASK: COPY, MCAST, GATHER, FILL, FENCEREC, scale pages of an arena, and
absorbed results (R58, R199 to R202, R225, R226, R229, R277 to R279). -/

namespace Sys2Proof.Machine

/-! ### Elements of an operand -/

/-- An element as it is read: its code, and its value. -/
structure Elem where
  code : Nat
  val : FOut

/-- Coordinates of element e in the order of R197. -/
def elemAt (o : Opd) (e : Nat) : Nat × Nat × Nat := (e % o.dim0, e / o.dim0 % o.dim1, e / (o.dim0 * o.dim1))

/-- Address of element e. -/
def elemAddrOf (s : State) (ctx : Nat) (o : Opd) (e : Nat) : Nat :=
  let (a, b, c) := elemAt o e
  elemAddr s ctx o a b c

/-- Address of the header of scale page g of a slot and head (R277). -/
def pageHeader (v : BitVec 512) (slot head g : Nat) : Nat :=
  agField v 4 0 52 + ((slot * agHeads v + head) * ((agMaxpos v + agBlkpos v - 1) / max 1 (agBlkpos v)) + g) * 64

/-- Address of the header for row (b, c) of an arena operand. -/
def rowHeader (s : State) (ctx : Nat) (o : Opd) (b c : Nat) : Nat :=
  let v := agReg s ctx o.name
  pageHeader v (opdSlot o) (opdHead o + c) ((opdPos o + b) / max 1 (agBlkpos v))

/-- The value of a code under an E8M0 scale: a scale of 0xFF makes NaN (R50, R277). -/
def underScale (x : Num) (e : Nat) : FOut := if e = 255 then ⟨.nan canonNan, 0⟩ else scaleNum x ((e : Int) - 127)

/-- A free byte (log entry 5). -/
def takeFreeByte (s : State) : Nat × State := ((Config.freeByte s.fresh).toNat, { s with fresh := s.fresh + 1 })

/-- The scale stream that a command carries as an operand (R200, R282). -/
def scaleOpd (r : BitVec 1024) : Option Opd :=
  if cmdKind r = 0x01 ∧ cmdFpc r = 3 then some (opdAt r 2)
  else if cmdKind r = 0x21 ∧ cmdFpc r = 2 then some (opdAt r 1)
  else none

/-- Scale byte q of a BP operand: from the segment that its SCALE names, or from the stream operand; free where the
command carries none (R200). -/
def scaleByte (s : State) (id : Nat) (c : Cmd) (o : Opd) (q : Nat) : CEx (Nat × State) :=
  if o.space = 0 then
    match findSeg s c.ctx o.name with
    | none => cerr s 9
    | some g => do
      let (bs, s1) ← cmdReadSeg s id c (attrScale g.attr) q 1
      return (leNat bs, s1)
  else
    match scaleOpd c.raw with
    | some x => do
      let (bs, s1) ← opdRead s id c x (elemAddrOf s c.ctx x q) 1
      return (leNat bs, s1)
    | none => .ok (takeFreeByte s)

/-- The first `j` plane bits of element e of a BP operand, most significant first (R53, R54). -/
def planeBits (id : Nat) (c : Cmd) (o : Opd) (e : Nat) : Nat → Nat → State → CEx (Nat × State)
  | 0, _, s => .ok (0, s)
  | j + 1, p, s => do
    let g := (o.dim0 + 511) / 512
    let (bs, s1) ← opdRead s id c o (elemAddr s c.ctx o 0 0 0 + 64 * (p * g + e / 512) + e % 512 / 8) 1
    let (rest, s2) ← planeBits id c o e j (p + 1) s1
    return (leNat bs / 2 ^ (e % 8) % 2 * 2 ^ j + rest, s2)

/-- Planes of a BP operand that are read (R54). -/
def planesRead (s : State) (ctx : Nat) (o : Opd) : Nat := if o.jp = 0 then opdPlanes s ctx o else o.jp

/-- A `j`-bit two's complement value. -/
def signedBits (j v : Nat) : Int := if v < 2 ^ (j - 1) then v else (v : Int) - 2 ^ j

/-- Reads element (a, b, c) of an operand: its code, or the bits of its planes, and its scale where it has one: BP under its
scale stream, an arena's code under its page's scale (R54, R55, R277, R279). -/
def readRaw (s : State) (id : Nat) (c : Cmd) (o : Opd) (a b cc : Nat) : CEx ((Nat × Nat) × State) := do
  if isBp o then
    let (v, s1) ← planeBits id c o a (planesRead s c.ctx o) 0 s
    let (e, s2) ← scaleByte s1 id c o (a / 32)
    return ((v, e), s2)
  else
    let (bs, s1) ← opdRead s id c o (elemAddr s c.ctx o a b cc) (opdW o)
    if isScaled s c.ctx o && !o.raw then
      let (hs, s2) ← cmdReadVa id c 2 s1 (rowHeader s c.ctx o b cc) 1
      return ((leNat bs, leNat hs), s2)
    else return ((leNat bs, 127), s1)

/-- The element of an operand that a code and a scale are. -/
def rawElem (s : State) (ctx : Nat) (o : Opd) (x : Nat × Nat) : Elem :=
  if isBp o then
    let j := planesRead s ctx o
    ⟨x.1, if x.2 = 255 then ⟨.nan canonNan, 0⟩
      else valOut (scaledNum (signedBits j x.1) ((opdPlanes s ctx o : Int) - j + x.2 - 127)).val⟩
  else if isScaled s ctx o && !o.raw then ⟨x.1, underScale (readElem o.fmt x.1) x.2⟩
  else ⟨x.1, numRes (readElem o.fmt x.1)⟩

/-! ### What a copy command writes -/

/-- The value of an absorbed firing (R229). -/
def absorbedVal (test : Nat) : FOut :=
  match test with
  | 2 => numOut false 1 0
  | 3 => ⟨.inf false, 0⟩
  | 4 => ⟨.inf true, 0⟩
  | _ => numOut false 0 0

/-- Entry i of the index list of a GATHER; none outside the source's rows (R200). -/
def gatherRow (s : State) (id : Nat) (c : Cmd) (i : Nat) : CEx (Option Nat × State) := do
  let x := opdAt c.raw 2
  let (bs, s1) ← opdRead s id c x (elemAddrOf s c.ctx x i) 4
  let v := readInt 5 (leNat bs)
  return (if v < 0 ∨ ((opdAt c.raw 0).dim1 : Int) ≤ v then none else some v.toNat, s1)

/-- Where the source of destination element e lies; none at an index outside the source. -/
def sourceOf (s : State) (id : Nat) (c : Cmd) (d : Opd) (e : Nat) : CEx (Option (Nat × Nat × Nat) × State) :=
  if cmdKind c.raw = 0x03 then do
    let (row, s1) ← gatherRow s id c (e / d.dim0)
    return (row.map (fun r => (e % d.dim0, r, 0)), s1)
  else .ok (some (elemAt (opdAt c.raw 0) e), s)

/-- The source of destination element e, as it is read; a command that fires absorbed reads none. -/
def sourceRaw (s : State) (id : Nat) (c : Cmd) (d : Opd) (e : Nat) : CEx (Option (Nat × Nat) × State) :=
  if c.absorbed then .ok (some (0, 127), s)
  else do
    let (place, s1) ← sourceOf s id c d e
    match place with
    | none => return (none, s1)
    | some (a, b, cc) => do
      let (x, s2) ← readRaw s1 id c (opdAt c.raw 0) a b cc
      return (some x, s2)

/-- What a command reads for destination element e: its source, and the scale of a BP destination. -/
def copyRaw (s : State) (id : Nat) (c : Cmd) (d : Opd) (e : Nat) : CEx (Option (Nat × Nat × Nat) × State) := do
  let (x, s1) ← sourceRaw s id c d e
  let (sc, s2) ← if isBp d then scaleByte s1 id c d (e / 32) else Except.ok (127, s1)
  return (x.map (fun y => (y.1, y.2, sc)), s2)

/-- Elements e to e + n − 1, up to the first of a row whose index is bad, and whether one is (R200). -/
def copyRaws (id : Nat) (c : Cmd) (d : Opd) : Nat → Nat → State → CEx (List (Nat × Nat × Nat) × Bool × State)
  | 0, _, s => .ok ([], false, s)
  | n + 1, e, s => do
    let (x, s1) ← copyRaw s id c d e
    match x with
    | none => Except.ok ([], true, s1)
    | some y => do
      let (ys, bad, s2) ← copyRaws id c d n (e + 1) s1
      return (y :: ys, bad, s2)

/-- What stands for a destination element: the source element as read, or the absorbed value. -/
def copyElem (s : State) (c : Cmd) (x : Nat × Nat × Nat) : Elem :=
  if c.absorbed then ⟨0, absorbedVal c.test⟩ else rawElem s c.ctx (opdAt c.raw 0) (x.1, x.2.1)

/-- Writes `w`-byte codes to the elements from e on, row by row. -/
def writeElems (id : Nat) (c : Cmd) (d : Opd) (w : Nat) (copy : Option Nat) : Nat → Nat → List Nat → State → CEx State
  | 0, _, _, s => .ok s
  | fuel + 1, e, codes, s =>
    if codes = [] then .ok s
    else do
      let k := min codes.length (d.dim0 - e % d.dim0)
      let s1 ← opdWrite s id c d (elemAddrOf s c.ctx d e) ((codes.take k).flatMap (leBytes w)) copy
      writeElems id c d w copy fuel (e + k) (codes.drop k) s1

/-- Codes are copied unchanged (R200). -/
def copiesCodes (s : State) (c : Cmd) (d : Opd) : Bool :=
  let a := opdAt c.raw 0
  !c.absorbed && (a.raw || (a.fmt == d.fmt && !isScaled s c.ctx a))

/-- Both sides hold integers (R62). -/
def intsOnly (c : Cmd) : Bool := !c.absorbed && isIntFmt (opdAt c.raw 0).fmt

/-- Rounds a sequence in runs of 64 from its start (R58). -/
def roundRuns (f rm : Nat) (isInt : Bool) : Nat → List FOut → Lanes
  | 0, _ => []
  | fuel + 1, xs =>
    if xs = [] then []
    else roundLanes f rm isInt ((xs.take 64).map some) ++ roundRuns f rm isInt fuel (xs.drop 64)

/-- Elements from e on that one 64-byte portion of the destination holds, in its row and before `stop` (R202). -/
def chunkLen (s : State) (c : Cmd) (d : Opd) (e stop : Nat) : Nat :=
  min (stop - e) (min (d.dim0 - e % d.dim0) (max 1 ((64 - elemAddrOf s c.ctx d e % 64) / max 1 (opdW d))))

/-- Every summary that a list of codes fits (R228). -/
def codesFit (o : Opd) (codes : List Nat) : BitVec 4 :=
  if o.raw then (if codes.all (· == 0) then 1 else 0)
  else codes.foldl (fun f v => f &&& codeFits o.fmt v) 15

/-- Flags of a list of results. -/
def orAll (l : Lanes) : BitVec 6 := l.foldl (fun f v => f ||| v.2) 0

/-- What has come over the fabric is kept while a turn waits, and a parked turn has done nothing. -/
def wholePortion (s : State) (id : Nat) (c : Cmd) : CEx State → CEx State
  | .error (.hold s') => .error (.hold (modCmd s' id (fun y => { y with inbox := c.inbox, acks := c.acks })))
  | .error (.park f _) => .error (.park f s)
  | r => r

/-- The portion under way is over: the next one reads anew. -/
def runDone (s : State) (id : Nat) : State := modCmd s id (fun c => { c with reads := [], ready := false, sub := 0 })

/-! ### BP destinations (R53, R62, R200) -/

/-- The 64 bytes of plane p of a plane group, from the k-bit codes of its elements. -/
def planeSector (codes : List Nat) (k p : Nat) : List Byte :=
  let arr := codes.toArray
  (List.range 64).map (fun b =>
    BitVec.ofNat 8 (((List.range 8).map (fun i => arr.getD (8 * b + i) 0 / 2 ^ (k - 1 - p) % 2 * 2 ^ i)).sum))

/-- A value divided by a scale of the destination's stream. -/
def unscaled (x : FOut) (b : Nat) : FOut :=
  if b = 255 then ⟨.nan canonNan, x.flags⟩
  else
    match x.res with
    | .num v => ⟨.num { v with exp := v.exp + 127 - b }, x.flags⟩
    | _ => x

/-- Rounds to k-bit two's complement, in runs of 64 (R62). An integer source too is clamped with NV (log entry 62). -/
def roundBp (k rm : Nat) : Nat → List FOut → Lanes
  | 0, _ => []
  | fuel + 1, xs =>
    if xs = [] then []
    else
      let run := xs.take 64
      let ts := run.map (fun o => tTo 5 o.res)
      (run.zipIdx).map (fun e =>
        let (v, fl) := floatToInt (-(2 ^ (k - 1))) (2 ^ (k - 1) - 1) rm (if rm = 5 then randAt ts e.2 else 0) e.1
        (intCode k v, fl)) ++ roundBp k rm fuel (xs.drop 64)

/-- Planes of a plane group are copied unchanged from a BP source (R200). -/
def copiesPlanes (c : Cmd) (d : Opd) : Bool := isBp d && isBp (opdAt c.raw 0) && !c.absorbed

/-- Address of plane p of plane group g of a BP operand (R53). -/
def planeAddr (s : State) (ctx : Nat) (o : Opd) (g p : Nat) : Nat := elemAddr s ctx o 0 0 0 + 64 * (p * ((o.dim0 + 511) / 512) + g)

/-! ### Scale pages (R277 to R279) -/

/-- Elements of the command in the scale page of element e: the first, and the one past the last. -/
def pageElems (s : State) (ctx : Nat) (d : Opd) (e : Nat) : Nat × Nat :=
  let blk := max 1 (agBlkpos (agReg s ctx d.name))
  let (_, b, cc) := elemAt d e
  let g := (opdPos d + b) / blk
  let lo := max (opdPos d) (g * blk) - opdPos d
  let hi := min (opdPos d + d.dim1) ((g + 1) * blk) - opdPos d
  (d.dim0 * (lo + d.dim1 * cc), d.dim0 * (hi + d.dim1 * cc))

/-- The largest finite magnitude among values. -/
def maxMag : List Elem → Nat × Int
  | [] => (0, 0)
  | x :: xs =>
    let (m, e) := maxMag xs
    match x.val.res with
    | .num v => if magLt m e v.mag v.exp then (v.mag, v.exp) else (m, e)
    | _ => (m, e)

/-- X ≤ M × 2^(e − 127) (R278). -/
def fitsScale (fmt : Nat) (x : Nat × Int) (e : Nat) : Bool :=
  let (m, g) := topMag fmt
  !magLt m (g + e - 127) x.1 x.2

/-- The scale of a page after a write of values up to X, from its header (R278). -/
def pageScale (fmt : Nat) (rescale : Bool) (h : Word) (x : Nat × Int) : Nat :=
  let sc := (h.extractLsb' 0 8).toNat
  if !h.getLsbD 8 then
    if x.1 = 0 then 0x7F else ((List.range 255).find? (fitsScale fmt x)).getD 0xFE
  else if fitsScale fmt x sc || !rescale then sc
  else ((List.range 255).find? (fun e => decide (sc < e) && fitsScale fmt x e)).getD 0xFE

/-- A value under the inverse of a page's scale. -/
def overScale (sc : Nat) (x : FOut) : FOut :=
  match x.res with
  | .num v => ⟨.num { v with exp := v.exp + 127 - sc }, x.flags⟩
  | _ => x

/-- The value is finite and past what the page's scale can hold (R278). -/
def pastScale (fmt sc : Nat) (x : FOut) : Bool :=
  match x.res with
  | .num v => !fitsScale fmt (v.mag, v.exp) sc
  | _ => false

/-- What a value is rounded from: none when it is clamped to ±M instead, whose t counts as 0 under SR (log entry 75). -/
def pageLane (fmt sc : Nat) (x : FOut) : Option FOut := if pastScale fmt sc x then none else some (overScale sc x)

/-- Code of ±M. -/
def clampCode (fmt : Nat) (x : FOut) : Nat :=
  (match x.res with | .num v => if v.neg then 0x80 else 0 | _ => 0) + (fFmt fmt).top

/-- The header of the page of element e. -/
def readHeader (s : State) (id : Nat) (c : Cmd) (d : Opd) (e : Nat) : CEx (Word × State) := do
  let (_, b, cc) := elemAt d e
  let (bs, s1) ← cmdReadVa id c 2 s (rowHeader s c.ctx d b cc) 8
  return (BitVec.ofNat 64 (leNat bs), s1)

/-- Elements in order as they are read, those of rows with a bad index left out. -/
def knownElems (s : State) (c : Cmd) (xs : List (Nat × Nat × Nat)) : List Elem := xs.map (copyElem s c)

/-- Lanes of the elements from e on that other pages hold, each under the scale its own page takes (R58, R278). -/
def otherLanes (id : Nat) (c : Cmd) (d : Opd) : Nat → Nat → Nat → State → CEx (List (Option FOut) × State)
  | 0, _, _, s => .ok ([], s)
  | fuel + 1, e, stop, s =>
    if stop ≤ e then .ok ([], s)
    else do
      let (p0, p1) := pageElems s c.ctx d e
      let (ys, _, s1) ← copyRaws id c d (p1 - p0) p0 s
      let xs := knownElems s c ys
      let (h, s2) ← readHeader s1 id c d e
      let sc := pageScale d.fmt (cmdBit3 c.raw) h (maxMag xs)
      let mine := ((xs.drop (e - p0)).take (stop - e)).map (fun x => pageLane d.fmt sc x.val)
      let (rest, s3) ← otherLanes id c d fuel (e + max 1 mine.length) stop s2
      return (mine ++ rest, s3)

/-- Rounds lanes in runs of 64. -/
def laneRuns (fmt rm : Nat) : Nat → List (Option FOut) → Lanes
  | 0, _ => []
  | fuel + 1, l => if l.isEmpty then [] else roundLanes fmt rm false (l.take 64) ++ laneRuns fmt rm fuel (l.drop 64)

/-- The results of new values, with the lanes around them that their runs reach (R58). -/
def pageRound (fmt rm : Nat) (before lanes after : List (Option FOut)) : Lanes :=
  let all := before ++ lanes ++ after
  ((laneRuns fmt rm (all.length + 1) all).drop before.length).take lanes.length

/-- Positions below FILL of a page that the command does not write. -/
def oldPositions (d : Opd) (first fill blk maxpos : Nat) : List Nat :=
  ((List.range (min fill blk)).map (first + ·)).filter (fun p =>
    decide (p < maxpos) && !(decide (opdPos d ≤ p) && decide (p < opdPos d + d.dim1)))

/-- The codes of old positions, position by position. -/
def readRowsAt (id : Nat) (c : Cmd) (n : Nat) : List Nat → State → CEx (List Byte × State)
  | [], s => .ok ([], s)
  | a :: rest, s => do
    let (bs, s1) ← cmdReadVa id c (pagesOf n) s a n
    let (more, s2) ← readRowsAt id c n rest s1
    return (bs ++ more, s2)

/-- Writes rows of `n` bytes at addresses. -/
def writeRowsAt (id : Nat) (c : Cmd) (n : Nat) : List Nat → List Byte → State → CEx State
  | [], _, s => .ok s
  | a :: rest, bs, s => do
    let s1 ← cmdWriteVa s id c a (bs.take n)
    writeRowsAt id c n rest (bs.drop n) s1

/-- The rewrite of a page's earlier positions under a larger scale (R278): flags and state. -/
def rescalePage (s : State) (id : Nat) (c : Cmd) (d : Opd) (cc first fill old new : Nat) : CEx (BitVec 6 × State) := do
  let v := agReg s c.ctx d.name
  let ps := oldPositions d first fill (agBlkpos v) (agMaxpos v)
  let addr := fun p => elemAddr s c.ctx { d with base := d.base - opdPos d } 0 p cc
  let (bs, s1) ← readRowsAt id c (agPs v) (ps.map addr) s
  let xs := bs.map (fun b => overScale new (underScale (readElem d.fmt b.toNat) old))
  let out := roundRuns d.fmt (cmdRm c.raw) false (xs.length + 1) xs
  let s2 ← writeRowsAt id c (agPs v) (ps.map addr) (out.map (fun x => BitVec.ofNat 8 x.1)) s1
  return (orAll out, s2)

/-- One scale page, whose new values have been read: the header, any rewrite, the new rows and the header again, as one update
(R278, R279). -/
def pagePortion (s0 : State) (id : Nat) (c : Cmd) (d : Opd) (e total : Nat) : CEx State := do
  let rm := cmdRm c.raw
  let v := agReg s0 c.ctx d.name
  let blk := max 1 (agBlkpos v)
  let (_, b, cc) := elemAt d e
  let first := (opdPos d + b) / blk * blk
  let (p0, p1) := pageElems s0 c.ctx d e
  let xs := knownElems s0 c c.reads
  let stop := p0 + xs.length
  let (h, s2) ← readHeader s0 id c d e
  let (bef, s3) ← if rm = 5 then otherLanes id c d 64 (p0 - p0 % 64) p0 s2 else .ok ([], s2)
  let (aft, s4) ← if rm = 5 ∧ stop = p1 then otherLanes id c d 64 p1 (min total ((p1 + 63) / 64 * 64)) s3 else .ok ([], s3)
  let old := (h.extractLsb' 0 8).toNat
  let fill := (h.extractLsb' 32 16).toNat
  let sc := pageScale d.fmt (cmdBit3 c.raw) h (maxMag xs)
  let again := h.getLsbD 8 && cmdBit3 c.raw && !fitsScale d.fmt (maxMag xs) old
  let last := if stop < min p1 total then opdPos d + (stop - p0) / max 1 d.dim0 + (p0 / max 1 d.dim0 % max 1 d.dim1)
    else min (opdPos d + d.dim1) (first + blk)
  let mine := if stop < min p1 total then { d with dim1 := last - opdPos d } else d
  let (fl0, s5) ← if again then rescalePage s4 id c mine cc first fill old sc else .ok (0, s4)
  let lanes := xs.map (fun x => pageLane d.fmt sc x.val)
  let out := (pageRound d.fmt rm bef lanes aft).zip xs |>.map (fun y =>
    if pastScale d.fmt sc y.2.val then (clampCode d.fmt y.2.val, flagSAT ||| y.2.val.flags) else y.1)
  let sat := xs.any (fun x => pastScale d.fmt sc x.val)
  let codes := out.map (·.1)
  let s6 ← writeElems id c d 1 none (codes.length + 1) p0 codes s5
  let h1 := max fill (last - first) % 2 ^ 16 * 2 ^ 32 + (if h.getLsbD 10 || again then 2 ^ 10 else 0)
    + (if h.getLsbD 9 || sat then 2 ^ 9 else 0) + 2 ^ 8 + sc
  let s7 ← cmdWriteVa s6 id c (rowHeader s0 c.ctx d b cc) (leBytes 8 h1)
  let stick : BitVec 5 := (if sat then 1 else 0) ||| (if again then 2 else 0)
  return runDone (portionDone (modCmd s7 id (fun x => { x with sticky := x.sticky ||| stick })) id codes.length (fl0 ||| orAll out)
    (codesFit d codes)) id

/-! ### The turns of COPY, MCAST, GATHER and FILL -/

/-- Pins of a command that proceeds in portions are released with the portion; a whole footprint stays pinned (R128, R202). -/
def releasePortion (s : State) (id : Nat) : State :=
  modCmd s id (fun c =>
    { c with pins := if (wholeHome s c).isSome then c.pins.filter (fun p => (grantNames c).contains p.seg) else [] })

/-- The copies that MCAST writes, in increasing tile; other kinds write one destination. -/
def destCopies (s : State) (c : Cmd) (d : Opd) : List (Option Nat) :=
  if cmdKind c.raw = 0x02 then
    ((findSeg s c.ctx d.name).map (fun g => g.copies.map (fun x => some x.1))).getD []
  else [none]

/-- Destination elements of one copy. -/
def destCount (c : Cmd) (d : Opd) : Nat := if cmdKind c.raw = 0x03 then d.dim0 * d.dim1 else opdCount d

/-- The elements that are read before any of element e's portion is written, first and one past the last: a plane group, a scale
page, a run of 64 under SR, or the 64-byte portion itself (R58, R62, R202, R278). -/
def runOf (s : State) (c : Cmd) (d : Opd) (e total rm : Nat) : Nat × Nat :=
  if isBp d then (e / 512 * 512, min total (e / 512 * 512 + 512))
  else if isScaled s c.ctx d && !d.raw then
    let (p0, p1) := pageElems s c.ctx d e
    (p0, min p1 total)
  else if rm = 5 then (e / 64 * 64, min total (e / 64 * 64 + 64))
  else (e, e + chunkLen s c d e total)

/-- The results of a run of elements that have been read, with their flags (R58, R62, R200). -/
def runLanes (s : State) (c : Cmd) (d : Opd) (rm : Nat) : Lanes :=
  let xs := c.reads.map (copyElem s c)
  if isBp d then
    roundBp (opdPlanes s c.ctx d) rm (xs.length + 1) ((xs.zip c.reads).map (fun x => unscaled x.1.val x.2.2.2))
  else if copiesCodes s c d then xs.map (fun x => (x.code, 0))
  else roundLanes d.fmt rm (intsOnly c) (xs.map (fun x => some x.val))

/-- The next 64-byte portion of what is to be read, with the run complete once it is all there; an index outside the source ends
the run, and the command when it is the first of it (R200, R202). -/
def readPortion (s : State) (id : Nat) (c : Cmd) (d : Opd) (e total rm : Nat) : CEx State := do
  let (start, stop) := runOf s c d e total rm
  let m := start + c.reads.length
  let n := if isBp d then min 64 (stop - m) else chunkLen s c d m stop
  let (xs, bad, s1) ← copyRaws id c d n m s
  let reads := c.reads ++ xs
  if bad && decide (start + reads.length ≤ e) then cerr s1 19
  else return modCmd s1 id (fun x => { x with reads := reads, ready := bad || decide (stop ≤ start + reads.length) })

/-- The next 64-byte portion of a run that has been read is written. -/
def writePortion (s : State) (id : Nat) (c : Cmd) (d : Opd) (copy : Option Nat) (e total rm : Nat) : CEx State := do
  let start := (runOf s c d e total rm).1
  let stop := start + c.reads.length
  let lanes := runLanes s c d rm
  if isBp d then
    let codes := lanes.map (·.1)
    let k := opdPlanes s c.ctx d
    let s1 ← opdWrite s id c d (planeAddr s c.ctx d (e / 512) c.sub) (planeSector codes k c.sub) copy
    if c.sub + 1 < k then return modCmd s1 id (fun x => { x with sub := x.sub + 1 })
    else return runDone (portionDone s1 id (stop - e) (orAll lanes) (if codes.all (· == 0) then 1 else 0)) id
  else
    let n := chunkLen s c d e stop
    let mine := (lanes.drop (e - start)).take n
    let s1 ← writeElems id c d (opdW d) copy (n + 1) e (mine.map (·.1)) s
    let s2 := portionDone s1 id n (orAll mine) (codesFit d (mine.map (·.1)))
    return if stop ≤ e + n then runDone s2 id else s2

/-- A plane of a plane group is read, or the plane that has been read is written (R200). -/
def planePortion (s : State) (id : Nat) (c : Cmd) (d : Opd) (copy : Option Nat) (e total : Nat) : CEx State := do
  let g := e / 512
  if !c.ready then
    let (row, s0) ← if cmdKind c.raw = 0x03 then gatherRow s id c 0 else Except.ok (some 0, s)
    if row.isNone then cerr s0 19
    else
      let (bs, s1) ← opdRead s0 id c (opdAt c.raw 0) (planeAddr s c.ctx (opdAt c.raw 0) g c.sub) 64
      return modCmd s1 id (fun x => { x with reads := bs.map (fun b => (b.toNat, 0, 0)), ready := true })
  else
    let bs : List Byte := c.reads.map (fun x => BitVec.ofNat 8 x.1)
    let s1 ← opdWrite s id c d (planeAddr s c.ctx d g c.sub) bs copy
    let last := decide (copyPlanes s c ≤ c.sub + 1)
    let s2 := portionDone s1 id (if last then min (total - e) (512 - e % 512) else 0) 0 (bytesFit bs)
    return if last then runDone s2 id else modCmd s2 id (fun x => { x with reads := [], ready := false, sub := x.sub + 1 })

/-- One read, or one write, of a copy kind at its progress in one copy of the destination (R202). -/
def portionTurn (s : State) (id : Nat) (c : Cmd) (d : Opd) (copy : Option Nat) (e total rm : Nat) : CEx State :=
  if copiesPlanes c d then planePortion s id c d copy e total
  else if !c.ready then readPortion s id c d e total rm
  else if isScaled s c.ctx d && !d.raw && !isBp d then pagePortion s id c d e total
  else writePortion s id c d copy e total rm

/-- A turn ends: pins of a portion go, and a command whose elements are all done can retire. -/
def turnDone (s : State) (id total : Nat) : State :=
  let s1 := releasePortion s id
  if (tabFind s1.cmds id).any (fun c => decide (total ≤ c.progress)) then allWritten s1 id else s1

/-- One turn of COPY, MCAST or GATHER. -/
def copyTurn (s : State) (id : Nat) (c : Cmd) : CEx State := do
  let d := opdAt c.raw 1
  let copies := destCopies s c d
  if cmdKind c.raw = 0x02 && !((findSeg s c.ctx d.name).any (fun g => attrReplica g.attr)) then cerr s 14
  else
    let total := destCount c d
    let s1 ← portionTurn s id c d (copies.getD (c.progress / total) none) (c.progress % total) total (cmdRm c.raw)
    return turnDone s1 id (total * copies.length)

/-- One portion of FILL. -/
def fillTurn (s : State) (id : Nat) (c : Cmd) : CEx State := do
  let d := opdAt c.raw 0
  let total := opdCount d
  let n := chunkLen s c d c.progress total
  let v := rawField c.raw 108 0 32 % 2 ^ (8 * opdW d)
  let codes := List.replicate n v
  let s1 ← writeElems id c d (opdW d) none (n + 1) c.progress codes s
  return turnDone (portionDone s1 id n 0 (codesFit d codes)) id total

/-- The record of FENCEREC (R201). A core program's command has no task: its queue position is a free value. -/
def fenceRecord (s : State) (c : Cmd) : List Byte :=
  leBytes 8 (rawField c.raw 104 0 64) ++ leBytes 8 (devTime s) ++ leBytes 2 c.hwq ++ leBytes 2 c.ctx ++ leBytes 4 0
    ++ leBytes 8 (if c.box then (Config.freeWord s.fresh).toNat else c.pos) ++ leBytes 32 0

/-- FENCEREC writes its record in one access (R201). -/
def fencerecTurn (s : State) (id : Nat) (c : Cmd) : CEx State := do
  let d := opdAt c.raw 0
  let bs := fenceRecord s c
  let s1 ← opdWrite s id c d d.base bs none
  let s2 := if c.box then { s1 with fresh := s1.fresh + 1 } else s1
  return allWritten (portionDone s2 id 64 0 (bytesFit bs)) id

/-- COPY (KIND 0x01, R200). -/
def execCopy (cmd : Nat) (s : State) : Out := runKind [0x01] cmd s (fun s c => wholePortion s cmd c (copyTurn s cmd c))

/-- MCAST (KIND 0x02, R200). -/
def execMcast (cmd : Nat) (s : State) : Out := runKind [0x02] cmd s (fun s c => wholePortion s cmd c (copyTurn s cmd c))

/-- GATHER (KIND 0x03, R200). -/
def execGather (cmd : Nat) (s : State) : Out := runKind [0x03] cmd s (fun s c => wholePortion s cmd c (copyTurn s cmd c))

/-- FILL (KIND 0x04, R200). -/
def execFill (cmd : Nat) (s : State) : Out := runKind [0x04] cmd s (fun s c => wholePortion s cmd c (fillTurn s cmd c))

/-- FENCEREC (KIND 0x3F, R201). -/
def execFencerec (cmd : Nat) (s : State) : Out :=
  runKind [0x3F] cmd s (fun s c => wholePortion s cmd c (fencerecTurn s cmd c))

/-! ### MATTASK (R225, R226, R229) -/

/-- Values of `n` elements of a row of an operand from column `col` on, with +0.0 up to `pad`. -/
def rowNums (s : State) (id : Nat) (c : Cmd) (o : Opd) (row col n pad : Nat) : CEx (List Num × State) := do
  let (bs, s1) ← opdRead s id c o (elemAddr s c.ctx o col row 0) (n * opdW o)
  return (numsOfBytes o.fmt bs ++ List.replicate (pad - n) Num.zero, s1)

/-- Column n of rows. -/
def columnOf (rows : List (List Num)) (n : Nat) : List Num :=
  rows.map (fun r => r.getD n Num.zero) ++ List.replicate (128 - rows.length) Num.zero

/-- A K-step of an output block whose rows have been read (R64, R226). -/
def MatBlock.kStep (b : MatBlock) (nCols : Nat) : MatBlock :=
  let cols := (List.range nCols).map (columnOf b.bRows)
  let out := (b.acc.zip b.aRows).map (fun y => streamRow cols y.2 y.1)
  { b with steps := b.steps + 1, acc := out.map (·.1), flags := out.foldl (fun f y => f ||| y.2) b.flags, bRows := [], aRows := [] }

/-- The next part of a K-step: a row of B is read, then a row of A, and then the step is done. A frozen array does none
(R226, R322). -/
def kTurn (s : State) (id : Nat) (c : Cmd) (mb nb mRows nCols : Nat) (b : MatBlock) : CEx (MatBlock × State) := do
  let x := opdAt c.raw 0
  let k := min 128 (x.dim0 - 128 * b.steps)
  if b.bRows.length < k then
    let (row, s1) ← rowNums s id c (opdAt c.raw 1) (128 * b.steps + b.bRows.length) (128 * nb) nCols nCols
    return ({ b with bRows := b.bRows ++ [row] }, s1)
  else if b.aRows.length < mRows then
    let (row, s1) ← rowNums s id c x (128 * mb + b.aRows.length) (128 * b.steps) k 128
    return ({ b with aRows := b.aRows ++ [row] }, s1)
  else if (getTile s (c.engine - 0x800)).mx.frozen then .error (.hold s)
  else return (b.kStep nCols, s)

/-- The FP32 codes of a row of the D block. -/
def dRow (s : State) (id : Nat) (c : Cmd) (nb nCols row : Nat) : CEx (AccRow × State) := do
  let d := opdAt c.raw 2
  let (bs, s1) ← opdRead s id c d (elemAddr s c.ctx d (128 * nb) row 0) (4 * nCols)
  return ((List.range nCols).map (fun n => BitVec.ofNat 32 (leNat ((bs.drop (4 * n)).take 4))), s1)

/-- An output block as it begins: +0.0, or D's rows still to be read under ACC; absorbed, no K-step (R226, R229). -/
def newBlock (c : Cmd) (mRows nCols : Nat) : MatBlock :=
  { read := if cmdBit3 c.raw && !c.absorbed then 0 else mRows, steps := if c.absorbed then blockSteps c.raw else 0,
    acc := List.replicate mRows (List.replicate nCols 0), written := 0, flags := 0, bRows := [], aRows := [] }

/-- Keeps the output block under way. -/
def keepBlock (s : State) (id : Nat) (b : Option MatBlock) : State := modCmd s id (fun c => { c with block := b })

/-- The next 64-byte portion of the D block is written, row by row, each a sequence of its own (R58, R202). -/
def writeBlock (s : State) (id : Nat) (c : Cmd) (mb nb mRows nCols : Nat) (b : MatBlock) : CEx State := do
  let d := opdAt c.raw 2
  let r := b.written / nCols
  let col := b.written % nCols
  let out := roundRuns d.fmt (cmdRm c.raw) false 3 ((b.acc.getD r []).map (fun v => numRes (readFloat 0 v.toNat)))
  let e := (128 * mb + r) * d.dim0 + 128 * nb + col
  let n := chunkLen s c d e (e + nCols - col)
  let mine := (out.drop col).take n
  let s1 ← opdWrite s id c d (elemAddrOf s c.ctx d e) ((mine.map (·.1)).flatMap (leBytes (opdW d))) none
  let fits := codesFit d (mine.map (·.1))
  if b.written + n < mRows * nCols then
    return keepBlock (portionDone s1 id 0 (orAll mine) fits) id (some { b with written := b.written + n })
  else return keepBlock (portionDone s1 id 1 (orAll mine ||| b.flags) fits) id none

/-- The anonymous slot of a MATTASK on the tile it runs on (R226, R169). While it waits for one it holds no pins (R125). -/
def anonSlot (s : State) (id : Nat) (c : Cmd) : CEx State :=
  if c.anon.isSome then .ok s
  else
    let t := c.engine - 0x800
    let unpinned := fun (s : State) => modCmd s id (fun x => { x with pins := [] })
    match lookSlot s c.ctx t none true with
    | .free n => .ok (modCmd s id (fun x => { x with anon := some (t, n) }))
    | .spilling s1 => .error (.hold (unpinned s1))
    | .busy => .error (.hold (unpinned s))
    | .full _ _ => cerr s 13

/-- One turn of MATTASK: a row of D under ACC is read, a part of a K-step is done, or a portion of the block is written; absorbed, +0.0 is
written, or nothing (R226, R229). -/
def mattaskTurn (s0 : State) (id : Nat) (c : Cmd) : CEx State := do
  let d := opdAt c.raw 2
  let nbs := (d.dim0 + 127) / 128
  let total := (d.dim1 + 127) / 128 * nbs
  let mb := c.progress / nbs
  let nb := c.progress % nbs
  let mRows := min 128 (d.dim1 - 128 * mb)
  let nCols := min 128 (d.dim0 - 128 * nb)
  if c.absorbed && cmdBit3 c.raw then return allWritten s0 id
  else
    let s ← if c.absorbed then .ok s0 else anonSlot s0 id c
    let b := c.block.getD (newBlock c mRows nCols)
    if b.read < mRows then
      let (row, s1) ← dRow s id c nb nCols (128 * mb + b.read)
      return releasePortion (keepBlock s1 id (some { b with read := b.read + 1, acc := b.acc.set b.read row })) id
    else if b.steps < blockSteps c.raw then
      let (b1, s1) ← kTurn s id c mb nb mRows nCols b
      return releasePortion (keepBlock s1 id (some b1)) id
    else
      let s1 ← writeBlock s id c mb nb mRows nCols b
      return turnDone s1 id total

/-- MATTASK (KIND 0x10, R226). -/
def execMattask (cmd : Nat) (s : State) : Out :=
  runKind [0x10] cmd s (fun s c => wholePortion s cmd c (mattaskTurn s cmd c))

end Sys2Proof.Machine
end

