-- ==== Sys2Proof/Machine/NearSlice.lean ====
section
/-! DEFINITION. The near-slice units: AGSET, AGGET and SLRES, and the commands SELECT, TOPK and ATTNPART (R272 to R276,
R280 to R286). -/

namespace Sys2Proof.Machine

/-! ### Address-generator registers (R273, R275, R276) -/

/-- Every byte that a failing rule of R273 reports. -/
def agBad (v : BitVec 512) : List Nat :=
  let scaled := agScaled v
  brk 0 (agField v 0 0 6 != 0) ++ brk 6 (agField v 0 52 12 != 0)
    ++ brk 8 (agField v 1 0 6 != 0 || decide (agField v 1 0 64 < agHeads v * agHs v))
    ++ brk 16 (agHs v % 64 != 0 || decide (agHs v < agMaxpos v * agPs v)) ++ brk 20 (agPs v % 64 != 0 || agPs v == 0)
    ++ brk 24 (agHeads v == 0) ++ brk 26 (agMaxpos v == 0) ++ brk 29 (agSlots v == 0)
    ++ brk 32 (agField v 4 0 6 != 0 || (!scaled && agField v 4 0 52 != 0)) ++ brk 38 (agField v 4 52 12 != 0)
    ++ brk 42 (scaled && agBlkpos v == 0) ++ brk 26 (scaled && decide (agMaxpos v < agBlkpos v))
    ++ brk 40 ((scaled && agFmt v != 3 && agFmt v != 4) || (!scaled && agBlkpos v != 0) || agField v 5 1 7 != 0)
    ++ brk 41 (decide (4 < agFmt v) || agField v 5 12 4 != 0) ++ brk 45 (agField v 5 40 24 != 0)
    ++ brk 48 (agField v 6 0 64 != 0) ++ brk 56 (agField v 7 0 64 != 0)

/-- An unretired command of the context names an AG register (R276). -/
def agNamed (s : State) (ctx n : Nat) : Bool :=
  s.cmds.any (fun e => e.2.ctx == ctx && hasEntry e.2 && (usedOpds e.2.raw).any (fun o => o.space == 2 && o.name % 16 == n))

/-- AGSET (R276). -/
def bodyAgset (f : FQ) : Body := fun c s => Ex.run do
  let st := getStrand s c
  let ctx := ctxNo s c
  let a := st.getA f.ar.toNat
  let n := f.qn.toNat
  let (r, o) ← segCheck s ctx (coreTile s c) a (offFQ st f) 64 64 false
  let s1 ← grantRefs s c (coreClient c) ctx [r]
  let bs ← segRead s1 ctx r o 64
  let v := BitVec.ofNat 512 (leNat bs)
  match if v = 0 then none else (agBad v).min? with
  | some b => trapEx s1 30 (BitVec.ofNat 64 b) a
  | none =>
    if agNamed s1 ctx n then .error (.wait { what := .segment, kind := 11, name := 0x200 + n } s1)
    else return .retire (modCtx s1 ctx (fun x => { x with ags := tabSet 0 x.ags n v }))

/-- AGGET (R276). -/
def bodyAgget (f : FQ) : Body := fun c s =>
  .retire (setGOf s c f.rc (BitVec.ofNat 64 (agField (agReg s (ctxNo s c) f.qn.toNat) (f.aux.extractLsb' 0 3).toNat 0 64)))

/-- Mask of the AG registers that are not zero. -/
def agValid (s : State) (ctx : Nat) : Nat :=
  ((List.range 16).map (fun n => if agReg s ctx n = 0 then 0 else 2 ^ n)).sum

/-- SLRES (R276). -/
def bodySlres (f : FQ) : Body := fun c s =>
  let ctx := ctxNo s c
  let sl := coreTile s c / 4
  let x := tabFind s.ctxs ctx
  match (f.aux.extractLsb' 0 2).toNat with
  | 0 => .retire (setGOf s c f.rc (BitVec.ofNat 64 (agValid s ctx)))
  | 1 =>
    let v : BitVec 5 := (x.map (fun y => tabGet 0 y.sticky sl)).getD 0
    let s1 := setGOf s c f.rc (v.zeroExtend 64)
    .retire (if f.aux.getLsbD 2 then modCtx s1 ctx (fun y => { y with sticky := tabSet 0 y.sticky sl 0 }) else s1)
  | _ => .retire (setGOf s c f.rc (BitVec.ofNat 64 ((x.map (fun y => tabGet 0 y.scanned sl)).getD 0)))

/-! ### Reading and writing phases (R280) -/

/-- The partial state of a command. -/
def nearWork (c : Cmd) : NearWork := c.work.getD NearWork.zero

/-- Keeps partial state. -/
def keepWork (s : State) (id : Nat) (w : NearWork) : State := modCmd s id (fun c => { c with work := some w })

/-- Counts the sectors of a read from `lo` to `hi` in the partial state and in the context's record (R276). -/
def countSectors (s : State) (c : Cmd) (w : NearWork) (lo hi : Nat) : NearWork × State :=
  let n := hi / 64 + 1 - lo / 64 - (if w.last = some (lo / 64) then 1 else 0)
  let sl := c.tile / 4
  ({ w with sectors := w.sectors + n, last := some (hi / 64) },
   modCtx s c.ctx (fun x => { x with scanned := tabSet 0 x.scanned sl ((tabGet 0 x.scanned sl + n) % 2 ^ 64) }))

/-- Offsets at which the portions of a record of `n` bytes at an address begin, and where each ends. -/
def recordCuts (addr n : Nat) : List (Nat × Nat) :=
  let k := (addr + n - 1) / 64 - addr / 64 + 1
  (List.range k).map (fun i => (64 * (addr / 64 + i) - addr, min n (64 * (addr / 64 + i + 1) - addr)))

/-- Address in an OUT word, as far as its place in a sector matters. -/
def outOff (w : Word) : Nat := if w.getLsbD 63 then w.toNat % 2 ^ 52 else w.toNat % 2 ^ 32

/-- The next portion of a record: in increasing offset, the header's portion last (R280). -/
def writeRecord (s : State) (id : Nat) (c : Cmd) (w : NearWork) (rec_ : List Byte) : CEx State := do
  let cuts := recordCuts (outOff (cmdOut c.raw)) rec_.length
  let order := cuts.drop 1 ++ cuts.take 1
  let (a, b) := order.getD w.written (0, 0)
  let s1 ← linkWrite s id c (cmdOut c.raw) a ((rec_.drop a).take (b - a))
  let s2 := releasePortion (keepWork s1 id { w with written := w.written + 1 }) id
  if w.written + 1 ≥ order.length then
    return allWritten (modCmd s2 id (fun x => { x with fits := x.fits &&& bytesFit rec_, wrote := true })) id
  else return s2

/-- The reading phase ends: the record, the flags and the sticky bits. -/
def formRecord (s : State) (id : Nat) (w : NearWork) (bs : List Byte) (fl : BitVec 6) (stick : BitVec 5) : State :=
  modCmd s id (fun c => { c with work := some { w with record := some bs }, flags := c.flags ||| fl, sticky := c.sticky ||| stick })

/-- Elements of a source from `e` on that one access reads, all in its row: a whole row of a SCALED source with the header of
its page (R279), else those up to the next 64-byte boundary. -/
def runLen (s : State) (c : Cmd) (o : Opd) (e : Nat) : Nat :=
  let row := o.dim0 - e % o.dim0
  if isScaled s c.ctx o then row else min row (max 1 ((64 - elemAddrOf s c.ctx o e % 64) / max 1 (opdW o)))

/-- One read of a source's elements from `e` on: the elements, how many, and the sectors counted. -/
def readRun (s : State) (id : Nat) (c : Cmd) (w : NearWork) (o : Opd) (e : Nat) : CEx (List Elem × NearWork × State) := do
  let n := runLen s c o e
  let rec_ (i : Nat) := let (a, b, cc) := elemAt o (e + i); (a, b, cc)
  let (xs, s1) ← (List.range n).foldlM (fun (acc : List Elem × State) i => do
    let (a, b, cc) := rec_ i
    let (x, s1) ← readRaw acc.2 id c o a b cc
    return (rawElem s1 c.ctx o x :: acc.1, s1)) ([], s)
  let lo := elemAddrOf s c.ctx o e
  let (w1, s2) := countSectors s1 c w lo (lo + n * opdW o - 1)
  return (xs.reverse, w1, s2)

/-- Records `n` elements read, with the flags that reading them as numbers raised. -/
def readOn (s : State) (id n : Nat) (w : NearWork) (fl : BitVec 6 := 0) : State :=
  releasePortion (modCmd s id (fun c => { c with work := some w, progress := c.progress + n, flags := c.flags ||| fl })) id

/-- Flags of elements that an operation consumes as numbers: NV for a signalling NaN (R49, R61). -/
def readFlags (xs : List Elem) : BitVec 6 := xs.foldl (fun f x => f ||| x.val.flags) 0

/-! ### SELECT (R281) -/

/-- A constant of SELECT as a value: FP32 for FMT 0 to 4, INT32 for 5 to 7, UINT32 for 8. -/
def selectConst (fmt v : Nat) : FVal :=
  if fmt ≤ 4 then (readElem 0 v).val else if fmt = 8 then intVal v else intVal (readInt 5 v)

/-- A value is a NaN. -/
def isNanVal : FVal → Bool
  | .nan _ => true
  | _ => false

/-- The test of SELECT on a value and its code. -/
def selectTest (op fmt code c1 c2 : Nat) (x : FVal) : Bool :=
  let k1 := selectConst fmt c1
  let k2 := selectConst fmt c2
  match op with
  | 7 => code &&& c1 != 0
  | 8 => code &&& c1 == c1
  | _ =>
    if isNanVal x || isNanVal k1 then op == 1
    else
      let lt := valLt false x k1
      let gt := valLt false k1 x
      match op with
      | 0 => !lt && !gt
      | 1 => lt || gt
      | 2 => lt
      | 3 => !gt
      | 4 => gt
      | 5 => !lt
      | _ => !lt && !isNanVal k2 && !valLt false k2 x

/-- The value of a result that no operation has rounded. -/
def outVal (o : FOut) : FVal := resVal o.res

/-- The record of SELECT. -/
def selectRecord (cap count : Nat) (hits : List (Nat × Nat)) : List Byte :=
  leBytes 4 (min count (2 ^ 32 - 1)) ++ leBytes 4 (min count cap) ++ leBytes 4 (if cap < count then 1 else 0) ++ leBytes 4 0
    ++ hits.flatMap (fun h => leBytes 4 h.2 ++ leBytes 4 h.1) ++ List.replicate (8 * (cap - hits.length)) 0

/-- Flags of SELECT over elements: a comparison consumes the element and the constants as numbers, a mask does not (R49). -/
def selectFlags (c : Cmd) (xs : List Elem) : BitVec 6 :=
  let op := rawField c.raw 104 0 8
  if 4 < (opdAt c.raw 0).fmt ∨ 7 ≤ op then 0
  else
    let k1 := (readElem 0 (rawField c.raw 108 0 32)).sig
    let k2 := op == 6 && (readElem 0 (rawField c.raw 112 0 32)).sig
    readFlags xs ||| (if k1 || k2 then flagNV else 0)

/-- One portion of SELECT. -/
def selectTurn (s : State) (id : Nat) (c : Cmd) : CEx State := do
  let w := nearWork c
  match w.record with
  | some r => writeRecord s id c w r
  | none =>
    let o := opdAt c.raw 0
    let cap := rawField c.raw 116 0 32
    let (xs, w1, s1) ← readRun s id c w o c.progress
    let test := fun (x : Elem) => selectTest (rawField c.raw 104 0 8) o.fmt x.code (rawField c.raw 108 0 32)
      (rawField c.raw 112 0 32) (outVal x.val)
    let new := (xs.zipIdx.filter (fun y => test y.1)).map (fun y => (c.progress + y.2, y.1.code))
    let w2 := { w1 with count := w1.count + new.length, hits := (w1.hits ++ new).take cap }
    let s2 := readOn s1 id xs.length w2 (selectFlags c xs)
    if c.progress + xs.length ≥ opdCount o then
      return formRecord s2 id w2 (selectRecord cap w2.count w2.hits) 0 (if cap < w2.count then 4 else 0)
    else return s2

/-! ### TOPK (R282, R283) -/

/-- The first of two ranked elements comes before the second: by value, then by index. -/
def ranksBefore (mn : Bool) (a b : Nat × FVal) : Bool :=
  let hi := if mn then valLt false a.2 b.2 else valLt false b.2 a.2
  let lo := if mn then valLt false b.2 a.2 else valLt false a.2 b.2
  hi || (!lo && decide (a.1 < b.1))

/-- Inserts an element by rank. -/
def rankIn (mn : Bool) (x : Nat × FVal) : List (Nat × FVal) → List (Nat × FVal)
  | [] => [x]
  | y :: ys => if ranksBefore mn x y then x :: y :: ys else y :: rankIn mn x ys

/-- Value of a pair in the record: INT32 for integers, else FP32. -/
def topkCode (fmt : Nat) (v : FVal) : Nat × BitVec 6 :=
  if isIntFmt fmt then
    match v with
    | .fin n m e => (intCode 32 (roundToInt 1 0 ⟨n, m, e, false⟩).1, 0)
    | _ => (0, 0)
  else rne32 (valOut v)

/-- The record of TOPK, with its flags. -/
def topkRecord (fmt k : Nat) (w : NearWork) : List Byte × BitVec 6 :=
  let top := (w.ranked.take k).map (fun p => (p.1, topkCode fmt p.2))
  (leBytes 4 w.count ++ leBytes 4 w.nans ++ leBytes 4 w.sectors ++ leBytes 4 0
    ++ top.flatMap (fun p => leBytes 4 p.2.1 ++ leBytes 4 p.1) ++ List.replicate (8 * (k - top.length)) 0,
   top.foldl (fun f p => f ||| p.2.2) 0)

/-- Adds elements to the ranking. -/
def rankAll (mn : Bool) (k : Nat) (w : NearWork) (xs : List (Nat × FVal)) : NearWork :=
  xs.foldl (fun w x =>
    if isNanVal x.2 then { w with nans := w.nans + 1 }
    else { w with count := w.count + 1, ranked := (rankIn mn x w.ranked).take k }) w

/-- K and MIN of TOPK. -/
def topkArgs (c : Cmd) : Nat × Bool := (rawField c.raw 104 0 16, rawField c.raw 106 0 1 == 1)

/-- A TOPK whose reading ends. -/
def topkDone (s : State) (id : Nat) (c : Cmd) (w : NearWork) : State :=
  let (bs, fl) := topkRecord (opdAt c.raw 0).fmt (topkArgs c).1 w
  formRecord s id w bs fl 0

/-- Plane groups of a BP operand. -/
def bpGroups (o : Opd) : Nat := (o.dim0 + 511) / 512

/-- The scale of element e as a power of two; none for NaN. -/
def bpScale (w : NearWork) (e : Nat) : Option Int :=
  let b := w.scales.getD (e / 32) 255
  if b = 255 then none else some ((b : Int) - 127)

/-- The j-bit value of element e from the planes read. -/
def bpRead (o : Opd) (w : NearWork) (j e : Nat) : Int :=
  signedBits j ((List.range j).foldl (fun acc p =>
    2 * acc + (Memory.read w.planes (64 * (p * bpGroups o + e / 512) + e % 512 / 8)).toNat / 2 ^ (e % 8) % 2) 0)

/-- Bounds of element e after its group's planes read so far, negated under MIN (R54, R283). -/
def bpBounds (o : Opd) (k : Nat) (mn : Bool) (w : NearWork) (e : Nat) : Option (FVal × FVal) :=
  (bpScale w e).map (fun sc =>
    let j := tabGet 0 w.got (e / 512)
    let lo := bpRead o w j e * 2 ^ (k - j)
    let hi := lo + 2 ^ (k - j) - 1
    if mn then ((scaledNum (-hi) sc).val, (scaledNum (-lo) sc).val) else ((scaledNum lo sc).val, (scaledNum hi sc).val))

/-- Groups that read their next plane: those with planes left and an element whose upper bound reaches B (R283). -/
def bpNext (o : Opd) (k j n : Nat) (mn : Bool) (w : NearWork) : List Nat :=
  let bs := (List.range o.dim0).map (bpBounds o k mn w)
  let lows := (bs.zipIdx.filterMap (fun y => y.1.map (fun b => (y.2, b.1)))).foldl (fun l x => (rankIn false x l).take n) []
  let bound := if lows.length < n then none else (lows[n - 1]?).map (·.2)
  (List.range (bpGroups o)).filter (fun g =>
    decide (tabGet 0 w.got g < j) &&
      ((bs.drop (512 * g)).take 512).any (fun b => b.any (fun y => match bound with
        | none => true
        | some x => !valLt false y.2 x)))

/-- Reads scale bytes from the q-th on: the bytes and the sectors. -/
def readScales (id : Nat) (c : Cmd) (o : Opd) : Nat → Nat → NearWork → State → CEx (NearWork × State)
  | 0, _, w, s => .ok (w, s)
  | fuel + 1, q, w, s =>
    if o.dim0 ≤ 32 * q then .ok (w, s)
    else do
      let (b, s1) ← scaleByte s id c o q
      let a := match scaleOpd c.raw with | some x => elemAddrOf s c.ctx x q | none => q
      let (w1, s2) := countSectors s1 c { w with scales := w.scales ++ [b] } a a
      readScales id c o fuel (q + 1) w1 s2

/-- Every element of the groups read to their last plane, and the NaN elements. -/
def bpRanked (o : Opd) (k j : Nat) (w : NearWork) : List (Nat × FVal) :=
  (List.range o.dim0).filterMap (fun e =>
    match bpScale w e with
    | none => some (e, .nan canonNan)
    | some sc =>
      if tabGet 0 w.got (e / 512) < j then none
      else some (e, (scaledNum (bpRead o w j e * 2 ^ (k - j)) sc).val))

/-- Non-NaN elements of a BP source. -/
def bpCount (o : Opd) (w : NearWork) : Nat := ((List.range o.dim0).filter (fun e => (bpScale w e).isSome)).length

/-- One read of a BP source: the scale stream, then one plane sector after another, round by round (R283). -/
def topkBpTurn (s : State) (id : Nat) (c : Cmd) (w : NearWork) (o : Opd) : CEx State := do
  let (n, mn) := topkArgs c
  let k := opdPlanes s c.ctx o
  let j := planesRead s c.ctx o
  if 32 * w.scales.length < o.dim0 then
    let q := w.scales.length
    let a := match scaleOpd c.raw with | some x => elemAddrOf s c.ctx x q | none => q
    let (w1, s1) ← readScales id c o (64 - a % 64) q w s
    return readOn s1 id 0 (if 32 * w1.scales.length < o.dim0 then w1 else { w1 with todo := List.range (bpGroups o), last := none })
  else
    match w.todo with
    | [] => return topkDone s id c { rankAll mn n w (bpRanked o k j w) with count := bpCount o w }
    | g :: rest =>
      let p := tabGet 0 w.got g
      let a := elemAddr s c.ctx o 0 0 0 + 64 * (p * bpGroups o + g)
      let (bs, s1) ← opdRead s id c o a 64
      let (w1, s2) := countSectors s1 c { w with last := none } a (a + 63)
      let w2 := { w1 with planes := Memory.writeBytes w1.planes (64 * (p * bpGroups o + g)) bs, got := tabPut w1.got g (p + 1),
                          todo := rest }
      let w3 := if rest = [] then { w2 with todo := bpNext o k j n mn w2 } else w2
      return readOn s2 id (if p = 0 then min 512 (o.dim0 - 512 * g) else 0) w3

/-- One portion of TOPK. -/
def topkTurn (s : State) (id : Nat) (c : Cmd) : CEx State := do
  let w := nearWork c
  match w.record with
  | some r => writeRecord s id c w r
  | none =>
    let o := opdAt c.raw 0
    if isBp o then topkBpTurn s id c w o
    else
      let (n, mn) := topkArgs c
      let (xs, w1, s1) ← readRun s id c w o c.progress
      let w2 := rankAll mn n w1 (xs.zipIdx.map (fun y => (c.progress + y.2, outVal y.1.val)))
      let s2 := readOn s1 id xs.length w2 (if isIntFmt o.fmt then 0 else readFlags xs)
      return if c.progress + xs.length ≥ opdCount o then topkDone s2 id c w2 else s2

/-! ### ATTNPART (R284 to R286) -/

/-- A product with an exact factor that is not negative. -/
def timesExact (x : FVal) (y : Exact) : FOut :=
  match x with
  | .nan c => ⟨.nan c, 0⟩
  | .inf n => if y.mag = 0 ∧ !y.sticky then invalid else ⟨.inf n, 0⟩
  | .fin n m e => ⟨.num (mulExact ⟨n, m, e, false⟩ y), 0⟩

/-- Sum of two unrounded results (R60). -/
def addRes (a b : FOut) : FOut :=
  match a.res, b.res with
  | .nan _, _ => a
  | _, .nan _ => b
  | .inf n, .inf m => if n = m then a else invalid
  | .inf _, _ => a
  | _, .inf _ => b
  | .num x, .num y => ⟨.num (addExact 0 x y), a.flags ||| b.flags⟩

/-- RNE32(x × ex + y × ey), one rounding; a NaN decides in that order (R285). -/
def mixStep (x : Num) (ex : Exact) (y : Num) (ey : Exact) : CodeFl :=
  match firstNan [x, y] with
  | some n => (nanTo 0 n, sigFlags [x, y])
  | none => rne32 (addRes (timesExact x.val ex) (timesExact y.val ey))

/-- A triple of NaN. -/
def nanTriple (n : BitVec 32) (d : Nat) : Triple := { m := n, l := n, o := List.replicate d n }

/-- The empty triple (R285). -/
def emptyTriple (d : Nat) : Triple := { m := 0xFF800000, l := 0, o := List.replicate d 0 }

/-- The larger of two codes, −0 below +0. -/
def maxCode (a b : BitVec 32) : BitVec 32 := if valLt true (codeNum a.toNat).val (codeNum b.toNat).val then b else a

/-- The value 1. -/
def oneNum : Num := ⟨.fin false 1 0, false⟩

/-- A position of a participant (R285): the new triple and the flags. -/
def attnStep (scale : BitVec 32) (q k v : List Num) (t : Triple) : Triple × BitVec 6 :=
  let dot := columnSum q k
  let sc := mulStep (codeNum scale.toNat) (codeNum dot.1)
  let fl := dot.2 ||| sc.2
  let s := codeNum sc.1
  let m := codeNum t.m.toNat
  let l := codeNum t.l.toNat
  match firstNan [s, m, l] with
  | some n => (nanTriple n q.length, fl)
  | none =>
    let m1 := maxCode t.m (BitVec.ofNat 32 sc.1)
    let mv := (codeNum m1.toNat).val
    if mv = .inf true then (t, fl)
    else
      let em := osmPower m.val mv
      let es := osmPower s.val mv
      let l1 := mixStep l em oneNum es
      let o1 := (t.o.zip v).map (fun x => mixStep (codeNum x.1.toNat) em x.2 es)
      ({ m := m1, l := BitVec.ofNat 32 l1.1, o := o1.map (fun y => BitVec.ofNat 32 y.1) },
       o1.foldl (fun f y => f ||| y.2) (fl ||| l1.2))

/-- Two triples combined, left operand first (R286). -/
def combine (x y : Triple × BitVec 6) : Triple × BitVec 6 :=
  let a := x.1
  let b := y.1
  let num := fun (v : BitVec 32) => codeNum v.toNat
  let fl := x.2 ||| y.2
  match firstNan [num a.m, num a.l, num b.m, num b.l] with
  | some n => (nanTriple n a.o.length, fl ||| sigFlags [num a.m, num a.l, num b.m, num b.l])
  | none =>
    let m := maxCode a.m b.m
    let mv := (num m).val
    let one : Exact := ⟨false, 1, 0, false⟩
    let e1 := if mv = .inf true then one else osmPower (num a.m).val mv
    let e2 := if mv = .inf true then one else osmPower (num b.m).val mv
    let l := mixStep (num a.l) e1 (num b.l) e2
    let o := (a.o.zip b.o).map (fun z => mixStep (num z.1) e1 (num z.2) e2)
    ({ m := m, l := BitVec.ofNat 32 l.1, o := o.map (fun z => BitVec.ofNat 32 z.1) }, o.foldl (fun f z => f ||| z.2) (fl ||| l.2))

/-- The tree of R67 over participants in order. -/
def mergeTree {α : Type} (op : α → α → α) : Nat → List α → List α
  | 0, l => l
  | fuel + 1, l => if l.length ≤ 1 then l else mergeTree op fuel (treeLevel op l)

/-- a ÷ b (R60). -/
def divNums (a b : Num) : FOut :=
  match firstNan [a, b] with
  | some c => ⟨.nan c, sigFlags [a, b]⟩
  | none =>
    match a.val, b.val with
    | .inf _, .inf _ => invalid
    | .inf n, .fin m _ _ => ⟨.inf (n != m), 0⟩
    | .fin n _ _, .inf m => numOut (n != m) 0 0
    | .fin n x e, .fin m y g =>
      if y = 0 then (if x = 0 then invalid else ⟨.inf (n != m), flagDZ⟩)
      else
        let k := Nat.log2 y + 100
        numOut (n != m) (x * 2 ^ k / y) (e - g - k) (decide (x * 2 ^ k % y ≠ 0))
    | _, _ => invalid

/-- The record of ATTNPART from the root triple (R286): bytes, flags and sticky bits. -/
def attnRecord (rm npos : Nat) (t : Triple × BitVec 6) : List Byte × BitVec 6 × BitVec 5 :=
  let r := t.1
  let low := decide ((codeNum r.m.toNat).val = .inf true)
  let out : Lanes := if low then r.o.map (fun _ => (0, 0))
    else roundRuns 0 rm false (r.o.length + 1) (r.o.map (fun x => divNums (codeNum x.toNat) (codeNum r.l.toNat)))
  (leBytes 4 r.m.toNat ++ leBytes 4 r.l.toNat ++ leBytes 4 ((if npos = 0 then 1 else 0) + (if low then 2 else 0))
      ++ leBytes 4 npos ++ out.flatMap (fun v => leBytes 4 v.1),
   t.2 ||| orAll out, (if npos = 0 then 16 else 0) ||| (if low then 8 else 0))

/-- The reading phase of ATTNPART ends: the triples of the slices in increasing number, then the sink (R67, R286). -/
def attnDone (s : State) (id : Nat) (c : Cmd) (w : NearWork) : State :=
  let d := (opdAt c.raw 0).dim0
  let n := (opdAt c.raw 1).dim1 - rawField c.raw 116 0 32
  let sink : Triple × BitVec 6 := ({ m := BitVec.ofNat 32 (rawField c.raw 112 0 32), l := 0x3F800000, o := List.replicate d 0 }, 0)
  let root := match mergeTree combine 64 (w.triples.map (fun t => (t.2, (0 : BitVec 6)))) with
    | t :: _ => combine sink t
    | [] => sink
  let (bs, fl, stick) := attnRecord (cmdRm c.raw) n root
  formRecord s id w bs fl stick

/-- The next portion of row b of an operand, from element a on: to the next 64-byte boundary, and of a SCALED arena the rest of
the row, in one access with its page's header (R272, R279). -/
def rowPortion (s : State) (id : Nat) (c : Cmd) (o : Opd) (b a : Nat) : CEx (List (Nat × Nat) × State) := do
  let n := if isScaled s c.ctx o then o.dim0 - a
    else min (o.dim0 - a) (max 1 ((64 - elemAddr s c.ctx o a b 0 % 64) / max 1 (opdW o)))
  let (xs, s1) ← (List.range n).foldlM (fun (acc : List (Nat × Nat) × State) i => do
    let (x, s1) ← readRaw acc.2 id c o (a + i) b 0
    return (x :: acc.1, s1)) ([], s)
  return (xs.reverse, s1)

/-- Elements of a row that have been read, as numbers. -/
def rowNumbers (s : State) (c : Cmd) (o : Opd) (xs : List (Nat × Nat)) : List Num :=
  xs.map (fun x => let e := rawElem s c.ctx o x; ⟨outVal e.val, e.val.flags != 0⟩)

/-- The query row is there: the masked positions are passed over (R284). -/
def queryRead (s : State) (id : Nat) (c : Cmd) (w : NearWork) (xs : List Num) : State :=
  let k := opdAt c.raw 1
  let wlo := rawField c.raw 116 0 32
  let w1 := { w with row := [], query := xs.map (fun x => BitVec.ofNat 32 (rne32 (numRes x)).1) }
  let s1 := readOn s id (min wlo k.dim1) w1 (if xs.any (·.sig) && decide (wlo < k.dim1) then flagNV else 0)
  if k.dim1 ≤ wlo then attnDone s1 id c w1 else s1

/-- The key row and the value row of a position are there: the slice that homes the key row takes it (R285). -/
def positionRead (s : State) (id : Nat) (c : Cmd) (w : NearWork) (sl : Nat) (xs : List (Nat × Nat)) : State :=
  let k := opdAt c.raw 1
  let v := opdAt c.raw 2
  let qs := w.query.map (fun y => codeNum y.toNat)
  let (t, fl) := attnStep (BitVec.ofNat 32 (rawField c.raw 108 0 32)) qs (rowNumbers s c k (xs.take k.dim0))
    (rowNumbers s c v (xs.drop k.dim0)) (tabGet (emptyTriple k.dim0) w.triples sl)
  let w1 := { w with row := [], triples := tabPut w.triples sl t }
  let s1 := readOn s id 1 w1 fl
  if c.progress + 1 ≥ k.dim1 then attnDone s1 id c w1 else s1

/-- One read of ATTNPART: a portion of the query row, or of the key row and then the value row of a position. -/
def attnTurn (s : State) (id : Nat) (c : Cmd) : CEx State := do
  let w := nearWork c
  match w.record with
  | some r => writeRecord s id c w r
  | none =>
    let q := opdAt c.raw 0
    let k := opdAt c.raw 1
    let a := w.row.length
    if w.query = [] then
      let (xs, s1) ← rowPortion s id c q 0 a
      let row := w.row ++ xs
      return if row.length < q.dim0 then readOn s1 id 0 { w with row := row } else queryRead s1 id c w (rowNumbers s1 c q row)
    else
      let (x, s0) ← cmdXlat s id c (elemAddr s c.ctx k 0 c.progress 0) (opdW k) .read
      let (xs, s1) ← if a < k.dim0 then rowPortion s0 id c k c.progress a
        else rowPortion s0 id c (opdAt c.raw 2) c.progress (a - k.dim0)
      let row := w.row ++ xs
      return if row.length < 2 * k.dim0 then readOn s1 id 0 { w with row := row }
        else positionRead s1 id c w (homeSlice s1 x.pa x.leaf) row

/-- SELECT (KIND 0x20, R281). -/
def execSelect (cmd : Nat) (s : State) : Out := runKind [0x20] cmd s (fun s c => wholePortion s cmd c (selectTurn s cmd c))

/-- TOPK (KIND 0x21, R282). -/
def execTopk (cmd : Nat) (s : State) : Out := runKind [0x21] cmd s (fun s c => wholePortion s cmd c (topkTurn s cmd c))

/-- ATTNPART (KIND 0x22, R285). -/
def execAttnpart (cmd : Nat) (s : State) : Out := runKind [0x22] cmd s (fun s c => wholePortion s cmd c (attnTurn s cmd c))

/-! ### The meanings -/

/-- AGSET (OP 0xD0, R276). -/
def execAgset (f : FQ) (s : State) : Out := issueWord (.agset f) (bodyAgset f) s

/-- AGGET (OP 0xD1, R276). -/
def execAgget (f : FQ) (s : State) : Out := issueWord (.agget f) (bodyAgget f) s

/-- SLRES (OP 0xD2, R276). -/
def execSlres (f : FQ) (s : State) : Out := issueWord (.slres f) (bodySlres f) s

end Sys2Proof.Machine
end

