-- ==== Sys2Proof/Machine/Collect.lean ====
section
/-! DEFINITION. COLLECTIVE, and the flits that come over the fabric (R328, R329, R331, R332). -/

namespace Sys2Proof.Machine

/-! ### Participants (R332) -/

/-- The launch of a command's task. -/
def cmdLaunch (s : State) (c : Cmd) : Option Launch := c.launch.bind (tabFind s.launches)

/-- The devices of a command's launch domain in increasing number. -/
def cmdMembers (s : State) (c : Cmd) : List Nat :=
  match cmdLaunch s c with
  | some l => if l.members = [] then [s.device] else l.members
  | none => [s.device]

/-- RM of a COLLECTIVE. -/
def collRm (r : BitVec 1024) : Nat := rawField r 105 0 3

/-- Format of an instance, as its flits carry it: source FMT, 16 times the destination's, and 256 when RAW. -/
def collFmt (r : BitVec 1024) : Nat := (opdAt r 0).fmt + 16 * (opdAt r 1).fmt + (if (opdAt r 0).raw then 256 else 0)

/-- A part belongs to a command's instance. -/
def partOf (s : State) (c : Cmd) (p : CollPart) : Bool :=
  p.gen == ((cmdLaunch s c).map (·.gen)).getD 0 && p.tag == rawField c.raw 112 0 64 && p.inst == c.inst

/-- A part's instance differs in OP, RM, ROOT, format or N (R332). -/
def partDiffers (c : Cmd) (p : CollPart) : Bool :=
  p.op != rawField c.raw 104 0 8 || p.rm != collRm c.raw || p.root != rawField c.raw 108 0 32 || p.fmt != collFmt c.raw ||
    p.n != (opdAt c.raw 0).dim0

/-- Everything of a rank that the operation needs has come. -/
def rankHere (s : State) (c : Cmd) (r : Nat) : Bool :=
  let a := opdAt c.raw 0
  s.colls.any (fun p => partOf s c p && p.rank == r &&
    ((rawField c.raw 104 0 8 == 4 && r != rawField c.raw 108 0 32) || decide (a.dim0 * opdW a ≤ p.got)))

/-- OP of a COLLECTIVE. -/
def collOp (r : BitVec 1024) : Nat := rawField r 104 0 8

/-- The rank whose source GATHER or BCAST puts at destination element e, and where in it that element lies (R332). -/
def collFrom (c : Cmd) (e : Nat) : Nat × Nat :=
  let n := (opdAt c.raw 0).dim0
  if collOp c.raw = 3 then (e / n, e % n) else (rawField c.raw 108 0 32, e)

/-- Where in every rank's source the element of a sum lies: RSUM leaves the part of its own rank (R332). -/
def sumIndex (c : Cmd) (me e : Nat) : Nat := if collOp c.raw = 2 then me * (opdAt c.raw 1).dim0 + e else e

/-- Codes of `n` elements of a rank's source from element i on, this device's own among them, from its part. -/
def rankCodes (s : State) (c : Cmd) (r i n : Nat) : List Nat :=
  let w := opdW (opdAt c.raw 0)
  match s.colls.find? (fun p => partOf s c p && p.rank == r) with
  | some p => (List.range n).map (fun j => leNat (Memory.readBytes p.bytes ((i + j) * w) w))
  | none => List.replicate n 0

/-- One node of the tree over a run of elements: a rounded sum, or FMAX (R67, R332, R154). -/
def collNode (op fmt rm : Nat) (x y : List Nat × BitVec 6) : List Nat × BitVec 6 :=
  let out : Lanes :=
    if op = 1 then (x.1.zip y.1).map (fun z => floatPick fmt true z.1 z.2)
    else roundLanes fmt rm false ((x.1.zip y.1).map (fun z => some (addNums rm (readElem fmt z.1) (readElem fmt z.2))))
  (out.map (·.1), x.2 ||| y.2 ||| orAll out)

/-- The results of destination elements e to e + n − 1, with their flags (R332). -/
def collLanes (s : State) (c : Cmd) (me ranks e n : Nat) : List Nat × BitVec 6 :=
  let a := opdAt c.raw 0
  let b := opdAt c.raw 1
  if collOp c.raw ≤ 2 then
    let vs := (List.range ranks).map (fun r => (rankCodes s c r (sumIndex c me e) n, (0 : BitVec 6)))
    (mergeTree (collNode (collOp c.raw) a.fmt (collRm c.raw)) ranks vs).headD ([], 0)
  else
    let v := rankCodes s c (collFrom c e).1 (collFrom c e).2 n
    if a.raw || a.fmt == b.fmt then (v, 0)
    else
      let out := roundLanes b.fmt 0 (isIntFmt a.fmt) (v.map (fun x => some (numRes (readElem a.fmt x))))
      (out.map (·.1), orAll out)

/-- Sends `k` flits to a device; none when no port leads there. -/
def sendFlits (s : State) (dev : Nat) : Nat → Sending → Option Sending
  | 0, x => some x
  | k + 1, x => (x.one s dev).bind (sendFlits s dev k)

/-- Sends `k` flits to each of several devices. -/
def sendAll (s : State) (k : Nat) : List Nat → Sending → Option Sending
  | [], x => some x
  | d :: ds, x => (sendFlits s d k x).bind (sendAll s k ds)

/-- Elements of its source that a device reads and sends: all, but none of BCAST on another rank than ROOT (R332). -/
def collSource (c : Cmd) (me : Nat) : Nat :=
  if collOp c.raw = 4 ∧ me ≠ rawField c.raw 108 0 32 then 0 else (opdAt c.raw 0).dim0

/-- Flits to one device that carry the first `fed` of `src` elements of a source, 224 bytes each (R328): the last, or the one of
an empty source, goes once they are all read. -/
def flitsOf (c : Cmd) (src fed : Nat) : Nat :=
  let w := opdW (opdAt c.raw 0)
  if src ≤ fed then max 1 ((src * w + 223) / 224) else fed * w / 224

/-- The elements that are formed together, first and one past the last: none of GATHER reaches past one rank's elements. -/
def collRun (s : State) (c : Cmd) (e : Nat) : Nat × Nat :=
  let n := (opdAt c.raw 0).dim0
  let (lo, hi) := runOf s c (opdAt c.raw 1) e (opdAt c.raw 1).dim0 (collRm c.raw)
  if collOp c.raw = 3 then (max lo (e / n * n), min hi (e / n * n + n)) else (lo, hi)

/-- Codes of `n` elements of the device's own source from element i on, one read. -/
def sourceCodes (id : Nat) (c : Cmd) : Nat → Nat → State → CEx (List Nat × State)
  | 0, _, s => .ok ([], s)
  | n + 1, i, s => do
    let (x, s1) ← readRaw s id c (opdAt c.raw 0) i 0 0
    let (xs, s2) ← sourceCodes id c n (i + 1) s1
    return (x.1 :: xs, s2)

/-- One write of the destination, of a 64-byte portion (R202). -/
def collPortion (s : State) (id : Nat) (c : Cmd) (me ranks : Nat) : CEx State := do
  let b := opdAt c.raw 1
  let e := c.progress
  let (lo, hi) := collRun s c e
  let (codes, fl) := collLanes s c me ranks lo (hi - lo)
  let n := chunkLen s c b e hi
  let mine := (codes.drop (e - lo)).take n
  let s1 ← writeElems id c b (opdW b) none (n + 1) e mine s
  return portionDone s1 id n fl (codesFit b mine)

/-- The destination is written and every flit is acknowledged (R332): the parts go, and the command can retire. -/
def collDone (s : State) (id : Nat) (c : Cmd) : State :=
  allWritten { s with colls := s.colls.filter (fun p => !partOf s c p) } id

/-- Bytes of a participant's source. -/
def addPart (s : State) (new : CollPart) (off : Nat) (bs : List Byte) : State :=
  let same := fun (p : CollPart) => p.gen == new.gen && p.tag == new.tag && p.inst == new.inst && p.rank == new.rank
  let old := (s.colls.find? same).getD new
  { s with colls := { old with bytes := Memory.writeBytes old.bytes off bs, got := old.got + bs.length } ::
            s.colls.filter (fun p => !same p) }

/-- The device's own part of an instance, as it begins. -/
def ownPart (s : State) (c : Cmd) (me : Nat) : CollPart :=
  { gen := ((cmdLaunch s c).map (·.gen)).getD 0, tag := rawField c.raw 112 0 64, inst := c.inst, rank := me,
    op := collOp c.raw, rm := collRm c.raw, root := rawField c.raw 108 0 32, fmt := collFmt c.raw,
    n := (opdAt c.raw 0).dim0, bytes := [], got := 0 }

/-- Elements of the source that the next read takes: those of a 64-byte portion (R202). -/
def feedLen (s : State) (c : Cmd) (me : Nat) : Nat := chunkLen s c (opdAt c.raw 0) c.fed (collSource c me)

/-- One read of the device's own source, of a 64-byte portion, and the flits to the other devices that it fills (R202, R328,
R332). -/
def collFeed (s : State) (id : Nat) (c : Cmd) (me : Nat) (others : List Nat) : CEx State := do
  let n := feedLen s c me
  let (xs, s1) ← sourceCodes id c n c.fed s
  let w := opdW (opdAt c.raw 0)
  let due := flitsOf c (collSource c me) (c.fed + n)
  match sendAll s1 (due - c.sent / max 1 others.length) others (sending s1 c) with
  | none => cerr s1 41
  | some x =>
    let s2 := addPart (sentOn s1 id x) (ownPart s1 c me) (c.fed * w) (xs.flatMap (leBytes w))
    return modCmd s2 id (fun y => { y with fed := c.fed + n, sent := others.length * due })

/-- The source is read and sent. -/
def collFed (c : Cmd) (me others : Nat) : Bool :=
  decide (collSource c me ≤ c.fed) && decide (others * flitsOf c (collSource c me) c.fed ≤ c.sent)

/-- A turn of COLLECTIVE among several devices: the source is read and sent first, portion by portion; then, once every
other source has come, one portion of the destination is written; last come the acknowledgements. No pin is held while others
are awaited (R125). -/
def collTurn (s : State) (id : Nat) (c : Cmd) (members : List Nat) : CEx State := do
  let b := opdAt c.raw 1
  let me := (members.filter (fun d => decide (d < s.device))).length
  let others := (List.range members.length).filter (· != me)
  let waits := modCmd s id (fun x => { x with pins := [] })
  if s.colls.any (fun p => partOf s c p && partDiffers c p) then cerr s 30
  else if !collFed c me others.length then
    let s1 ← collFeed s id c me (members.filter (· != s.device))
    return releasePortion s1 id
  else if !others.all (rankHere s c) then .error (.hold waits)
  else if c.progress < b.dim0 then
    let s1 ← collPortion s id c me members.length
    return releasePortion s1 id
  else if c.sent ≤ c.acks then return collDone s id c
  else .error (.hold waits)

/-- A launch on one device alone copies the source, converted (R332). -/
def collAlone (s : State) (id : Nat) (c : Cmd) : CEx State := do
  let d := opdAt c.raw 1
  let s1 ← portionTurn s id c d none c.progress d.dim0 (collRm c.raw)
  return turnDone s1 id d.dim0

/-- COLLECTIVE (KIND 0x30, R332). -/
def execCollective (cmd : Nat) (s : State) : Out :=
  runKind [0x30] cmd s (fun s c =>
    let ms := cmdMembers s c
    wholePortion s cmd c (if ms.length ≤ 1 then collAlone s cmd c else collTurn s cmd c ms))

/-! ### Flits (R328, R329) -/

/-- Pages of a range that an access of another device reaches: their physical places; none when one of them fails. -/
def remotePages (s : State) (ctx : Nat) (acc : Access) : Nat → Nat → Nat → Option (List (Nat × Nat))
  | 0, _, _ => some []
  | fuel + 1, va, n =>
    if n = 0 then some []
    else
      let k := pagePart va n
      match walk s ctx va acc .user, remotePages s ctx acc fuel (va + k) (n - k) with
      | .ok x, some rest => some ((x.pa, k) :: rest)
      | _, _ => none

/-- A write of another device under its context's number (R329). One that cannot be translated writes nothing. -/
def remoteWrite (s : State) (ctx va : Nat) (bs : List Byte) : State :=
  if Config.vaEnd < va + bs.length then s
  else
    match remotePages s ctx .write (pagesOf bs.length) va bs.length with
    | none => s
    | some ps => (ps.foldl (fun (acc : List Byte × State) p => (acc.1.drop p.2, paWrite acc.2 p.1 (acc.1.take p.2))) (bs, s)).2

/-- A command's flit of a sequence number has been acknowledged, and is no longer in flight. -/
def Cmd.acked (c : Cmd) (seq : Nat) : Cmd :=
  if c.flights.any (·.1 == seq) then { c with acks := c.acks + 1, flights := c.flights.filter (·.1 != seq) } else c

/-- What a flit for this device does. Answers to reads and writes of other devices leave over the fabric, which the model does
not show. -/
def takeFlit (s : State) (f : Flit) : State :=
  match f.body with
  | .data cmd bytes => modCmd s cmd (fun c => { c with inbox := c.inbox ++ bytes, flights := [] })
  | .ack cmd seq => modCmd s cmd (fun c => c.acked seq)
  | .failed cmd cond =>
    match tabFind s.cmds cmd with
    | some c => if c.flights = [] then s else failCmd s cmd cond
    | none => s
  | .read _ _ _ => s
  | .write ctx va bytes => remoteWrite s ctx va bytes
  | .collective tag inst rank op rm root fmt n off bytes =>
    addPart s { gen := f.gen, tag := tag.toNat, inst := inst, rank := rank, op := op, rm := rm, root := root, fmt := fmt,
                n := n, bytes := [], got := 0 } off bytes

/-- FLIT_RECEIVE (R328): a CRC error is retried by the link, and a flit for another device is dropped and counted. -/
def execFlitReceive (port : Nat) (flit : Flit) (s : State) : Out :=
  if s.fabDown.contains port || !flit.crcOk then .next s
  else if flit.dest ≠ s.device then .next { s with misroute := s.misroute + 1 }
  else .next (takeFlit s flit)

/-- FABRIC_PORT_DOWN (R328): every command with flits in flight on the port ends with LINKERR. -/
def execFabricPortDown (port : Nat) (s : State) : Out :=
  let s1 := if s.fabDown.contains port then s else { s with fabDown := port :: s.fabDown }
  .next ((s1.cmds.filter (fun e => e.2.flights.any (·.2 == port))).foldl (fun x e => failCmd x e.1 41) s1)

end Sys2Proof.Machine
end

