-- ==== Sys2Proof/Decode.lean ====
section
/-! DEFINITION. Decoding a word, total and rejecting by name, and the encoder, both from the format table
(R28), the opcode map (R36) and the decode order (R41). -/

namespace Sys2Proof

/-- Why a word is no well-formed instruction. -/
inductive Reject where
  /-- Check 7 of R41 fails on the form given. -/
  | badField (i : Instr)
  deriving DecidableEq, Repr

/-- A row of the opcode map: how a word of the slot becomes an instruction. -/
inductive Slotting where
  | r (mk : FR → Instr)
  | i (mk : FI → Instr)
  | b (mk : FB → Instr)
  | m (mk : FM → Instr)
  | g (mk : FG → Instr)
  | l (mk : FL → Instr)
  | q (mk : FQ → Instr)
  | x (mk : FX → Instr)
  | p (mk : FP → Instr)
  | s (mk : FS → Instr)
  | d (mk : FD → Instr)

/-- The fields of format F-R (R28). -/
def unpackFR (w : Word) : FR where
  rd := w.extractLsb' 50 6
  ra := w.extractLsb' 44 6
  rb := w.extractLsb' 38 6
  rc := w.extractLsb' 32 6
  fn := w.extractLsb' 24 8
  sync := w.extractLsb' 0 4

/-- The word of format F-R with the opcode and fields given, zero bits zero (R28). -/
def packFR (op : BitVec 8) (f : FR) : Word :=
  op ++ f.rd ++ f.ra ++ f.rb ++ f.rc ++ f.fn ++ (0 : BitVec 20) ++ f.sync

/-- The fields of format F-I (R28). -/
def unpackFI (w : Word) : FI where
  rd := w.extractLsb' 50 6
  ra := w.extractLsb' 44 6
  imm := w.extractLsb' 4 40
  sync := w.extractLsb' 0 4

/-- The word of format F-I with the opcode and fields given, zero bits zero (R28). -/
def packFI (op : BitVec 8) (f : FI) : Word :=
  op ++ f.rd ++ f.ra ++ f.imm ++ f.sync

/-- The fields of format F-B (R28). -/
def unpackFB (w : Word) : FB where
  cond := w.extractLsb' 52 4
  ra := w.extractLsb' 46 6
  rb := w.extractLsb' 40 6
  off := w.extractLsb' 4 32
  sync := w.extractLsb' 0 4

/-- The word of format F-B with the opcode and fields given, zero bits zero (R28). -/
def packFB (op : BitVec 8) (f : FB) : Word :=
  op ++ f.cond ++ f.ra ++ f.rb ++ (0 : BitVec 4) ++ f.off ++ f.sync

/-- The fields of format F-M (R28). -/
def unpackFM (w : Word) : FM where
  rd := w.extractLsb' 50 6
  ar := w.extractLsb' 46 4
  rx := w.extractLsb' 40 6
  sz := w.extractLsb' 38 2
  sh := w.extractLsb' 34 4
  ord := w.extractLsb' 32 2
  wb := w.extractLsb' 22 10
  disp := w.extractLsb' 4 18
  sync := w.extractLsb' 0 4

/-- The word of format F-M with the opcode and fields given, zero bits zero (R28). -/
def packFM (op : BitVec 8) (f : FM) : Word :=
  op ++ f.rd ++ f.ar ++ f.rx ++ f.sz ++ f.sh ++ f.ord ++ f.wb ++ f.disp ++ f.sync

/-- The fields of format F-G (R28). -/
def unpackFG (w : Word) : FG where
  rd := w.extractLsb' 50 6
  rb := w.extractLsb' 44 6
  rx := w.extractLsb' 38 6
  sz := w.extractLsb' 36 2
  sh := w.extractLsb' 32 4
  ord := w.extractLsb' 30 2
  scope := w.extractLsb' 27 3
  aop := w.extractLsb' 22 5
  disp := w.extractLsb' 4 18
  sync := w.extractLsb' 0 4

/-- The word of format F-G with the opcode and fields given, zero bits zero (R28). -/
def packFG (op : BitVec 8) (f : FG) : Word :=
  op ++ f.rd ++ f.rb ++ f.rx ++ f.sz ++ f.sh ++ f.ord ++ f.scope ++ f.aop ++ f.disp ++ f.sync

/-- The fields of format F-L (R28). -/
def unpackFL (w : Word) : FL where
  ld := w.extractLsb' 44 12
  la := w.extractLsb' 32 12
  lb := w.extractLsb' 20 12
  ty := w.extractLsb' 16 4
  rm := w.extractLsb' 13 3
  pred := w.extractLsb' 10 3
  pe := w.extractLsb' 9 1
  pn := w.extractLsb' 8 1
  fn := w.extractLsb' 4 4
  sync := w.extractLsb' 0 4

/-- The word of format F-L with the opcode and fields given, zero bits zero (R28). -/
def packFL (op : BitVec 8) (f : FL) : Word :=
  op ++ f.ld ++ f.la ++ f.lb ++ f.ty ++ f.rm ++ f.pred ++ f.pe ++ f.pn ++ f.fn ++ f.sync

/-- The fields of format F-Q (R28). -/
def unpackFQ (w : Word) : FQ where
  qn := w.extractLsb' 52 4
  ar := w.extractLsb' 48 4
  rc := w.extractLsb' 42 6
  aux := w.extractLsb' 32 10
  wb := w.extractLsb' 22 10
  disp := w.extractLsb' 4 18
  sync := w.extractLsb' 0 4

/-- The word of format F-Q with the opcode and fields given, zero bits zero (R28). -/
def packFQ (op : BitVec 8) (f : FQ) : Word :=
  op ++ f.qn ++ f.ar ++ f.rc ++ f.aux ++ f.wb ++ f.disp ++ f.sync

/-- The fields of format F-X (R28). -/
def unpackFX (w : Word) : FX where
  an := w.extractLsb' 52 3
  ar1 := w.extractLsb' 48 4
  ar2 := w.extractLsb' 44 4
  rk := w.extractLsb' 38 6
  fn := w.extractLsb' 32 6
  wb := w.extractLsb' 22 10
  tw := w.extractLsb' 18 4
  ta := w.extractLsb' 14 4
  flags := w.extractLsb' 4 10
  sync := w.extractLsb' 0 4

/-- The word of format F-X with the opcode and fields given, zero bits zero (R28). -/
def packFX (op : BitVec 8) (f : FX) : Word :=
  op ++ (0 : BitVec 1) ++ f.an ++ f.ar1 ++ f.ar2 ++ f.rk ++ f.fn ++ f.wb ++ f.tw ++ f.ta ++ f.flags ++ f.sync

/-- The fields of format F-P (R28). -/
def unpackFP (w : Word) : FP where
  cnt := w.extractLsb' 46 10
  sd := w.extractLsb' 42 4
  sa := w.extractLsb' 38 4
  sb := w.extractLsb' 34 4
  sync := w.extractLsb' 0 4

/-- The word of format F-P with the opcode and fields given, zero bits zero (R28). -/
def packFP (op : BitVec 8) (f : FP) : Word :=
  op ++ f.cnt ++ f.sd ++ f.sa ++ f.sb ++ (0 : BitVec 30) ++ f.sync

/-- The fields of format F-S (R28). -/
def unpackFS (w : Word) : FS where
  fn8 := w.extractLsb' 48 8
  ra := w.extractLsb' 42 6
  rb := w.extractLsb' 36 6
  imm := w.extractLsb' 4 32
  sync := w.extractLsb' 0 4

/-- The word of format F-S with the opcode and fields given, zero bits zero (R28). -/
def packFS (op : BitVec 8) (f : FS) : Word :=
  op ++ f.fn8 ++ f.ra ++ f.rb ++ f.imm ++ f.sync

/-- The fields of format F-D (R28). -/
def unpackFD (w : Word) : FD where
  len := w.extractLsb' 40 16

/-- The word of format F-D with the opcode and fields given, zero bits zero (R28). -/
def packFD (op : BitVec 8) (f : FD) : Word :=
  op ++ f.len ++ (0 : BitVec 40)

/-- The bits a format leaves zero are zero (R28, R9). -/
def zeroBitsOk : Slotting → Word → Bool
  | .r _, w => w.extractLsb' 4 20 == 0
  | .i _, _ => true
  | .b _, w => w.extractLsb' 36 4 == 0
  | .m _, _ => true
  | .g _, _ => true
  | .l _, _ => true
  | .q _, _ => true
  | .x _, w => w.extractLsb' 55 1 == 0
  | .p _, w => w.extractLsb' 4 30 == 0
  | .s _, _ => true
  | .d _, w => w.extractLsb' 0 40 == 0

/-- The instruction a slot reads from a word. -/
def slotRead : Slotting → Word → Instr
  | .r mk, w => mk (unpackFR w)
  | .i mk, w => mk (unpackFI w)
  | .b mk, w => mk (unpackFB w)
  | .m mk, w => mk (unpackFM w)
  | .g mk, w => mk (unpackFG w)
  | .l mk, w => mk (unpackFL w)
  | .q mk, w => mk (unpackFQ w)
  | .x mk, w => mk (unpackFX w)
  | .p mk, w => mk (unpackFP w)
  | .s mk, w => mk (unpackFS w)
  | .d mk, w => mk (unpackFD w)

/-- The row of slot 0x99 that a word belongs to. -/
def selAccspill (f : FX) : Instr := if f.flags.extractLsb' 1 1 == 1 then .accspillOther f else .accspill f

/-- The row of slot 0x9A that a word belongs to. -/
def selAccfill (f : FX) : Instr := if f.flags.extractLsb' 1 1 == 1 then .accfillOther f else .accfill f

/-- The row of slot 0xA6 that a word belongs to. -/
def selSpawn (f : FQ) : Instr := if f.qn == 1 then .spawnVa f else .spawnSeg f

/-- The row of slot 0xC4 that a word belongs to. -/
def selAcqbuf (f : FQ) : Instr := if f.aux.extractLsb' 0 1 == 1 then .acqbufC f else .acqbufP f

/-- The row of slot 0xF4 that a word belongs to. -/
def selPreempt (f : FS) : Instr := if f.fn8 == 1 then .preemptR f else .preemptK f

/-- The row of slot 0xF7 that a word belongs to. -/
def selSemmap (f : FS) : Instr := if f.fn8 == 1 then .semmapUnmap f else .semmapMap f

/-- The row of slot 0xC5: the SET bit, then the side (R264). -/
def selRelbuf (f : FQ) : Instr :=
  if f.aux.extractLsb' 1 1 == 1 then .relbufSet f
  else if f.aux.extractLsb' 0 1 == 1 then .relbufC f else .relbufP f

/-- The row of slot 0xF3, by FN8; an FN8 without a row goes to the last one, which refuses it. -/
def selTlbinv (f : FS) : Instr :=
  match f.fn8.toNat with
  | 0 => .tlbinvVa f
  | 1 => .tlbinvCtx f
  | _ => .tlbinvAll f

/-- The row of slot 0xFA, by FN8; an FN8 without a row goes to the last one, which refuses it. -/
def selDbgscan (f : FS) : Instr :=
  match f.fn8.toNat with
  | 0 => .dbgscanOut f
  | 1 => .dbgscanIn f
  | _ => .dbgscanRun f

/-- The row of slot 0xF8, by FN8; an FN8 without a row goes to the last one, which refuses it. -/
def selPartset (f : FS) : Instr :=
  match f.fn8.toNat with
  | 0 => .partsetDef f
  | 1 => .partsetDel f
  | 2 => .partsetVfquota f
  | _ => .partsetVfused f

/-- The row of slot 0xF9, by FN8; an FN8 without a row goes to the last one, which refuses it. -/
def selCtxld (f : FS) : Instr :=
  match f.fn8.toNat with
  | 0 => .ctxldLoad f
  | 1 => .ctxldDestroy f
  | 2 => .ctxldHold f
  | _ => .ctxldRelease f

/-- Group 0x0_ of the opcode map (R36). -/
def slotsOf0 : Nat → Option Slotting
  | 0x01 => some (.r .nop)
  | 0x02 => some (.b .br)
  | 0x03 => some (.b .bcc)
  | 0x04 => some (.b .bcall)
  | 0x05 => some (.r .jr)
  | 0x06 => some (.r .jrl)
  | 0x07 => some (.b .loop)
  | 0x08 => some (.p .rep)
  | 0x09 => some (.s .fork)
  | 0x0A => some (.q .rdv)
  | 0x0B => some (.r .endTask)
  | 0x0C => some (.r .yield)
  | 0x0D => some (.q .tkgive)
  | 0x0E => some (.q .tktake)
  | 0x0F => some (.q .tkcnt)
  | _ => none

/-- Group 0x1_ of the opcode map (R36). -/
def slotsOf1 : Nat → Option Slotting
  | 0x10 => some (.r .add)
  | 0x11 => some (.r .sub)
  | 0x12 => some (.r .mul)
  | 0x13 => some (.r .mulh)
  | 0x14 => some (.r .div)
  | 0x15 => some (.r .rem)
  | 0x16 => some (.r .and)
  | 0x17 => some (.r .or)
  | 0x18 => some (.r .xor)
  | 0x19 => some (.r .shl)
  | 0x1A => some (.r .shr)
  | 0x1B => some (.r .sar)
  | 0x1C => some (.r .min)
  | 0x1D => some (.r .max)
  | 0x1E => some (.r .setcc)
  | 0x1F => some (.r .sel)
  | _ => none

/-- Group 0x2_ of the opcode map (R36). -/
def slotsOf2 : Nat → Option Slotting
  | 0x20 => some (.i .addi)
  | 0x21 => some (.i .andi)
  | 0x22 => some (.i .ori)
  | 0x23 => some (.i .xori)
  | 0x24 => some (.i .shli)
  | 0x25 => some (.i .shri)
  | 0x26 => some (.i .sari)
  | 0x27 => some (.i .setcci)
  | 0x28 => some (.i .limm)
  | 0x29 => some (.i .limmh)
  | 0x2A => some (.r .clz)
  | 0x2B => some (.r .popc)
  | _ => none

/-- Group 0x3_ of the opcode map (R36). -/
def slotsOf3 : Nat → Option Slotting
  | 0x30 => some (.i .amake)
  | 0x31 => some (.r .aoff)
  | 0x32 => some (.i .aoffi)
  | 0x33 => some (.r .agets)
  | 0x34 => some (.r .ageto)
  | 0x35 => some (.i .csrr)
  | 0x36 => some (.i .csrw)
  | 0x37 => some (.i .csrset)
  | 0x38 => some (.i .csrclr)
  | _ => none

/-- Group 0x4_ of the opcode map (R36). -/
def slotsOf4 : Nat → Option Slotting
  | 0x40 => some (.m .ld)
  | 0x41 => some (.m .st)
  | 0x42 => some (.q .ldl)
  | 0x43 => some (.q .stl)
  | 0x44 => some (.r .scopy)
  | 0x45 => some (.r .szero)
  | 0x46 => some (.r .salloc)
  | 0x47 => some (.r .sfree)
  | 0x48 => some (.r .sgrow)
  | 0x49 => some (.r .sattr)
  | 0x4A => some (.r .squery)
  | 0x4B => some (.r .srecall)
  | 0x4C => some (.r .spush)
  | _ => none

/-- Group 0x5_ of the opcode map (R36). -/
def slotsOf5 : Nat → Option Slotting
  | 0x50 => some (.q .qrd)
  | 0x51 => some (.q .qwr)
  | 0x52 => some (.q .qcnt)
  | 0x53 => some (.l .movl)
  | 0x54 => some (.l .bcast)
  | 0x55 => some (.l .extr)
  | 0x56 => some (.l .ins)
  | 0x57 => some (.l .limml)
  | _ => none

/-- Group 0x6_ of the opcode map (R36). -/
def slotsOf6 : Nat → Option Slotting
  | 0x60 => some (.l .fadd)
  | 0x61 => some (.l .fsub)
  | 0x62 => some (.l .fmul)
  | 0x63 => some (.l .fma)
  | 0x64 => some (.l .fmax)
  | 0x65 => some (.l .fmin)
  | 0x66 => some (.l .fabs)
  | 0x67 => some (.l .fneg)
  | 0x68 => some (.l .fexp2)
  | 0x69 => some (.l .flog2)
  | 0x6A => some (.l .frcp)
  | 0x6B => some (.l .frsq)
  | 0x6C => some (.l .fcvt)
  | 0x6D => some (.l .fscale)
  | _ => none

/-- Group 0x7_ of the opcode map (R36). -/
def slotsOf7 : Nat → Option Slotting
  | 0x70 => some (.l .iadd)
  | 0x71 => some (.l .isub)
  | 0x72 => some (.l .imul)
  | 0x73 => some (.l .imad)
  | 0x74 => some (.l .iand)
  | 0x75 => some (.l .ior)
  | 0x76 => some (.l .ixor)
  | 0x77 => some (.l .ishl)
  | 0x78 => some (.l .ishr)
  | 0x79 => some (.l .imin)
  | 0x7A => some (.l .imax)
  | 0x7B => some (.l .fcmp)
  | 0x7C => some (.l .icmp)
  | 0x7D => some (.l .pset)
  | 0x7E => some (.l .psel)
  | _ => none

/-- Group 0x8_ of the opcode map (R36). -/
def slotsOf8 : Nat → Option Slotting
  | 0x80 => some (.l .redsum)
  | 0x81 => some (.l .redmax)
  | 0x82 => some (.l .redmin)
  | 0x83 => some (.l .scanadd)
  | 0x84 => some (.l .perm)
  | 0x85 => some (.l .bppack)
  | 0x86 => some (.l .bpunp)
  | 0x87 => some (.l .osminit)
  | 0x88 => some (.l .osmx)
  | _ => none

/-- Group 0x9_ of the opcode map (R36). -/
def slotsOf9 : Nat → Option Slotting
  | 0x90 => some (.x .mldw)
  | 0x91 => some (.x .mswap)
  | 0x92 => some (.x .mstream)
  | 0x93 => some (.x .mrank1)
  | 0x94 => some (.x .acczero)
  | 0x95 => some (.x .accrd)
  | 0x96 => some (.x .accwr)
  | 0x97 => some (.x .accpin)
  | 0x98 => some (.x .accunpin)
  | 0x99 => some (.x selAccspill)
  | 0x9A => some (.x selAccfill)
  | 0x9B => some (.x .gdelta)
  | 0x9C => some (.x .gdread)
  | _ => none

/-- Group 0xA_ of the opcode map (R36). -/
def slotsOfA : Nat → Option Slotting
  | 0xA0 => some (.q .ecmd)
  | 0xA1 => some (.q .ewait)
  | 0xA2 => some (.q .epoll)
  | 0xA3 => some (.q .elink)
  | 0xA4 => some (.q .ekick)
  | 0xA5 => some (.q .eqstat)
  | 0xA6 => some (.q selSpawn)
  | 0xA7 => some (.q .withdraw)
  | 0xA8 => some (.r .ttread)
  | 0xA9 => some (.r .skewack)
  | _ => none

/-- Group 0xB_ of the opcode map (R36). -/
def slotsOfB : Nat → Option Slotting
  | 0xB0 => some (.g .ldg)
  | 0xB1 => some (.g .stg)
  | 0xB2 => some (.g .atg)
  | 0xB3 => some (.g .prefg)
  | 0xB4 => some (.g .fence)
  | _ => none

/-- Group 0xC_ of the opcode map (R36). -/
def slotsOfC : Nat → Option Slotting
  | 0xC0 => some (.m .atl)
  | 0xC1 => some (.q .sempost)
  | 0xC2 => some (.q .semwait)
  | 0xC3 => some (.q .semtry)
  | 0xC4 => some (.q selAcqbuf)
  | 0xC5 => some (.q selRelbuf)
  | 0xC6 => some (.q .ringwait)
  | 0xC7 => some (.q .ringpost)
  | 0xC8 => some (.q .bar)
  | _ => none

/-- Group 0xD_ of the opcode map (R36). -/
def slotsOfD : Nat → Option Slotting
  | 0xD0 => some (.q .agset)
  | 0xD1 => some (.q .agget)
  | 0xD2 => some (.q .slres)
  | _ => none

/-- Group 0xF_ of the opcode map (R36). -/
def slotsOfF : Nat → Option Slotting
  | 0xF0 => some (.s .trap)
  | 0xF1 => some (.s .eret)
  | 0xF2 => some (.s .wfe)
  | 0xF3 => some (.s selTlbinv)
  | 0xF4 => some (.s selPreempt)
  | 0xF5 => some (.s .qkill)
  | 0xF6 => some (.s .preset)
  | 0xF7 => some (.s selSemmap)
  | 0xF8 => some (.s selPartset)
  | 0xF9 => some (.s selCtxld)
  | 0xFA => some (.s selDbgscan)
  | 0xFE => some (.d .pool)
  | _ => none

/-- The opcode map: the form of a slot, none where it is reserved (R36). -/
def slotOf (op : Nat) : Option Slotting :=
  match op / 16 with
  | 0 => slotsOf0 op
  | 1 => slotsOf1 op
  | 2 => slotsOf2 op
  | 3 => slotsOf3 op
  | 4 => slotsOf4 op
  | 5 => slotsOf5 op
  | 6 => slotsOf6 op
  | 7 => slotsOf7 op
  | 8 => slotsOf8 op
  | 9 => slotsOf9 op
  | 10 => slotsOfA op
  | 11 => slotsOfB op
  | 12 => slotsOfC op
  | 13 => slotsOfD op
  | 15 => slotsOfF op
  | _ => none

/-- Reads an instruction from a word in the order of R41. The all-zero word is `zeroword`, a word in a reserved
slot `illop`, a word with OP 0xFE `pool` whatever its other bits (R37). -/
def decode (w : Word) : Except Reject Instr :=
  if w = 0 then .ok .zeroword
  else
    match slotOf (w.extractLsb' 56 8).toNat with
    | none => .ok (.illop w)
    | some sl =>
      let i := slotRead sl w
      if (w.extractLsb' 56 8) = 0xFE then .ok i
      else if zeroBitsOk sl w && Machine.fieldsOk i then .ok i
      else .error (.badField i)

/-- The word of fields in a format. -/
def packForm (op : BitVec 8) : Machine.Form → Word
  | .r f => packFR op f
  | .i f => packFI op f
  | .b f => packFB op f
  | .m f => packFM op f
  | .g f => packFG op f
  | .l f => packFL op f
  | .q f => packFQ op f
  | .x f => packFX op f
  | .p f => packFP op f
  | .s f => packFS op f
  | .d f => packFD op f

/-- The word of an instruction form, from the same tables (R28, R36). An event has no word. -/
def encode (i : Instr) : Word :=
  match i with
  | .illop w => w
  | _ =>
    match Machine.formOf i with
    | some (op, f) => packForm op f
    | none => 0

/-- What the decoder reads from an instruction whose bits are `w` as the opcode table numbers them: one 64-bit
word, bits above `nbits` zero. None where it refuses. -/
def decodeTableWord (nbits w : Nat) : Option Instr :=
  match decode (BitVec.ofNat 64 (if nbits < 64 then w % 2 ^ nbits else w)) with
  | .ok i => some i
  | .error _ => none

end Sys2Proof
end

