-- ==== Sys2Proof/Machine/Fetch.lean ====
section
/-! DEFINITION. Fetching: the instruction cache of a tile, the fill of a missed block, and the word at a PC
(R41 check 1, R42, R71). -/

namespace Sys2Proof.Machine

/-- The leaf lets a strand fetch: by its mode, and for a handler's first block from a SUP page alone (R240, R313). -/
def fetchOk (leaf : Word) (st : Strand) : Bool := permOk leaf .fetch st.mode && (!st.entering || leafBit leaf 5)

/-- A cached block serves a fetch of a strand; the permission is judged at each use (R41, R240). -/
def blockServes (ctx va : Nat) (st : Strand) (b : FetchBlock) : Bool :=
  b.ctx == ctx && b.va == va && fetchOk b.leaf st

/-- The block that holds a PC, if it is present. -/
def findBlock (s : State) (c : CoreId) (pc : Nat) : Option FetchBlock :=
  (getTile s (coreTile s c)).icache.find? (blockServes (ctxNo s c) (pc / 64 * 64) (getStrand s c))

/-- The word at a PC, if its block is present. -/
def wordAt (s : State) (c : CoreId) (pc : Nat) : Option Word :=
  (findBlock s c pc).bind (fun b => b.words[pc % 64 / 8]?)

/-- Blocks an instruction cache holds (02_device). -/
abbrev icacheBlocks : Nat := 1024

/-- Puts a block into the instruction cache of a tile, dropping the oldest beyond its capacity. -/
def cacheBlock (s : State) (tile : Nat) (b : FetchBlock) : State :=
  modTile s tile (fun x => { x with
    icache := (b :: x.icache.filter (fun y => !(y.ctx == b.ctx && y.va == b.va))).take icacheBlocks })

/-- The word that a core's PC names: from its cache, or as a fetch would find it in memory. -/
def peekWord (s : State) (c : CoreId) (pc : Nat) : Option Word :=
  (wordAt s c pc).orElse (fun _ =>
    match (translate s (coreTile s c) (ctxNo s c) pc .fetch (getStrand s c).mode).1 with
    | .ok r => some (paWord s r.pa)
    | .error _ => none)

/-- A word is REP, be its fields good or bad. -/
def isRep (w : Word) : Bool :=
  match decode w with
  | .ok (.rep _) | .error (.badField (.rep _)) => true
  | _ => false

/-- The REP sequence in force at a core's PC: one that a REPSTATE has restored counts only if the word there is REP
(R87). -/
def repNow (s : State) (c : CoreId) : Option Rep :=
  let st := getStrand s c
  match st.rep with
  | some r => if r.word.isSome || (peekWord s c st.pc.toNat).any isRep then some r else none
  | none => none

/-- A trap taken before the word at the PC, of which no effect has begun: of its fetch, or of an error held. -/
def trapBefore (s : State) (c : CoreId) (cause : BitVec 9) (d0 d1 fpc : Word) : State :=
  let st := getStrand s c
  takeTrapAt s c cause d0 d1 fpc st.pc (repState (repNow s c)) st.takeDone

/-- A trap of a fetch. -/
def trapFetch (s : State) (c : CoreId) (t : TrapInfo) : State :=
  trapBefore s c (causeOf t.cond (trapSrc c t)) t.d0 t.d1 (getStrand s c).wordPc

/-- The block on its way to a core. -/
def findRead (s : State) (c : CoreId) (va : Nat) : Option BlockRead :=
  (getTile s (coreTile s c)).fetching.find? (fun b => b.ctx == ctxNo s c && b.va == va && fetchOk b.leaf (getStrand s c))

/-- Changes the block of an address on its way to a tile; none takes it out. -/
def putRead (s : State) (tile ctx va : Nat) (b : Option BlockRead) : State :=
  modTile s tile (fun x => { x with
    fetching := b.toList ++ x.fetching.filter (fun y => !(y.ctx == ctx && y.va == va)) })

/-- The block with the words that are still to be read, each whole and as it is now (R44). -/
def blockWords (s : State) (b : BlockRead) : List Word :=
  (List.range 8).map (fun k => (tabFind b.got k).getD (paWord s (b.pa + 8 * k)))

/-- The request of a missed block: ADDRRANGE past the address space, a recoverable fault, a handler's first block outside a
SUP page, an error of its bytes, or where the block is (R41, R43, R71, R313). -/
def openRead (s : State) (c : CoreId) (pc : Nat) : Except State (BlockRead × State) :=
  let va := pc / 64 * 64
  if Config.vaEnd ≤ pc then .error (trapFetch s c { cond := 19 })
  else
    match findRead s c va with
    | some b => .ok (b, s)
    | none =>
      match devXlat s c va 64 .fetch with
      | .error (.fault f s1) => .error (parkFault s1 c f)
      | .error (.trap t s1) => .error (trapFetch s1 c t)
      | .error (.more s1) => .error s1
      | .error _ => .error s
      | .ok (r, s1) =>
        if !fetchOk r.leaf (getStrand s1 c) then .error (parkFault s1 c (coreFault s1 c va 64 .fetch ⟨17, 2, r.level, r.level == 2⟩))
        else .ok (⟨ctxNo s1 c, va, r.leaf, r.pa, []⟩, s1)

/-- A missed block is fetched, with what has been read of it already (R44, R71). -/
def fillBlock (s : State) (c : CoreId) (pc : Nat) : State :=
  match openRead s c pc with
  | .error s1 => s1
  | .ok (b, s1) =>
    match devRead s1 b.pa 64 with
    | .error (.trap t s2) => trapFetch s2 c t
    | .error _ => s1
    | .ok _ =>
      putRead (cacheBlock s1 (coreTile s1 c) ⟨b.ctx, b.va, b.leaf, blockWords s1 b⟩) (coreTile s1 c) b.ctx b.va none

/-- Word `k` of a missed block is read now, so that a write to the block may fall between its words in any order (R44). -/
def fetchOne (s : State) (c : CoreId) (pc k : Nat) : State :=
  match openRead s c pc with
  | .error s1 => s1
  | .ok (b, s1) =>
    match devRead s1 b.pa 64 with
    | .error (.trap t s2) => trapFetch s2 c t
    | .error _ => s1
    | .ok _ =>
      let k := k % 8
      if (tabFind b.got k).isSome then s1
      else putRead s1 (coreTile s1 c) b.ctx b.va (some { b with got := tabPut b.got k (paWord s1 (b.pa + 8 * k)) })

end Sys2Proof.Machine
end

