-- ==== Sys2Proof/Machine/Tasks.lean ====
section
/-! DEFINITION. Tasks: their end, SPAWN, TTREAD and SKEWACK, the heaps and the dispatch of a task (R17, R22, R24, R82,
R218, R221 to R224, R234, R235, R291 to R294). -/

namespace Sys2Proof.Machine

/-! ### The end of a task (R82, R171, R222) -/

/-- A tile whose task is gone: what a task owns is discarded (R82); floors, the trap vector, caches, grant requests of
others, buffer rings and plane contents stay. -/
def Tile.clear (x : Tile) : Tile :=
  { x with strands := Vector.replicate 4 Strand.blank, couplings := [], given := [], task := none, flags := 0, settle := [],
           setNow := 0, wasSet := 0, wasSettle := [], m := [],
           mBad := [], p := Vector.replicate 8 0, qs := Vector.replicate 8 Queue.empty,
           ds := Vector.replicate 4 Queue.empty, mx := { x.mx with prog := Progress.zero, wave := none }, preempt := none }

/-- An operand queue of a task that ends otherwise than by END: one that is PARKED becomes POISONED (R149). -/
def Queue.endKilled (q : Queue) : Queue := if q.state = .parked then { Queue.empty with state := .poisoned } else Queue.empty

/-- A tile whose task has ended otherwise than by END. -/
def Tile.killed (x : Tile) : Tile := { x.clear with qs := x.qs.map Queue.endKilled }

/-- The register that receives the result of the PREEMPT of a tile in which a strand waits. -/
def preemptReg (st : Strand) (tile : Nat) : Option (BitVec 6) :=
  match st.run, st.wait.map Wait.instr with
  | .waiting, some (.preemptK f) | .waiting, some (.preemptR f) =>
    if ((st.getG f.ra).extractLsb' 0 8).toNat = tile then some f.rb else none
  | _, _ => none

/-- A PREEMPT that waits for a tile completes with its result. -/
def givePreempt (tile n : Nat) (c : CoreId) (s : State) : State :=
  match preemptReg (getStrand s c) tile with
  | some r => completeWait (setGOf s c r (BitVec.ofNat 64 n)) c
  | none => s

/-- The result of a pre-emption of a tile goes to every word that waits for it (R306), of a saved task too. -/
def answerPreempt (s : State) (tile : Nat) (p : Option Preempt) (n : Nat) : State :=
  ((p.map (·.by_)).getD []).foldl (fun s a => onCore s a.1 a.2 (givePreempt tile n a.2)) s

/-- A skew record (R222). -/
def skewWord (lap index spread : Nat) : Word :=
  BitVec.ofNat 64 (2 ^ 63 + (lap % 2 ^ 16) * 2 ^ 47 + (index % 2 ^ 16) * 2 ^ 31 + min spread 0x7FFFFFFF)

/-- Changes a launch that exists. -/
def modLaunch (s : State) (id : Nat) (f : Launch → Launch) : State :=
  match tabFind s.launches id with
  | some l => { s with launches := tabPut s.launches id (f l) }
  | none => s

/-- The skew monitor when the last task of a lap has retired on a tile (R222). The record goes into bytes 16 to 23 of the
entry. -/
def skewCheck (s : State) (id : Nat) (l : Launch) (index tile : Nat) : State :=
  let spread := l.lastEnd - l.firstEnd
  if l.bound ≠ 0 ∧ l.bound < spread ∧ l.skew = 0 ∧ l.outcome = 0 then
    let w := skewWord l.lap index spread
    fqNotice (modLaunch s id (fun y => { y with skew := w, raised := true })) l.ctx 303 tile 0 0 w.toNat 0
  else s

/-- What the end of a task means for its launch: `byEnd` says that END retired it. -/
def taskEnded (s : State) (k : Task) (tile : Nat) (byEnd : Bool) : State :=
  match tabFind s.launches k.launch, k.index with
  | some l, some i =>
    let l1 := { l with left := l.left - 1, retired := l.retired + (if byEnd then 1 else 0), lastEnd := s.cycle,
                       firstEnd := if l.left = l.entries.length then s.cycle else l.firstEnd }
    let s1 := { s with launches := tabPut s.launches k.launch l1 }
    if byEnd ∧ l1.left = 0 then skewCheck s1 k.launch l1 i tile else s1
  | _, _ => s

/-- A task retires by END: its bindings that are not pinned are released, its tile is free, and a pre-emption that has
not saved it finds no task (R82, R171). -/
def retireTask (s : State) (tile : Nat) (k : Task) : State :=
  let p := (getTile s tile).preempt
  let s1 := modTile (releaseUnpinned s k.ctx tile) tile Tile.clear
  answerPreempt (taskEnded s1 k tile true) tile p 0

/-- Unretired commands of a task. -/
def taskCmds (s : State) (tile : Nat) (k : Task) : List (Nat × Cmd) :=
  s.cmds.filter (fun e => !e.2.box && e.2.tile == tile && e.2.task == k.serial)

/-- A core program is over, with what Nguka reports to the driver (R363). -/
def endBox (s : State) (g code : Nat) : State :=
  let s1 := modStrand s (.sbox g) (fun st => { st with run := .idle, wait := none, pause := none, park := none })
  { s1 with boxProgs := tabDel s1.boxProgs g, reports := s1.reports ++ [(g, code)] }

/-- The wait of END for commands. -/
def taskEndWait : WaitSpec := { what := .taskEnd, kind := 10, name := 0 }

/-- END (R82, R377). -/
def bodyEndTask (_f : FR) : Body := fun c s =>
  match c with
  | .sbox g => if (coreCmds s c).isEmpty then .gone (endBox s g 0) else .wait taskEndWait s
  | .tile t _ =>
    let x := getTile s t
    if [1, 2, 3].any (fun q => (x.strand q).run != .idle) then .trap { cond := 24 } s
    else
      match x.task with
      | none => .gone (modTile s t Tile.clear)
      | some k => if (taskCmds s t k).isEmpty then .gone (retireTask s t k) else .wait taskEndWait s

/-! ### Partitions and heaps (R288, R291 to R294) -/

/-- Partition of a context. -/
def ctxPart (s : State) (ctx : Nat) : Nat := ((tabFind s.ctxs ctx).map (fun x => x.block.part.toNat)).getD 0

/-- A tile belongs to a partition. -/
def partHasTile (s : State) (p tile : Nat) : Bool := bitOf (partClusters s p) (tile / 4) && decide (tile < 256)

/-- Tiles of a partition in increasing number. -/
def partTiles (s : State) (p : Nat) : List Nat := (List.range 256).filter (partHasTile s p)

/-- Number of tiles of a partition. -/
def partSize (s : State) (p : Nat) : Nat :=
  4 * ((List.range 64).filter (fun c => bitOf (partClusters s p) c)).length

/-- A partition has used up its share of the period (R291); a TSHARE of 1,024 is no cap. -/
def overShare (s : State) (p : Nat) : Bool :=
  match tabFind s.parts p with
  | some x => x.tshare != 1024 && decide (x.tshare * 1024 * partSize s p ≤ x.used)
  | none => false

/-- The partition of a context, or its parent, has used up its share. -/
def capped (s : State) (ctx : Nat) : Bool :=
  let p := ctxPart s ctx
  overShare s p || overShare s (p / 8 * 8)

/-- Tier of a context's queue. -/
def ctxTier (s : State) (ctx : Nat) : Nat := ((tabFind s.ctxs ctx).map (fun x => x.block.tier.toNat)).getD 0

/-- Hardware queue of a context. -/
def ctxQueue (s : State) (ctx : Nat) : Nat := ((tabFind s.ctxs ctx).map (fun x => x.block.queue.toNat)).getD 0

/-- The context belongs to a virtual function that is disabled (R303). -/
def vfStopped (s : State) (ctx : Nat) : Bool := !s.vfEnable && (tabFind s.ctxs ctx).any (fun x => x.block.vfv)

/-- What an entry counts as: the tasks of one lap of one launch are one packet. -/
def packetOf (e : Nat × HeapEntry) : Nat × Nat :=
  match e.2.work with
  | .task _ _ _ => (0, e.2.launch)
  | _ => (1, e.1)

/-- The entry is of a packet: a saved task that has come back is none of the 256 (log entry 68). -/
def isPacket (e : HeapEntry) : Bool := match e.work with | .saved _ => false | _ => true

/-- Launches of a tier with Nguka whose packets are for tiles of a stack group: each has its place in the heap. -/
def comingTo (s : State) (g tier : Nat) : Nat :=
  (s.launches.filter (fun e => e.2.state == .checking && e.2.tier == tier &&
    (tabGet [] s.launchTiles e.1).any (fun t => t / 32 == g))).length

/-- Ready packets in the heap of a stack group and tier, with those that Nguka checks (R292). -/
def heapLoad (s : State) (g tier : Nat) : Nat :=
  ((s.heap.filter (fun e => e.2.group == g && e.2.tier == tier && isPacket e.2)).map packetOf).eraseDups.length
    + comingTo s g tier

/-- A heap has room for a packet. -/
def heapRoom (s : State) (g tier : Nat) : Bool := decide (heapLoad s g tier < 256)

/-- A heap that is full makes the monitors of its tier take queues in turn (R292). -/
def noteFull (s : State) (g tier : Nat) : State :=
  if heapRoom s g tier then s
  else { s with crowded := (s.crowded ++ (List.range 8).map (fun b => 4 * b + tier)).eraseDups }

/-- Adds an entry to a heap. -/
def heapAdd (s : State) (e : HeapEntry) : State :=
  noteFull { s with heap := tabPut s.heap s.nextHeap e, nextHeap := s.nextHeap + 1 } e.group e.tier

/-! ### SPAWN (R223) -/

/-- The rules of R217 for a task packet, by the byte that a failing one reports. -/
def spawnBad (p : BitVec 512) : List Nat :=
  let h := p.extractLsb' 0 64
  let entry := p.extractLsb' 128 64
  brk 7 (h.extractLsb' 56 8 != 1) ++ brk 5 (h.extractLsb' 40 16 != 1) ++ brk 4 (h.extractLsb' 32 8 != 0)
    ++ brk 3 (h.extractLsb' 25 7 != 0) ++ brk 2 (h.extractLsb' 16 9 != 0) ++ brk 1 (h.extractLsb' 8 8 != 0)
    ++ brk 0 (h.extractLsb' 0 8 != 2) ++ brk 16 (entry.extractLsb' 0 6 != 0 || entry.extractLsb' 52 12 != 0)
    ++ brk 24 (p.extractLsb' 192 64 != 0)

/-- A spawned task enters the heap of its tier, or the strand waits for room with the packet it has read, or QFULL under
NB. -/
def spawnInto (s : State) (c : CoreId) (f : FQ) (tile : Option Nat) (cluster : Nat) (pk : BitVec 512) : Ex Res := do
  let ctx := ctxNo s c
  if !bitOf (partClusters s (ctxPart s ctx)) cluster then trapEx s 36
  else if !heapRoom s (cluster / 8) (ctxTier s ctx) then
    if f.aux.getLsbD 0 then trapEx s 31
    else .error (.wait { what := .engineSpace, kind := 11, name := 0x001 }
      (modStrand s c (fun st => { st with spawning := some (pk, tile, cluster) })))
  else
    match (getTile s (coreTile s c)).task with
    | none => return .retire s
    | some k =>
      return .retire (heapAdd s
        { group := cluster / 8, tier := ctxTier s ctx, deadline := (pk.extractLsb' 64 64).toNat, age := s.cycle,
          queue := k.queue, pos := k.pos, ctx := ctx, launch := k.launch, since := s.cycle, promoted := false,
          work := .spawn tile cluster (coreTile s c) k.lap k.lapAt pk })

/-- The task packet of a SPAWN, read and checked. -/
def spawnPacket (s : State) (c : CoreId) (f : FQ) : Ex (BitVec 512 × State) := do
  let st := getStrand s c
  let ctx := ctxNo s c
  let (r, o) ← segCheck s ctx (coreTile s c) (st.getA f.ar.toNat) (offFQ0 st f) 64 64 false
  let s1 ← grantRefs s c (coreClient c) ctx [r]
  let bs ← segRead s1 ctx r o 64
  let pk := BitVec.ofNat 512 (leNat bs)
  match (spawnBad pk).min? with
  | some b => trapEx s1 30 (BitVec.ofNat 64 b)
  | none => return (pk, s1)

/-- SPAWN.SEG. -/
def bodySpawnSeg (f : FQ) : Body := fun c s => Ex.run do
  match (getStrand s c).spawning with
  | some (pk, tile, cluster) => spawnInto s c f tile cluster pk
  | none =>
    let (pk, s1) ← spawnPacket s c f
    let a := (getStrand s1 c).getA (aNum f.rc)
    let r ← segName s1 (ctxNo s1 c) (coreTile s1 c) a (aOff a)
    spawnInto s1 c f (some r.seg.home) (r.seg.home / 4) pk

/-- SPAWN.VA. -/
def bodySpawnVa (f : FQ) : Body := fun c s => Ex.run do
  match (getStrand s c).spawning with
  | some (pk, tile, cluster) => spawnInto s c f tile cluster pk
  | none =>
    let (pk, s1) ← spawnPacket s c f
    let g := ((getStrand s1 c).getG f.rc).toNat
    if Config.vaEnd ≤ g then trapEx s1 19
    else
      let (r, s2) ← devXlat s1 c g 1 .read
      spawnInto s2 c f none (homeSlice s2 r.pa r.leaf) pk

/-! ### TTREAD and SKEWACK (R234, R235) -/

/-- TASKS of a launch's packet. -/
def packetTasks (p : BitVec 512) : Nat := (p.extractLsb' 40 16).toNat
/-- DEADLINE. -/
def packetDeadline (p : BitVec 512) : Nat := (p.extractLsb' 64 64).toNat
/-- ENTRY. -/
def packetEntry (p : BitVec 512) : Nat := (p.extractLsb' 128 64).toNat
/-- TTAB. -/
def packetTtab (p : BitVec 512) : Nat := (p.extractLsb' 192 64).toNat
/-- ARG1 to ARG4, as n from 0 to 3. -/
def packetArg (p : BitVec 512) (n : Nat) : Word := p.extractLsb' (256 + 64 * n) 64

/-- The entry of the default placement (R220). -/
def defaultEntry (s : State) (ctx i : Nat) : Nat := (partTiles s (ctxPart s ctx)).getD i 0

/-- TTREAD (R234). -/
def bodyTtread (f : FR) : Body := fun c s => Ex.run do
  match c with
  | .sbox _ => trapEx s 1
  | .tile t _ =>
    match (getTile s t).task with
    | none => return .retire (setGOf s c f.rd 0)
    | some k =>
      match tabFind s.launches k.launch with
      | none => return .retire (setGOf s c f.rd 0)
      | some l =>
        let out := fun (s : State) (n : Nat) => Res.retire (setGOf s c f.rd (BitVec.ofNat 64 n))
        let i := ((getStrand s c).getG f.ra).toNat
        match f.fn.toNat with
        | 0 => return out s (k.index.getD (2 ^ 64 - 1))
        | 1 => return out s (packetTasks l.packet)
        | 2 => return out s k.lap
        | 3 => return out s l.laps
        | 4 =>
          if packetTasks l.packet ≤ i then trapEx s 19
          else if packetTtab l.packet = 0 then return out s (defaultEntry s k.ctx i)
          else
            let va ← devAddr s (packetTtab l.packet + 64 + 4 * i : Nat) 4
            let (r, s1) ← devXlat s c va 4 .read
            let v ← devRead s1 r.pa 4
            return out s1 v
        | _ => return out s k.lapAt

/-- The running launch of a queue whose skew event is pending; of several, the one that stands first in the queue. -/
def skewLaunch (s : State) (q : Nat) : Option (Nat × Launch) :=
  (s.launches.filter (fun e => e.2.queue == q && e.2.state == .running && e.2.skew != 0)).foldl
    (fun b e => match b with
      | none => some e
      | some y => if e.2.pos < y.2.pos then some e else some y) none

/-- SKEWACK (R235). -/
def bodySkewack (f : FR) : Body := fun c s => Ex.run do
  let g := (getStrand s c).getG f.ra
  let q := (g.extractLsb' 0 10).toNat
  if g.extractLsb' 10 54 ≠ 0 then trapEx s 4
  else if q ≠ ctxQueue s (ctxNo s c) ∧ !isSup s c then trapEx s 5
  else
    match skewLaunch s q with
    | none => return .retire (setGOf s c f.rd 0)
    | some (id, l) => return .retire (setGOf (modLaunch s id (fun y => { y with skew := 0 })) c f.rd l.skew)

/-! ### Dispatch (R17, R22, R218, R223, R291 to R294) -/

/-- The context has a saved task on the tile, which goes before any other of its tasks there. -/
def savedHere (s : State) (ctx tile : Nat) : Bool := (tabFind s.saves (256 * ctx + tile)).isSome

/-- The tiles an entry may go to now: idle ones, on which no OTHER form is in the middle of a binding of the context
(R189). -/
def idleTargets (s : State) (e : HeapEntry) : List Nat :=
  let free := fun t => (getTile s t).task.isNone && !otherHolds s e.ctx t none none
  match e.work with
  | .task _ t _ | .spawn (some t) _ _ _ _ _ => if free t && !savedHere s e.ctx t then [t] else []
  | .spawn none cl _ _ _ _ => ((List.range 4).map (4 * cl + ·)).filter (fun t => free t && !savedHere s e.ctx t)
  | .saved t => if free t then [t] else []

/-- The launch of an entry has passed its start barrier (R268); a spawned or saved task's launch has. -/
def barrierPassed (s : State) (e : HeapEntry) : Bool :=
  match tabFind s.launches e.launch with
  | some l => l.members == [] || decide (1 ≤ l.fabInst)
  | none => true

/-- An entry may be dispatched: its queue is not held, its partition is within its cap, its virtual function is enabled,
and its start barrier is complete. -/
def mayStart (s : State) (e : HeapEntry) : Bool :=
  !(getHwq s (ctxQueue s e.ctx)).held && !capped s e.ctx && !vfStopped s e.ctx && barrierPassed s e

/-- Tiles of a stack group that the partitions of ready tier-3 work own (R293). -/
def tier3Tiles (s : State) (g : Nat) : Nat :=
  let ready := s.heap.filter (fun e => e.2.group == g && e.2.tier == 3 && mayStart s e.2)
  ((List.range 32).filter (fun j => ready.any (fun e => partHasTile s (ctxPart s e.2.ctx) (32 * g + j)))).length

/-- Tier-3 work goes first in a stack group: it has had less than 1/32 of its tile-clocks of the window (R293). -/
def tier3First (s : State) (g : Nat) : Bool := decide (32 * tabGet 0 s.shareUsed g < 2100000 * tier3Tiles s g)

/-- Place of an entry in dispatch order, by field from the most significant one on (R22, R293). -/
def orderKey (share3 : Bool) (id : Nat) (e : HeapEntry) : List Nat :=
  [if e.promoted then 0 else if share3 && e.tier == 3 then 1 else 2, e.tier, e.deadline, e.age, e.queue, e.pos, id]

/-- Lexicographic order. -/
def keyBefore : List Nat → List Nat → Bool
  | x :: xs, y :: ys => decide (x < y) || (x == y && keyBefore xs ys)
  | _, _ => false

/-- The first entry of a stack group, in dispatch order, that may start on an idle tile, with the tile. -/
def nextStart (s : State) (g : Nat) : Option (Nat × HeapEntry × Nat) :=
  let share3 := tier3First s g
  s.heap.foldl (fun b e =>
    if e.2.group ≠ g ∨ !mayStart s e.2 then b
    else
      match idleTargets s e.2 with
      | [] => b
      | t :: _ =>
        match b with
        | none => some (e.1, e.2, t)
        | some y => if keyBefore (orderKey share3 e.1 e.2) (orderKey share3 y.1 y.2.1) then some (e.1, e.2, t) else b) none

/-- The C strand of a task at its first instruction (R24, R92, R218). -/
def firstStrand (entry : Nat) (args : List Word) (waitdef : BitVec 10) : Strand :=
  { Strand.blank with
      run := .running, pc := BitVec.ofNat 64 entry, waitdef := waitdef,
      g := Vector.ofFn (fun i => if 1 ≤ i.val ∧ i.val ≤ 8 then args.getD (i.val - 1) 0 else 0) }

/-- A tile as a task starts on it (R72, R139, R163, R204). -/
def Tile.start (x : Tile) (k : Task) (c : Strand) : Tile :=
  let y := x.clear.setStrand 0 c
  { y with task := some k, mx := { y.mx with active := Plane.blank, shadow := Plane.blank } }

/-- Launch values of a launched task (R218). -/
def launchArgs (p : BitVec 512) (index lap : Nat) : List Word :=
  (List.range 4).map (packetArg p) ++ [BitVec.ofNat 64 index, BitVec.ofNat 64 (packetTasks p), BitVec.ofNat 64 lap, 0]

/-- Launch values of a spawned task. -/
def spawnArgs (p : BitVec 512) (src lap : Nat) : List Word :=
  (List.range 4).map (packetArg p) ++ [BitVec.ofNat 64 src, 0, BitVec.ofNat 64 lap, 0]

/-- A task of an entry. -/
def newTask (s : State) (e : HeapEntry) (index : Option Nat) (lap lapAt : Nat) (pool : Bool) : Task :=
  { serial := s.nextTask, ctx := e.ctx, launch := e.launch, index := index, lap := lap, tier := e.tier,
    deadline := BitVec.ofNat 64 e.deadline, age := e.age, queue := e.queue, pos := e.pos, pool := pool, lapAt := lapAt,
    preempted := false }

/-- The floors of a tile under a launch that wants some (R131). -/
def raisedFloors (s : State) (tile : Nat) (wanted : List Nat) : List Nat :=
  (List.range 7).map (fun k => max (floorOf s tile k) (wanted.getD k 0))

/-- They fit the tile beside its NOPUSH granules (R131). -/
def floorsHold (s : State) (tile : Nat) (wanted : List Nat) : Bool :=
  decide ((raisedFloors s tile wanted).sum + nopushGran s tile none [] ≤ Config.granules)

/-- Raises the floors of a tile. -/
def raiseFloors (wanted : List Nat) (s : State) (tile : Nat) : State :=
  let fl := raisedFloors s tile wanted
  modTile s tile (fun x => { x with floors := Vector.ofFn (fun k => BitVec.ofNat 15 (fl.getD k.val 0)) })

/-- The floors of a tile that a task of a launch is the first to reach, which Nguka's checks have not raised: those of a
spawned task, or of a lap rewritten in memory. Where they do not fit, no launch is left to refuse, and they stay (R131, log
entry 69). -/
def floorFirst (s : State) (id tile : Nat) : State :=
  match tabFind s.launches id with
  | some l =>
    if l.floored.contains tile then s
    else
      let s1 := modLaunch s id (fun y => { y with floored := tile :: y.floored })
      if floorsHold s1 tile l.wanted then raiseFloors l.wanted s1 tile else s1
  | none => s

/-- A task starts on its tile, under the launch's floors and with the entries of its context's bindings (R131, R168). -/
def startTask (s : State) (tile : Nat) (k : Task) (c : Strand) : State :=
  claimEntries (modTile { floorFirst s k.launch tile with nextTask := s.nextTask + 1 } tile (fun x => x.start k c)) tile

/-- An entry that is no saved task starts on its tile. -/
def startEntry (s : State) (id : Nat) (e : HeapEntry) (tile : Nat) : State :=
  let s1 := modHwq { s with heap := tabDel s.heap id } e.queue (fun q => { q with waited := 0 })
  match tabFind s.launches e.launch with
  | none => s1
  | some l =>
    match e.work with
    | .task i _ pool =>
      startTask s1 tile (newTask s e (some i) l.lap e.since pool)
        (firstStrand (packetEntry l.packet) (launchArgs l.packet i l.lap) l.waitdef)
    | .spawn _ _ src lap at_ pk =>
      startTask s1 tile (newTask s e none lap at_ false) (firstStrand (packetEntry pk) (spawnArgs pk src lap) l.waitdef)
    | .saved _ => s

/-- DISPATCH (R22): the first task in dispatch order of a stack group starts on its idle tile. A saved task is TASK_RESUME's. -/
def execDispatch (group : Nat) (s : State) : Out :=
  match nextStart s group with
  | some (id, e, t) =>
    match e.work with
    | .saved _ => .next s
    | _ => .next (startEntry s id e t)
  | none => .next s

/-! ### The meanings -/

/-- END (OP 0x0B, R82). -/
def execEndTask (f : FR) (s : State) : Out := issueWord (.endTask f) (bodyEndTask f) s

/-- SPAWN_SEG (OP 0xA6, R223). -/
def execSpawnSeg (f : FQ) (s : State) : Out := issueWord (.spawnSeg f) (bodySpawnSeg f) s

/-- SPAWN_VA (OP 0xA6, R223). -/
def execSpawnVa (f : FQ) (s : State) : Out := issueWord (.spawnVa f) (bodySpawnVa f) s

/-- TTREAD (OP 0xA8, R234). -/
def execTtread (f : FR) (s : State) : Out := issueWord (.ttread f) (bodyTtread f) s

/-- SKEWACK (OP 0xA9, R235). -/
def execSkewack (f : FR) (s : State) : Out := issueWord (.skewack f) (bodySkewack f) s

end Sys2Proof.Machine
end

