-- ==== Sys2Proof/Machine/Launch.lean ====
section
/-! DEFINITION. Launches: the queue table and its monitor, the read of a packet, Nguka's checks, laps, arrivals and
completion records (R21, R77, R116, R117, R130, R131, R217, R219 to R221, R268, R292, R324 to R326, R333, R347 to R354,
R361). -/

namespace Sys2Proof.Machine

/-! ### Reads for a context that no core makes -/

/-- Reads bytes of a context's address space in user mode, page by page; none where a page cannot be read. -/
def ctxRead (s : State) (ctx : Nat) : Nat → Nat → Nat → Option (List Byte)
  | 0, _, _ => some []
  | fuel + 1, va, n =>
    if n = 0 then some []
    else if Config.vaEnd < va + n then none
    else
      let k := pagePart va n
      match walk s ctx va .read .user with
      | .ok r =>
        if linkDown s r.pa || paPoisoned s r.pa k then none
        else (ctxRead s ctx fuel (va + k) (n - k)).map (fun rest => paBytes s r.pa k ++ rest)
      | .error _ => none

/-- Reads bytes of a context's address space. -/
def ctxBytes (s : State) (ctx va n : Nat) : Option (List Byte) := ctxRead s ctx (pagesOf n) va n

/-- Reads bytes of a code object as its loader does, whatever the permissions of its pages (R351). -/
def objRead (s : State) (ctx : Nat) : Nat → Nat → Nat → Option (List Byte)
  | 0, _, _ => some []
  | fuel + 1, va, n =>
    if n = 0 then some []
    else if Config.vaEnd < va + n then none
    else
      let k := pagePart va n
      match (tabFind s.ctxs ctx).map (fun x => walkFrom s va 4 0 x.block.ptbase false) with
      | some (.ok (leaf, level, bad)) =>
        let pa := leafAddr leaf (level == 2) va
        if bad || !laidOut s pa || linkDown s pa || paPoisoned s pa k then none
        else (objRead s ctx fuel (va + k) (n - k)).map (fun rest => paBytes s pa k ++ rest)
      | _ => none

/-- Little-endian number of bytes of a code object; none where they cannot be read. -/
def objNat (s : State) (ctx va n : Nat) : Option Nat := (objRead s ctx (pagesOf n) va n).map leNat

/-! ### The queue table (R324, R325) -/

/-- Doubleword n of a queue's descriptor. -/
def queueWord (s : State) (q n : Nat) : Word := paWord s (queueDesc s q + 8 * n)

/-- Slots of a queue's rings. -/
def queueSlots (s : State) (q : Nat) : Nat := 2 ^ ((queueWord s q 1).extractLsb' 0 5).toNat

/-- Stack group whose Signal box monitors a queue. -/
def queueBox (s : State) (q : Nat) : Nat := ((queueWord s q 1).extractLsb' 10 3).toNat

/-- Contexts bound to a queue, in increasing number. -/
def boundCtxs (s : State) (q : Nat) : List Nat :=
  s.ctxs.filterMap (fun e => if e.2.block.queue.toNat = q then some e.1 else none)

/-- A range lies in HBM4E channels of a top-level partition (R296). -/
def channelsOk (s : State) (top a n : Nat) : Bool :=
  isHbm a && isHbm (a + n - 1) &&
    (List.range ((a + n - 1) / 2 ^ 33 + 1 - a / 2 ^ 33)).all (fun k => bitOf (partClusters s top) (a / 2 ^ 33 + k))

/-- Top-level partition of a queue's contexts; none while no context is bound to it. -/
def queueTop (s : State) (q : Nat) : Option Nat := (boundCtxs s q).head?.map (fun c => ctxTop s c * 8)

/-- A range lies in HBM4E that the part has. -/
def inHbm (s : State) (a n : Nat) : Bool := isHbm a && isHbm (a + n - 1) && laidOut s a && laidOut s (a + n - 1)

/-- What EN rising checks (R324); of a queue with no bound context, all but the partition's part, which is judged when one is
bound (log entry 70). -/
def descOk (s : State) (q : Nat) : Bool :=
  let w0 := queueWord s q 0
  let w1 := queueWord s q 1
  let w2 := queueWord s q 2
  let log := (w1.extractLsb' 0 5).toNat
  let bytes := 64 * 2 ^ log
  let box := queueBox s q
  w0.extractLsb' 46 18 == 0 && w0.extractLsb' 0 6 == 0 && w1.extractLsb' 13 51 == 0 && w1.extractLsb' 5 3 == 0 &&
    w2.extractLsb' 46 18 == 0 && w2.extractLsb' 0 6 == 0 &&
    queueWord s q 5 == 0 && queueWord s q 6 == 0 && queueWord s q 7 == 0 &&
    decide (4 ≤ log) && decide (log ≤ 16) && s.stackMask.getLsbD box &&
    (match queueTop s q with
     | some top => channelsOk s top w0.toNat bytes && channelsOk s top w2.toNat bytes &&
         (List.range 8).any (fun k => bitOf (partClusters s top) (8 * box + k))
     | none => inHbm s w0.toNat bytes && inHbm s w2.toNat bytes)

/-- Bits EN and QERR of a queue as the monitor leaves them in memory. -/
def showFlags (s : State) (q : Nat) (en err : Bool) : State :=
  let a := queueDesc s q + 9
  let w := paByte s a
  paStore s a [(w &&& 0xFC) ||| (if en then 1 else 0) ||| (if err then 2 else 0)]

/-- QUEUE_ENABLE (R324): EN that has risen is checked; one that is refused has not been 1. -/
def execQueueEnable (queue : Nat) (s : State) : Out :=
  if s.boot = .up ∧ s.enWrites.contains queue then
    let s1 := { s with enWrites := s.enWrites.filter (· != queue) }
    if !(paByte s1 (queueDesc s1 queue + 9)).getLsbD 0 then .next s1
    else if descOk s1 queue then .next (modHwq s1 queue (fun x => { x with en := true }))
    else
      let s2 := { s1 with tailWrites := s1.tailWrites.map (fun y => if y.1 = queue then (y.1, y.2.1, false) else y) }
      .next (modHwq (showFlags s2 queue false true) queue (fun x => { x with en := false, qerr := true }))
  else .next s

/-- A tail advance wakes the core program of its stack group (R318). -/
def tailAdvance (s : State) (q new : Nat) : State :=
  let s1 := modHwq s q (fun x => { x with tail := new, ages := x.ages ++ [(new, s.cycle)] })
  if (tabFind s1.boxProgs (queueBox s1 q)).isSome then wake s1 (.sbox (queueBox s1 q)) 8 else s1

/-- TAIL_WRITE (R325): the monitor of an enabled queue observes a write to its TAIL. A queue of a disabled virtual
function is looked at when it is enabled again (R303). -/
def execTailWrite (queue : Nat) (s : State) : Out :=
  let hq := getHwq s queue
  match s.tailWrites.find? (·.1 == queue) with
  | none => .next s
  | some w =>
    if s.boot ≠ .up ∨ !hq.en ∨ (boundCtxs s queue).any (vfStopped s) then .next s else
    let s1 := { s with tailWrites := s.tailWrites.erase w }
    let new := w.2.1
    if new < hq.tail ∨ hq.head + queueSlots s1 queue < new then
      .next (modHwq (showFlags s1 queue true true) queue (fun x => { x with qerr := true }))
    else if new = hq.tail then .next s1
    else .next (tailAdvance s1 queue new)

/-! ### Completion records (R326) -/

/-- The bytes of a completion record. -/
def recordBytes (refuse cause outcome tasks pos time gen : Nat) : List Byte :=
  leBytes 8 (2 ^ 56 + refuse * 2 ^ 48 + cause * 2 ^ 39 + outcome * 2 ^ 32 + tasks) ++ leBytes 8 pos ++ leBytes 8 time
    ++ leBytes 8 gen ++ List.replicate 32 0

/-- Address of the record of a queue position. -/
def recordAt (s : State) (q pos : Nat) : Nat := (queueWord s q 2).toNat + 64 * (pos % queueSlots s q)

/-- The completion record of a launch is written, and the launch is over. -/
def endLaunch (s : State) (id : Nat) (l : Launch) (refuse cause outcome : Nat) : State :=
  let s1 := paWrite s (recordAt s l.queue l.pos) (recordBytes refuse cause outcome l.retired l.pos (devTime s) l.gen)
  { s1 with launches := tabDel s1.launches id, launchTiles := tabDel s1.launchTiles id }

/-- A launch is refused with a code of R219. -/
def refuseLaunch (s : State) (id : Nat) (l : Launch) (code : Nat) : State := endLaunch s id l code 0 2

/-! ### Timetables (R220, R221) -/

/-- LAP of a timetable entry. -/
def entryLap (e : Nat) : Nat := e / 2 ^ 8 % 2 ^ 16
/-- TILE. -/
def entryTile (e : Nat) : Nat := e % 2 ^ 8
/-- POOL. -/
def entryPool (e : Nat) : Bool := e / 2 ^ 24 % 2 == 1

/-- An entry names a tile of the partition and has no must-be-0 bit set. -/
def entryOk (s : State) (ctx e : Nat) : Bool :=
  e / 2 ^ 25 == 0 && partHasTile s (ctxPart s ctx) (entryTile e) && tilePresent s (entryTile e)

/-- Numbers of four bytes each. -/
def fours : Nat → List Byte → List Nat
  | 0, _ => []
  | n + 1, bs => leNat (bs.take 4) :: fours n (bs.drop 4)

/-- Laps of the entries from one on: none falls, each follows the one before, and each tile stands once in a lap. -/
def lapsOk : Nat → List Nat → List Nat → Bool
  | _, _, [] => true
  | lap, used, e :: rest =>
    let l := entryLap e
    if l = lap then !used.contains (entryTile e) && lapsOk lap (entryTile e :: used) rest
    else l == lap + 1 && lapsOk l [entryTile e] rest

/-- A timetable as R220 has it: LAPS, HOLD and the entries; none where it is in breach or cannot be read. -/
def timetable (s : State) (ctx : Nat) (pk : BitVec 512) : Option (Nat × Bool × List Nat) :=
  let n := packetTasks pk
  if packetTtab pk = 0 then
    let ts := partTiles s (ctxPart s ctx)
    if n ≤ ts.length then some (1, false, ts.take n) else none
  else
    match ctxBytes s ctx (packetTtab pk) 64, ctxBytes s ctx (packetTtab pk + 64) (4 * n) with
    | some h, some body =>
      let laps := leNat ((h.drop 4).take 2)
      let flags := leNat ((h.drop 6).take 1)
      let es := fours n body
      if leNat (h.take 4) = n ∧ 1 ≤ laps ∧ flags ≤ 1 ∧ (h.drop 7).all (· == 0) ∧ es.all (entryOk s ctx) ∧
          (es.head?.map entryLap) = some 0 ∧ lapsOk 0 [] es ∧ (es.getLast?.map entryLap) = some (laps - 1) then
        some (laps, flags == 1, es)
      else none
    | _, _ => none

/-- Entry i of a launch's timetable as it stands in memory. -/
def readEntry (s : State) (l : Launch) (i : Nat) : Option Nat :=
  if packetTtab l.packet = 0 then
    let ts := partTiles s (ctxPart s l.ctx)
    ts[i]?
  else (ctxBytes s l.ctx (packetTtab l.packet + 64 + 4 * i) 4).map leNat

/-- The entries of a lap from entry i on, judged as they are read: none in breach (R221). -/
def lapEntries (s : State) (l : Launch) (lap : Nat) : Nat → Nat → List (Nat × Nat × Bool) → Option (List (Nat × Nat × Bool))
  | 0, _, acc => some acc.reverse
  | fuel + 1, i, acc =>
    if packetTasks l.packet ≤ i then some acc.reverse
    else
      match readEntry s l i with
      | none => none
      | some e =>
        if entryLap e < lap then none
        else if lap < entryLap e then (if lap + 1 = l.laps then none else some acc.reverse)
        else if !entryOk s l.ctx e ∨ acc.any (fun y => y.2.1 == entryTile e) then none
        else lapEntries s l lap fuel (i + 1) ((i, entryTile e, entryPool e) :: acc)

/-- An entry of a heap for a task of a lap. -/
def lapEntry (s : State) (id : Nat) (l : Launch) (age : Nat) (e : Nat × Nat × Bool) : HeapEntry :=
  { group := e.2.1 / 32, tier := l.tier, deadline := packetDeadline l.packet, age := age, queue := l.queue, pos := l.pos,
    ctx := l.ctx, launch := id, since := s.cycle, promoted := false, work := .task e.1 e.2.1 e.2.2 }

/-- The entries of a lap as they stand in memory; none where it is in breach (R221). -/
def readLap (s : State) (l : Launch) (lap : Nat) : Option (List (Nat × Nat × Bool)) :=
  match lapEntries s l lap (packetTasks l.packet + 1) l.next [] with
  | some (e :: es) => some (e :: es)
  | _ => none

/-- The heaps that a lap's entries enter have room for it, besides the launch's own place with Nguka (R292). -/
def lapRoom (s : State) (id : Nat) (l : Launch) (es : List (Nat × Nat × Bool)) : Bool :=
  es.all (fun e => heapRoom { s with launches := tabDel s.launches id } (e.2.1 / 32) l.tier)

/-- A lap enters the heaps; a lap in breach ends the launch with REFUSE 0x05 (R221). -/
def enterLap (s : State) (id : Nat) (l : Launch) (lap age : Nat) (entries : Option (List (Nat × Nat × Bool))) : State :=
  match entries with
  | some es =>
    let l1 := { l with lap := lap, entries := es, lapAt := s.cycle, left := es.length, next := l.next + es.length,
                       raised := false, firstEnd := 0, lastEnd := 0, state := .running,
                       bound := ((tabFind s.ctxs l.ctx).map (·.skewbound.toNat)).getD 0 }
    es.foldl (fun s e => heapAdd s (lapEntry s id l1 age e)) { s with launches := tabPut s.launches id l1 }
  | none => { s with launches := tabPut s.launches id { l with state := .ended, refuse := 5, left := 0 } }

/-- LAP_ENTRY (R221): the next lap of a launch enters once every task of the lap before has retired, and, when that lap
raised a skew event under HOLD, once SKEWACK has cleared it, and while the heaps have room (R292). An aborted launch enters
no further lap. -/
def execLapEntry (launch : Nat) (s : State) : Out :=
  match tabFind s.launches launch with
  | some l =>
    if l.state = .running ∧ l.left = 0 ∧ l.lap + 1 < l.laps ∧ l.outcome = 0 ∧ !(l.hold && l.raised && l.skew != 0) then
      let es := readLap s l (l.lap + 1)
      if es.any (fun y => !lapRoom s launch l y) then .next s else .next (enterLap s launch l (l.lap + 1) s.cycle es)
    else .next s
  | none => .next s

/-- Tasks, entries, saved tasks or commands of a launch are left (R24). -/
def launchBusy (s : State) (id : Nat) (l : Launch) : Bool :=
  s.tiles.any (fun e => e.2.task.any (fun k => k.launch == id)) || s.heap.any (fun e => e.2.launch == id) ||
    s.saves.any (fun e => e.2.task.launch == id) ||
    s.cmds.any (fun e => !e.2.box && e.2.hwq == l.queue && e.2.pos == l.pos)

/-- No further lap of a launch is to enter. -/
def lapsOver (l : Launch) : Bool := l.state == .ended || (l.state == .running && (decide (l.laps ≤ l.lap + 1) || l.outcome != 0))

/-- LAUNCH_COMPLETION (R24, R221, R326). -/
def execLaunchCompletion (launch : Nat) (s : State) : Out :=
  match tabFind s.launches launch with
  | some l =>
    if lapsOver l ∧ l.left = 0 ∧ !launchBusy s launch l then
      if !laidOut s (recordAt s l.queue l.pos) then .fault (.noStorage (recordAt s l.queue l.pos)) else
      .next (endLaunch s launch l l.refuse l.cause
        (if l.outcome ≠ 0 then l.outcome else if l.refuse ≠ 0 then 2 else 1))
    else .next s
  | none => .next s

/-! ### The read of a packet (R21, R22, R217, R219, R292, R325, R333) -/

/-- The context a packet selects among those bound to its queue (R217, R295). -/
def packetCtx (s : State) (q : Nat) (pk : BitVec 512) : Option Nat :=
  if pk.getLsbD 31 then (boundCtxs s q).find? (· == (pk.extractLsb' 16 9).toNat) else (boundCtxs s q).head?

/-- The packet breaks a rule that PACKET covers (R219). -/
def packetBad (pk : BitVec 512) : Bool :=
  let entry := pk.extractLsb' 128 64
  let ttab := pk.extractLsb' 192 64
  pk.extractLsb' 56 8 != 1 || pk.extractLsb' 0 8 != 1 || packetTasks pk == 0 || pk.extractLsb' 25 6 != 0 ||
    pk.extractLsb' 8 8 != 0 || (!pk.getLsbD 31 && pk.extractLsb' 16 9 != 0) ||
    entry.extractLsb' 0 6 != 0 || entry.extractLsb' 52 12 != 0 || ttab.extractLsb' 0 6 != 0 || ttab.extractLsb' 52 12 != 0

/-- Device IDs of a list rise strictly. -/
def rising : List Nat → Bool
  | a :: b :: rest => decide (a < b) && rising (b :: rest)
  | _ => true

/-- The domain block of a replicated launch: GEN and the IDs; none is code 0x06 (R333). -/
def domainBlock (s : State) (q ctx : Nat) (pk : BitVec 512) : Option (Nat × List Nat) :=
  let repl := (pk.extractLsb' 32 8).toNat
  let n := repl + 1
  match ctxBytes s ctx (packetArg pk 3).toNat (16 + 4 * n) with
  | some b =>
    let gen := leNat (b.take 8)
    let ids := (fours n (b.drop 16)).map (· % 2 ^ 19)
    if repl < 64 ∧ leNat ((b.drop 8).take 2) = n ∧ rising ids ∧ ids.contains s.device ∧ (getHwq s q).lastGen < gen then
      some (gen, ids)
    else none
  | none => none

/-- The age of the packet at a position: when the tail that covers it was observed (R22). -/
def packetAge (hq : HwQueue) (pos : Nat) : Nat := ((hq.ages.find? (fun e => decide (pos < e.1))).map (·.2)).getD 0

/-- A launch as its packet has it. -/
def newLaunch (q pos ctx tier : Nat) (pk : BitVec 512) (age gen : Nat) (members : List Nat) : Launch :=
  { queue := q, pos := pos, ctx := ctx, tier := tier, packet := pk, age := age, state := .checking, waitdef := 0, kdepth := 1,
    laps := 1, hold := false, next := 0, lap := 0, entries := [], lapAt := 0, left := 0, firstEnd := 0, lastEnd := 0,
    bound := 0, skew := 0, raised := false, retired := 0, refuse := 0, outcome := 0, cause := 0, members := members,
    gen := gen, fabInst := 0, colls := [], wanted := [], floored := [], load := none }

/-- What the Signal box makes of a packet: a refusal, or a launch that Nguka is to check. -/
def takePacket (s : State) (q pos age ctx0 : Nat) (pk : BitVec 512) : State :=
  let id := s.nextLaunch
  let s1 := { s with nextLaunch := id + 1 }
  match packetCtx s q pk with
  | none => refuseLaunch s1 id (newLaunch q pos ctx0 0 pk age 0 []) 1
  | some ctx =>
    let l := newLaunch q pos ctx (ctxTier s ctx) pk age 0 []
    if packetBad pk then refuseLaunch s1 id l 1
    else
      match timetable s ctx pk with
      | none => refuseLaunch s1 id l 5
      | some (laps, hold, es) =>
        let put := fun (y : Launch) =>
          (List.range 8).foldl (fun s g => noteFull s g y.tier)
            { s1 with launches := tabPut s1.launches id { y with laps := laps, hold := hold },
                      launchTiles := tabPut s1.launchTiles id (es.map entryTile).eraseDups }
        if pk.extractLsb' 32 8 = 0 then put l
        else
          match domainBlock s q ctx pk with
          | none => refuseLaunch s1 id l 6
          | some (gen, ids) => put { l with gen := gen, members := ids }

/-- Stack groups in which a context's partition has clusters. -/
def ctxGroups (s : State) (ctx : Nat) : List Nat :=
  (List.range 8).filter (fun g => (List.range 8).any (fun k => bitOf (partClusters s (ctxPart s ctx)) (8 * g + k)))

/-- A packet of a queue is there to be read, but for room in the heaps: the other conditions of R325, an enabled function
(R303), and no launch of the queue with Nguka. -/
def packetWaits (s : State) (q : Nat) : Bool :=
  let hq := getHwq s q
  let slots := queueSlots s q
  match (boundCtxs s q).head? with
  | none => false
  | some ctx =>
    hq.en && decide (hq.head < hq.tail) && !vfStopped s ctx &&
      !s.launches.any (fun e => e.2.queue == q && (e.2.pos + slots == hq.head || e.2.state == .checking))

/-- The monitor may read a queue's next packet: the heaps of every stack group that it may reach have room (R292, R325). -/
def mayRead (s : State) (q : Nat) : Bool :=
  packetWaits s q && (boundCtxs s q).head?.any (fun ctx => (ctxGroups s ctx).all (fun g => heapRoom s g (ctxTier s ctx)))

/-- Place of a queue in the turn after the one read last. -/
def turnOf (last q : Nat) : Nat := (q + 1024 - (last + 1)) % 1024

/-- Queues of a Signal box and tier that pass a test. -/
def boxQueues (s : State) (box tier : Nat) (test : Nat → Bool) : List Nat :=
  (s.hwqs.map (·.1)).filter (fun q => queueBox s q == box && (boundCtxs s q).head?.map (ctxTier s) == some tier && test q)

/-- Queues of a Signal box and tier whose next packet may be read. -/
def readyQueues (s : State) (box tier : Nat) : List Nat := boxQueues s box tier (mayRead s)

/-- While packets of a tier have had to wait for room, queues are taken in increasing number after the last (R292). -/
def queueTurn (s : State) (q key box tier : Nat) : Bool :=
  !s.crowded.contains key ||
    (readyQueues s box tier).all (fun p => decide (turnOf (tabGet 0 s.lastRead key) q ≤ turnOf (tabGet 0 s.lastRead key) p))

/-- PACKET_READ (R325): the packet at HEAD is read, HEAD advances, and the packet is placed or refused. -/
def execPacketRead (queue : Nat) (s : State) : Out :=
  let ctx := ((boundCtxs s queue).head?).getD 0
  let box := queueBox s queue
  let tier := ctxTier s ctx
  let key := 4 * box + tier
  if s.boot = .up ∧ mayRead s queue ∧ queueTurn s queue key box tier then
    let hq := getHwq s queue
    let pa := ((queueWord s queue 0).toNat) + 64 * (hq.head % queueSlots s queue)
    if !laidOut s pa then .fault (.noStorage pa)
    else if !laidOut s (recordAt s queue hq.head) then .fault (.noStorage (recordAt s queue hq.head)) else
    let pk := BitVec.ofNat 512 (paNat s pa 64)
    let s1 := modHwq s queue (fun x => { x with head := hq.head + 1 })
    let s2 := paStore s1 (queueDesc s1 queue + 32) (leBytes 8 (hq.head + 1))
    let s3 := takePacket s2 queue hq.head (packetAge hq hq.head) ctx pk
    let s4 := { s3 with lastRead := tabPut s3.lastRead key queue }
    if (boxQueues s4 box tier (packetWaits s4)).isEmpty then .next { s4 with crowded := s4.crowded.filter (· != key) }
    else .next s4
  else .next s

end Sys2Proof.Machine
end

