-- ==== Sys2Proof/Machine/Sync.lean ====
section
/-! DEFINITION. Semaphores, ring-slot counters, buffer rings and barriers (R255 to R268). -/

namespace Sys2Proof.Machine

/-! ### Semaphores (R255 to R259) -/

/-- Stack group of a core's tile. -/
def coreGroup (s : State) (c : CoreId) : Nat := coreTile s c / 32

/-- Key of a physical semaphore of a stack group. -/
def semKey (group n : Nat) : Nat := 4096 * group + n

/-- A physical semaphore. -/
def getSem (s : State) (k : Nat) : Sem := tabGet Sem.zero s.sems k

/-- Replaces a physical semaphore. -/
def setSem (s : State) (k : Nat) (x : Sem) : State := { s with sems := tabSet Sem.zero s.sems k x }

/-- The physical semaphore that a virtual number names in a core's stack group; none is unmapped (R255). -/
def semOf (s : State) (c : CoreId) (v : Nat) : Option Nat :=
  let g := coreGroup s c
  (tabFind s.ctxs (ctxNo s c)).bind (fun x => (tabFind x.semMap (1024 * g + v)).map (semKey g))

/-- Units of SEMPOST and SEMWAIT (R257). -/
def semUnits (st : Strand) (f : FQ) : Nat := if f.rc = 0 then f.qn.toNat + 1 else ((st.getG f.rc).extractLsb' 0 32).toNat

/-- SEMRANGE with its reason and details (R271). -/
def semRange (s : State) (v reason count n : Nat) : Res :=
  .trap { cond := 33, d0 := BitVec.ofNat 64 (reason * 2 ^ 62 + v), d1 := BitVec.ofNat 64 (n * 2 ^ 32 + count) } s

/-- SEMPOST (R258). -/
def bodySempost (f : FQ) : Body := fun c s =>
  let n := semUnits (getStrand s c) f
  match semOf s c f.aux.toNat with
  | none => semRange s f.aux.toNat 0 0 n
  | some k =>
    let x := getSem s k
    if 2 ^ 32 ≤ x.count + n then semRange s f.aux.toNat 1 x.count n
    else .retire (setSem s k { x with count := x.count + n, posted := x.posted + n })

/-- SEMWAIT (R258): a strand that is not in the queue joins its tail; the head takes its units when they are there, in a
clock after their post and after the waiter ahead of it. -/
def bodySemwait (f : FQ) : Body := fun c s =>
  let n := semUnits (getStrand s c) f
  match semOf s c f.aux.toNat with
  | none => semRange s f.aux.toNat 0 0 n
  | some k =>
    let x := getSem s k
    let q := if x.queue.contains c then x.queue else x.queue ++ [c]
    if q.head? = some c ∧ n ≤ x.count - x.posted ∧ x.taken = false then
      .retire (setSem s k { x with count := x.count - n, queue := q.drop 1, taken := true })
    else .wait { what := .semaphore, kind := 5, name := f.aux.toNat } (setSem s k { x with queue := q })

/-- SEMTRY (R258). -/
def bodySemtry (f : FQ) : Body := fun c s =>
  let n := f.qn.toNat + 1
  match semOf s c f.aux.toNat with
  | none => semRange s f.aux.toNat 0 0 n
  | some k =>
    let x := getSem s k
    if x.queue = [] ∧ n ≤ x.count then
      .retire (setGOf (setSem s k { x with count := x.count - n }) c f.rc (BitVec.ofNat 64 (2 ^ 63 + x.count)))
    else .retire (setGOf s c f.rc (BitVec.ofNat 64 x.count))

/-! ### Ring-slot counters (R260 to R262) -/

/-- RINGRANGE with its reason and details (R271). -/
def ringRange (s : State) (n reason : Nat) (d1 : Word) : Res :=
  .trap { cond := 34, d0 := BitVec.ofNat 64 (reason * 2 ^ 61 + n), d1 := d1 } s

/-- A counter of a core's context; none beyond RINGS (R260). -/
def ringCount (s : State) (c : CoreId) (r : Nat) : Option Nat :=
  (tabFind s.ctxs (ctxNo s c)).bind (fun x => if r < ringsOf x then some (tabGet 0 x.ringCtr r) else none)

/-- Number of the counter that a word names. -/
def ringNo (f : FQ) : Nat := (f.aux.extractLsb' 0 8).toNat

/-- RINGPOST (R261). -/
def bodyRingpost (f : FQ) : Body := fun c s =>
  match ringCount s c (ringNo f) with
  | none => ringRange s (ringNo f) 0 0
  | some _ => .retire (ringPost s (ctxNo s c) (ringNo f) (semUnits (getStrand s c) f))

/-- RINGWAIT (R261). -/
def bodyRingwait (f : FQ) : Body := fun c s =>
  match ringCount s c (ringNo f) with
  | none => ringRange s (ringNo f) 0 0
  | some v =>
    if ringReached v (((getStrand s c).getG f.rc).extractLsb' 0 32).toNat then .retire s
    else .wait { what := .ringSlot, kind := 6, name := ringNo f } s

/-! ### Buffer rings (R263 to R265) -/

/-- The four counts, as DETAIL1 has them (R271). -/
def ringWord (b : BufRing) : Word := BitVec.ofNat 64 (b.pa + b.pr * 2 ^ 16 + b.ca * 2 ^ 32 + b.cr * 2 ^ 48)

/-- A ring of the core's own tile that its context configured. -/
def bufRing (s : State) (c : CoreId) (n : Nat) : Option BufRing :=
  (tabFind (getTile s (coreTile s c)).rings n).bind (fun b => if b.ctx = ctxNo s c then some b else none)

/-- Replaces a ring of the core's tile. -/
def setRing (s : State) (c : CoreId) (n : Nat) (b : BufRing) : State :=
  modTile s (coreTile s c) (fun x => { x with rings := tabPut x.rings n b })

/-- CYCLE when a core's wait on a ring and side began. -/
def ringSince (name : Nat) (st : Strand) : Option Nat :=
  st.wait.bind (fun w => if w.what = .buffer ∧ w.name.toNat = name then some w.began else none)

/-- Cores that may wait on the rings of a tile: its strands, and the core programs it serves (R377). -/
def ringCores (s : State) (t : Nat) : List CoreId :=
  (List.range 4).map (CoreId.tile t) ++ (s.boxProgs.filter (fun e => e.2.tile == t)).map (fun e => CoreId.sbox e.1)

/-- Another core's wait on the ring and side began before this one's, or in the same clock on a lower sequencer (R264). A
core that does not wait yet comes after every one that does. -/
def waitedLonger (s : State) (c : CoreId) (name : Nat) : Bool :=
  let own := ringSince name (getStrand s c)
  (ringCores s (coreTile s c)).any (fun d =>
    d != c && (getStrand s d).run == .waiting &&
      (match ringSince name (getStrand s d), own with
       | some n, some m => decide (n < m) || (n == m && decide (coreSeq d < coreSeq c))
       | some _, none => true
       | none, _ => false))

/-- A higher sequencer's ACQBUF or RELBUF has been applied to the ring in this clock, so that this one's is for the next
(R264). -/
def ringLater (s : State) (c : CoreId) (b : BufRing) : Bool := b.lastAt == s.cycle && decide (coreSeq c < b.lastSeq)

/-- Applies a core's ACQBUF or RELBUF to a ring. -/
def useRing (s : State) (c : CoreId) (n : Nat) (b : BufRing) : State :=
  setRing s c n { b with lastAt := s.cycle, lastSeq := coreSeq c }

/-- ACQBUF on a side (R264). `counts` gives the count acquired so far and whether a slot is there. -/
def acqBody (f : FQ) (side : Nat) (free : BufRing → Bool) (at_ : BufRing → Nat) (take : BufRing → BufRing) : Body := fun c s =>
  let n := f.qn.toNat
  match bufRing s c n with
  | none => ringRange s n 1 0
  | some b =>
    let name := n + 16 * side
    if free b && !waitedLonger s c name && !ringLater s c b then
      .retire (modStrand (useRing s c n (take b)) c (fun st => st.setA (aNum f.rc) (mkA (b.base + at_ b % max 1 b.slots) 0)))
    else .wait { what := .buffer, kind := 7, name := name } s

/-- A producer finds a free slot. -/
def slotFree (b : BufRing) : Bool := decide ((b.pa + 2 ^ 16 - b.cr) % 2 ^ 16 < b.slots)

/-- ACQBUF.P. -/
def bodyAcqbufP (f : FQ) : Body := fun c s =>
  acqBody f 0 slotFree (·.pa) (fun b => { b with pa := (b.pa + 1) % 2 ^ 16 }) c s

/-- ACQBUF.C. -/
def bodyAcqbufC (f : FQ) : Body := fun c s =>
  acqBody f 1 (fun b => b.ca != b.pr) (·.ca) (fun b => { b with ca := (b.ca + 1) % 2 ^ 16 }) c s

/-- RELBUF on a side (R264). -/
def relBody (f : FQ) (held : BufRing → Bool) (give : BufRing → BufRing) : Body := fun c s =>
  let n := f.qn.toNat
  match bufRing s c n with
  | none => ringRange s n 1 0
  | some b =>
    if ringLater s c b then .more s
    else if held b then .retire (useRing s c n (give b))
    else ringRange s n 2 (ringWord b)

/-- RELBUF.P. -/
def bodyRelbufP (f : FQ) : Body := relBody f (fun b => b.pr != b.pa) (fun b => { b with pr := (b.pr + 1) % 2 ^ 16 })

/-- RELBUF.C. -/
def bodyRelbufC (f : FQ) : Body := relBody f (fun b => b.cr != b.ca) (fun b => { b with cr := (b.cr + 1) % 2 ^ 16 })

/-- A ring as SET configures it (R264). -/
def newRing (ctx base slots : Nat) : BufRing :=
  { ctx := ctx, base := base, slots := slots, pa := 0, pr := 0, ca := 0, cr := 0, lastAt := 0, lastSeq := 0 }

/-- RELBUF.SET (R264). A ring of another context traps with reason 1. -/
def bodyRelbufSet (f : FQ) : Body := fun c s =>
  let n := f.qn.toNat
  let t := coreTile s c
  let g := (getStrand s c).getG f.rc
  let base := (g.extractLsb' 0 16).toNat
  let slots := (g.extractLsb' 16 5).toNat
  let old := tabFind (getTile s t).rings n
  match old with
  | some b =>
    if b.ctx ≠ ctxNo s c then ringRange s n 1 0
    else if ringLater s c b then .more s
    else if b.pa ≠ b.pr ∨ b.ca ≠ b.cr then ringRange s n 3 (ringWord b)
    else if slots = 0 then .retire (modTile s t (fun x => { x with rings := tabDel x.rings n }))
    else if g.extractLsb' 21 43 ≠ 0 ∨ 16 < slots ∨ base = 0 ∨ 4095 < base + slots - 1 then ringRange s n 4 g
    else .retire (useRing s c n (newRing (ctxNo s c) base slots))
  | none =>
    if slots = 0 then .retire s
    else if g.extractLsb' 21 43 ≠ 0 ∨ 16 < slots ∨ base = 0 ∨ 4095 < base + slots - 1 then ringRange s n 4 g
    else .retire (useRing s c n (newRing (ctxNo s c) base slots))

/-! ### Barriers (R266 to R268) -/

/-- The scope whose barrier a BAR joins: FABRIC acts as DEVICE on a launch that is not replicated (R266). -/
def barScope (l : Launch) (scope : Nat) : Nat := if scope = 5 ∧ l.members = [] then 3 else scope

/-- Two tiles lie in one unit of a scope. -/
def sameUnit (scope a b : Nat) : Bool :=
  match scope with
  | 1 => a / 4 == b / 4
  | 2 => a / 32 == b / 32
  | _ => true

/-- A strand waits, or waited when its task was saved, at the barrier of a scope. -/
def waitsBarrier (l : Launch) (scope : Nat) (st : Strand) : Bool :=
  (st.run == .waiting || (st.run == .parked && st.under == .waiting)) &&
    st.wait.any (fun w => w.what == .barrier && w.name != 0 && barScope l w.name.toNat == scope)

/-- The C strand of the task of an index of a launch: that of the tile on which it runs, or of its save. -/
def taskC (s : State) (id index ctx tile : Nat) : Option Strand :=
  let mine := fun (k : Task) => k.launch == id && k.index == some index
  if (getTile s tile).task.any mine then some ((getTile s tile).strand 0)
  else (tabFind s.saves (256 * ctx + tile)).bind (fun sv => if mine sv.task then some (sv.tile.strand 0) else none)

/-- The task of a timetable entry has arrived at the barrier of a scope; a saved task stays arrived (R266, R298). -/
def atBarrier (s : State) (id : Nat) (l : Launch) (scope index tile : Nat) : Bool :=
  (taskC s id index l.ctx tile).any (waitsBarrier l scope)

/-- Participants of a barrier: the tasks of the lap in the unit of a tile (R266). -/
def barTasks (l : Launch) (scope tile : Nat) : List (Nat × Nat) :=
  (l.entries.filter (fun e => sameUnit scope e.2.1 tile)).map (fun e => (e.1, e.2.1))

/-- Arrivals of every other member device for the instance under way have come (R268). -/
def fabricIn (s : State) (l : Launch) : Bool :=
  l.members.all (fun d => d == s.device || (getHwq s l.queue).arrivals.contains (d, l.gen, l.fabInst))

/-- A barrier of FABRIC scope is complete: its arrivals are used up, and the next instance begins. -/
def fabricNext (s : State) (id : Nat) (l : Launch) : State :=
  modHwq { s with launches := tabPut s.launches id { l with fabInst := l.fabInst + 1 } } l.queue
    (fun q => { q with arrivals := q.arrivals.filter (fun a => !(a.2.1 == l.gen && a.2.2 == l.fabInst)) })

/-- Participants that wait at a barrier continue. -/
def releaseBarrier (s : State) (id : Nat) (l : Launch) (scope tile : Nat) : State :=
  (barTasks l scope tile).foldl (fun s e =>
    if atBarrier s id l scope e.1 e.2 then onCore s l.ctx (.tile e.2 0) (fun u => completeWait u (.tile e.2 0)) else s) s

/-- The barrier of a scope is complete but for one participant, which arrives now. -/
def lastArrival (s : State) (id : Nat) (l : Launch) (scope index tile : Nat) : Bool :=
  (barTasks l scope tile).all (fun e => e == (index, tile) || atBarrier s id l scope e.1 e.2) &&
    (scope != 5 || fabricIn s l)

/-- BAR on a TILE scope: the strand waits until every other strand of the task that is neither IDLE nor ARRIVED waits
too. -/
def barTile (s : State) (t q : Nat) : Res :=
  let x := getTile s t
  if (List.range 4).all (fun p => p == q % 4 || (x.strand p).run == .idle || (x.strand p).run == .arrived ||
      atTileBarrier (x.strand p)) then
    .retire (releaseTile s t)
  else .wait { what := .barrier, kind := 8, name := 0 } s

/-- BAR on a wider scope (R266). -/
def barWide (s : State) (t scope : Nat) : Res :=
  match (getTile s t).task with
  | none => .wait { what := .barrier, kind := 8, name := scope } s
  | some k =>
    match tabFind s.launches k.launch, k.index with
    | some l, some index =>
      let sc := barScope l scope
      if lastArrival s k.launch l sc index t then
        let s1 := releaseBarrier s k.launch l sc t
        .retire (if sc = 5 then fabricNext s1 k.launch l else s1)
      else .wait { what := .barrier, kind := 8, name := scope } s
    | _, _ => .wait { what := .barrier, kind := 8, name := scope } s

/-- BAR (R266). A core program's BAR.TILE completes at once (R377). -/
def bodyBar (f : FQ) : Body := fun c s =>
  match c with
  | .sbox _ => .retire s
  | .tile t q =>
    if f.qn.toNat = 0 then barTile s t q
    else barWide s t f.qn.toNat

/-! ### The meanings -/

/-- SEMPOST (OP 0xC1, R258). -/
def execSempost (f : FQ) (s : State) : Out := issueWord (.sempost f) (bodySempost f) s

/-- SEMWAIT (OP 0xC2, R258). -/
def execSemwait (f : FQ) (s : State) : Out := issueWord (.semwait f) (bodySemwait f) s

/-- SEMTRY (OP 0xC3, R258). -/
def execSemtry (f : FQ) (s : State) : Out := issueWord (.semtry f) (bodySemtry f) s

/-- RINGPOST (OP 0xC7, R261). -/
def execRingpost (f : FQ) (s : State) : Out := issueWord (.ringpost f) (bodyRingpost f) s

/-- RINGWAIT (OP 0xC6, R261). -/
def execRingwait (f : FQ) (s : State) : Out := issueWord (.ringwait f) (bodyRingwait f) s

/-- ACQBUF_P (OP 0xC4, R264). -/
def execAcqbufP (f : FQ) (s : State) : Out := issueWord (.acqbufP f) (bodyAcqbufP f) s

/-- ACQBUF_C (OP 0xC4, R264). -/
def execAcqbufC (f : FQ) (s : State) : Out := issueWord (.acqbufC f) (bodyAcqbufC f) s

/-- RELBUF_P (OP 0xC5, R264). -/
def execRelbufP (f : FQ) (s : State) : Out := issueWord (.relbufP f) (bodyRelbufP f) s

/-- RELBUF_C (OP 0xC5, R264). -/
def execRelbufC (f : FQ) (s : State) : Out := issueWord (.relbufC f) (bodyRelbufC f) s

/-- RELBUF_SET (OP 0xC5, R264). -/
def execRelbufSet (f : FQ) (s : State) : Out := issueWord (.relbufSet f) (bodyRelbufSet f) s

/-- BAR (OP 0xC8, R266). -/
def execBar (f : FQ) (s : State) : Out := issueWord (.bar f) (bodyBar f) s

end Sys2Proof.Machine
end

