-- ==== Sys2Proof/Machine/Nguka.lean ====
section
/-! DEFINITION. Nguka's part of a launch and of a core program: the checks of the code object, the floors, the segments;
and the arrivals of replicated launches (R11, R45, R77, R116, R117, R130, R131, R219, R268, R349 to R351, R354, R361,
R363). -/

namespace Sys2Proof.Machine

/-! ### The code object (R349 to R351) -/

/-- What Nguka takes from a code object. -/
structure Prog where
  base : Nat
  /-- FLOOR0 to FLOOR6 and FP0 to FP6. -/
  floors : Option (List Nat)
  fps : List Nat
  waitdef : BitVec 10
  kdepth : Nat
  /-- Name, BYTES and image offset of each segment. -/
  segs : List (Nat × Nat × Nat)
  /-- Edges (a, b) of the semaphore wait graph. -/
  edges : List (Nat × Nat)
  deriving DecidableEq, Repr

/-- Doublewords of a run of bytes. -/
def eights : Nat → List Byte → List Nat
  | 0, _ => []
  | n + 1, bs => leNat (bs.take 8) :: eights n (bs.drop 8)

/-- Sixteen-bit fields of a doubleword, the lowest first. -/
def quarters (n w : Nat) : List Nat := (List.range n).map (fun k => w / 2 ^ (16 * k) % 2 ^ 16)

/-- Segment-table entries; none where a must-be-0 bit is set. -/
def segTable : List Nat → Option (List (Nat × Nat × Nat))
  | a :: b :: rest =>
    if a / 2 ^ 16 % 2 ^ 16 ≠ 0 then none else (segTable rest).map (fun t => (a % 2 ^ 16, a / 2 ^ 32, b) :: t)
  | _ => some []

/-- Edge-table entries; none where a must-be-0 bit is set. -/
def edgeTable : List Nat → Option (List (Nat × Nat))
  | [] => some []
  | w :: rest =>
    if w / 2 ^ 26 ≠ 0 ∨ w / 2 ^ 10 % 2 ^ 6 ≠ 0 then none
    else (edgeTable rest).map (fun t => (w % 2 ^ 10, w / 2 ^ 16 % 2 ^ 10) :: t)

/-- Names of a segment table are distinct and every entry obeys R347. -/
def segsOk : List Nat → List (Nat × Nat × Nat) → Bool
  | _, [] => true
  | used, (n, bytes, _) :: rest =>
    decide (1 ≤ n) && decide (n ≤ 4095) && !used.contains n && bytes % 64 == 0 && decide (64 ≤ bytes) &&
      decide (bytes ≤ 2 ^ 20) && segsOk (n :: used) rest

/-- An image offset names a pool header at word 0 of a block within the object, and its data fit (R45, R351). -/
def imageOk (s : State) (ctx base len bytes img : Nat) : Bool :=
  img == 0 || (img % 64 == 0 && decide (img < len) &&
    (match objNat s ctx (base + img) 8 with
     | some w => w / 2 ^ 56 == 0xFE && decide (8 * (w / 2 ^ 40 % 2 ^ 16) ≤ bytes)
     | none => false))

/-- Set bits of a byte. -/
def bitCount (n : Nat) : Nat := ((List.range 8).filter (fun k => n / 2 ^ k % 2 == 1)).length

/-- The tables of a code object whose header is in order. -/
def progTables (s : State) (ctx base : Nat) (h : List Nat) : Option Prog :=
  let at_ := fun n => h.getD n 0
  let nseg := at_ 2 / 2 ^ 32 % 2 ^ 16
  let nedge := at_ 2 / 2 ^ 48
  match objRead s ctx (pagesOf (16 * nseg)) (base + at_ 3) (16 * nseg),
      objRead s ctx (pagesOf (8 * nedge)) (base + at_ 4) (8 * nedge) with
  | some sb, some eb =>
    match segTable (eights (2 * nseg) sb), edgeTable (eights nedge eb) with
    | some segs, some edges =>
      if segsOk [] segs ∧ segs.all (fun g => imageOk s ctx base (at_ 7) g.2.1 g.2.2) then
        some { base := base, floors := if at_ 0 / 2 ^ 48 % 2 = 1 then some (quarters 4 (at_ 5) ++ quarters 3 (at_ 6)) else none,
               fps := quarters 4 (at_ 8) ++ quarters 3 (at_ 9), waitdef := BitVec.ofNat 10 (at_ 2),
               kdepth := at_ 2 / 2 ^ 16 % 2 ^ 16, segs := segs, edges := edges }
      else none
    | _, _ => none
  | _, _ => none

/-- The header is in order but for its tables (R349, R351). -/
def headerOk (h : List Nat) : Bool :=
  let at_ := fun n => h.getD n 0
  let len := at_ 7
  let low := fun (l : List Nat) => l.all (fun v => decide (v < 2 ^ 15))
  at_ 0 % 2 ^ 32 == 0xE4C80A17 && at_ 0 / 2 ^ 32 % 2 ^ 16 == 1 && at_ 0 / 2 ^ 49 == 0 && at_ 2 / 2 ^ 10 % 2 ^ 6 == 0 &&
    low (quarters 4 (at_ 5)) && low (quarters 3 (at_ 6)) && low (quarters 4 (at_ 8)) && low (quarters 3 (at_ 9)) &&
    at_ 9 / 2 ^ 48 == 0 && (h.drop 10).all (· == 0) &&
    at_ 1 % 64 == 0 && decide (at_ 1 < len) && at_ 3 % 8 == 0 && decide (at_ 3 < len) && at_ 4 % 8 == 0 &&
    decide (at_ 4 < len) &&
    decide (bitCount (at_ 6 / 2 ^ 56) ≤ 3) && (at_ 6 / 2 ^ 56) &&& (255 - at_ 6 / 2 ^ 48 % 2 ^ 8) == 0 &&
    at_ 2 / 2 ^ 16 % 2 ^ 16 != 0

/-- The code object at a base, for an entry address; none is code 0x02, CODE (R351). -/
def readProg (s : State) (ctx base : Nat) : Option (Nat × Prog) :=
  match objRead s ctx (pagesOf 128) base 128 with
  | some b =>
    let h := eights 16 b
    if headerOk h then (progTables s ctx base h).map (fun p => (base + h.getD 1 0, p)) else none
  | none => none

/-- Edges that may lie on a cycle: those whose end is the start of another, found again and again. -/
def cyclePart : Nat → List (Nat × Nat) → List (Nat × Nat)
  | 0, es => es
  | fuel + 1, es => cyclePart fuel (es.filter (fun e => es.any (fun d => d.1 == e.2)))

/-- The semaphore wait graph has a cycle (R77). -/
def hasCycle (es : List (Nat × Nat)) : Bool := !(cyclePart (es.length + 1) es).isEmpty

/-- The object among those loaded for the context whose base and ENTRY give an address (R351). -/
def findBase (s : State) (ctx entry : Nat) : Option Nat :=
  (((tabFind s.ctxs ctx).map (·.bases)).getD []).find? (fun b =>
    (objNat s ctx (b + 8) 8).any (fun e => b + e == entry))

/-- Nguka loads a code object for a context, and keeps its base (R351, log entry 45). -/
def loadObject (s : State) (ctx : Nat) (base : Option Nat) : State :=
  match base with
  | some b => modCtx s ctx (fun x => { x with bases := if x.bases.contains b then x.bases else x.bases ++ [b] })
  | none => s

/-! ### Floors (R130, R131, R351) -/

/-- The floors that a code object wants: those of its header, or its static footprints (R131). -/
def Prog.wanted (p : Prog) : List Nat := p.floors.getD p.fps

/-- The floors fit the tile and cover the static footprints. -/
def floorsFit (s : State) (p : Prog) (tile : Nat) : Bool :=
  floorsHold s tile p.wanted &&
    (List.range 7).all (fun k => decide (p.fps.getD k 0 ≤ (raisedFloors s tile p.wanted).getD k 0))

/-! ### Segments (R11, R116, R117, R354, R361) -/

/-- A held segment of another length or home (R117). -/
def segDiffers (s : State) (ctx home : Nat) (g : Nat × Nat × Nat) : Bool :=
  (findSeg s ctx g.1).any (fun x => !x.making && (x.bytes != g.2.1 || x.home != home))

/-- Some segment of the code object clashes with a held one. -/
def segClash (s : State) (ctx home : Nat) (p : Prog) : Bool := p.segs.any (segDiffers s ctx home)

/-- The data of a pool, header copies skipped (R45). Where its blocks cannot be read, which R351 lists as no refusal, nothing
is copied (log entry 64). -/
def poolData (s : State) (ctx va : Nat) : List Byte :=
  let n := ((objNat s ctx va 8).getD 0) / 2 ^ 40 % 2 ^ 16
  let len := 64 * max 1 ((n + 6) / 7)
  let b := (objRead s ctx (pagesOf len) va len).getD []
  ((List.range (max 1 ((n + 6) / 7))).flatMap (fun k => ((b.drop (64 * k + 8)).take 56))).take (8 * n)

/-- Copies a segment's image, if there is one, into its home copy; the other copies of a held REPLICA segment stay as they are
(log entry 71). -/
def loadImage (s : State) (ctx home base : Nat) (g : Nat × Nat × Nat) : State :=
  if g.2.2 = 0 then s else segWrite s ctx g.1 home 0 (poolData s ctx (base + g.2.2))

/-- What a turn of Nguka's work on segments comes to. -/
inductive LoadTurn where
  /-- Every segment is there. -/
  | done (s : State)
  | goesOn (s : State) (l : Loading)
  /-- A refusal: what it had allocated is freed again. -/
  | refused (code : Nat) (s : State)

/-- Nguka's request for a segment waits in the home tile's queue, like that of any client (R116, R126, log entry 20). -/
def loaderWait (s : State) (party : Party) (ctx : Nat) (l : Loading) (g : Nat × Nat × Nat) (alloc : Bool) : LoadTurn :=
  .goesOn (queueGrant s l.home (newReq s (some party) l.home ctx loaderClient l.home [(g.1, granOf g.2.1)] alloc))
    { l with answer := none }

/-- The first segment is there, and Nguka turns to the next. -/
def Loading.next (l : Loading) (made : Option Nat) : Loading :=
  { l with todo := l.todo.drop 1, made := made.toList ++ l.made, answer := none }

/-- Nguka's work on the first segment of those to come: allocated, or kept and its image copied, under a grant (R117,
R354). A name whose SALLOC is in progress is waited for (R137). -/
def loadTurn (s : State) (party : Party) (ctx : Nat) (l : Loading) : LoadTurn :=
  match l.todo with
  | [] => .done s
  | g :: _ =>
    let items := [(g.1, granOf g.2.1)]
    let fail := fun code => LoadTurn.refused code (l.made.foldl (fun s n => freeSeg s ctx n) s)
    if segDiffers s ctx l.home g then fail 7
    else if l.answer = some false then fail 8
    else if (findSeg s ctx g.1).any (·.making) then .goesOn s l
    else if (findSeg s ctx g.1).isSome then
      if g.2.2 = 0 then .goesOn s (l.next none)
      else if (l.answer = some true ∧ grantHolds s ctx l.home items) ∨
          grantAtOnce s ctx l.home loaderClient party items then
        .goesOn (loadImage (touchSeg (dropGrant s l.home party) ctx g.1 l.home) ctx l.home l.base g) (l.next none)
      else loaderWait s party ctx l g false
    else if l.answer = some true ∧ grantHolds s ctx l.home items then
      .goesOn (loadImage (addCopy s ctx g.1 g.2.1 l.home l.home 0 false) ctx l.home l.base g) (l.next (some g.1))
    else loaderWait s party ctx l g true

/-- The answer to a request of Nguka's. -/
def answerLoading (l : Option Loading) (ok : Bool) : Option Loading := l.map (fun x => { x with answer := some ok })

/-! ### The checks (R351) -/

/-- What Nguka's checks of a code object come to. -/
inductive Checked where
  | ok (p : Prog) (s : State)
  | refused (code : Nat) (s : State)

/-- Nguka's checks of the code object at a base, in the order of R351, with the floors it raises on every tile; the first
failure decides. -/
def ngukaCheck (s : State) (ctx : Nat) (base : Option Nat) (tiles : List Nat) (home : Nat) : Checked :=
  match base.bind (readProg s ctx) with
  | none => .refused 2 s
  | some (_, p) =>
    if hasCycle p.edges then .refused 3 s
    else if !tiles.all (floorsFit s p) then .refused 4 s
    else
      let s1 := tiles.foldl (raiseFloors p.wanted) s
      if segClash s1 ctx home p then .refused 7 s1 else .ok p s1

/-- Nguka's work on the segments of a code object begins. -/
def Prog.loading (p : Prog) (home : Nat) : Loading := { base := p.base, home := home, todo := p.segs, made := [], answer := none }

/-- The entries of a lap still name tiles of the launch's partition (R19, R221). -/
def lapInPart (s : State) (l : Launch) : Bool :=
  l.entries.all (fun e => partHasTile s (ctxPart s l.ctx) e.2.1 && tilePresent s e.2.1)

/-- A launch that Nguka has passed: lap 0 enters, with the entries that were read for its home (R361), judged again as the
partition stands now (R221), and a replicated launch begins to gather its arrivals (R268). -/
def acceptLaunch (s : State) (id : Nat) (l : Launch) : State :=
  let s1 := if l.members = [] then s else modHwq s l.queue (fun q => { q with lastGen := l.gen })
  let s2 := enterLap s1 id { l with load := none } 0 l.age (if lapInPart s l then some l.entries else none)
  match tabFind s2.launches id with
  | some l2 => if l2.members ≠ [] ∧ l2.state = .running ∧ fabricIn s2 l2 then fabricNext s2 id l2 else s2
  | none => s2

/-- A launch's first check: lap 0 is read, whose task 0 gives the home (R221, R361), and the code object is judged. -/
def firstCheck (s : State) (id : Nat) (l : Launch) : State :=
  match readLap s l 0 with
  | none => enterLap s id l 0 l.age none
  | some es =>
    let home := (es.head?.map (·.2.1)).getD 0
    let tiles := (tabGet [] s.launchTiles id ++ es.map (·.2.1)).eraseDups
    match ngukaCheck s l.ctx (findBase s l.ctx (packetEntry l.packet)) tiles home with
    | .ok p s1 =>
      modLaunch s1 id (fun y => { y with waitdef := p.waitdef, kdepth := p.kdepth, entries := es, wanted := p.wanted,
                                         floored := tiles, load := some (p.loading home) })
    | .refused code s1 => refuseLaunch s1 id l code

/-- NGUKA_LAUNCH_CHECK (R351): the checks, and then, in later events, the segments one by one, and lap 0 once the heaps have
room. `base` is that of a code object which Nguka loads for the context first, if there is one. -/
def execNgukaLaunchCheck (launch : Nat) (base : Option Nat) (s : State) : Out :=
  match tabFind s.launches launch with
  | some l =>
    if l.state ≠ .checking then .next s
    else
      match l.load with
      | none => .next (firstCheck (loadObject s l.ctx base) launch l)
      | some ld =>
        match loadTurn s (.loader launch) l.ctx ld with
        | .goesOn s1 ld1 => .next (modLaunch s1 launch (fun y => { y with load := some ld1 }))
        | .refused code s1 => .next (refuseLaunch s1 launch l code)
        | .done s1 => .next (if lapRoom s1 launch l l.entries then acceptLaunch s1 launch l else s1)
  | none => .next s

/-! ### Core programs (R24, R363) -/

/-- The start values of a core program. -/
def boxStrand (entry : Nat) (args : List Word) (waitdef : BitVec 10) : Strand :=
  { firstStrand entry args waitdef with mode := .supervisor }

/-- Nguka reports a code to the driver of a stack group's core programs. -/
def reportBox (s : State) (g code : Nat) : State := { s with reports := s.reports ++ [(g, code)] }

/-- The core runs its program. -/
def startBox (s : State) (g : Nat) (b : BoxLoad) : State :=
  { s with boxes := tabPut s.boxes g (boxStrand b.entry b.prog.args b.waitdef),
           nextTask := s.nextTask + 1,
           boxProgs := tabPut s.boxProgs g { ctx := b.prog.ctx, tile := b.prog.tile, serial := s.nextTask },
           boxLoads := tabDel s.boxLoads g, boxIdle := tabDel s.boxIdle g }

/-- The checks of a core program that the driver requests. Its code object's base need be no multiple of 64 (log entry 74). -/
def boxCheck (s0 : State) (g : Nat) (prog : CoreStart) : State :=
  let s := loadObject s0 prog.ctx (some prog.base)
  if prog.tile / 32 ≠ g ∨ !partHasTile s (ctxPart s prog.ctx) prog.tile then reportBox s g 5
  else
    match readProg s prog.ctx prog.base with
    | none => reportBox s g 2
    | some (entry, _) =>
      match ngukaCheck s prog.ctx (some prog.base) [prog.tile] prog.tile with
      | .ok p s1 =>
        { s1 with boxLoads := tabPut s1.boxLoads g { prog := prog, waitdef := p.waitdef, entry := entry, load := p.loading prog.tile } }
      | .refused code s1 => reportBox s1 g code

/-- Nguka's next step with the loading of a core program; the program starts with the last (R363). -/
def loadBox (s : State) (group : Nat) (b : BoxLoad) : State :=
  match loadTurn s (.boxLoader group) b.prog.ctx b.load with
  | .goesOn s1 ld => { s1 with boxLoads := tabPut s1.boxLoads group { b with load := ld } }
  | .refused code s1 => reportBox { s1 with boxLoads := tabDel s1.boxLoads group } group code
  | .done s1 => startBox s1 group b

/-- CORE_PROGRAM_START (R363): Nguka checks a program, allocates its segments, in later events, and starts it, or refuses it
and reports the code to the driver. A core runs one program at a time. -/
def execCoreProgramStart (group : Nat) (prog : CoreStart) (s : State) : Out :=
  if s.boot ≠ .up ∨ (tabFind s.boxProgs group).isSome ∨ 8 ≤ group then .next s
  else
    match tabFind s.boxLoads group with
    | some b => .next (loadBox s group b)
    | none => if (tabFind s.ctxs prog.ctx).isNone then .next s else .next (boxCheck s group prog)

/-! ### Arrivals over the fabric (R268, R333) -/

/-- The launch of a queue that gathers arrivals of a generation and an instance. -/
def gathering (s : State) (queue gen inst : Nat) : Option (Nat × Launch) :=
  s.launches.find? (fun e => e.2.queue == queue && e.2.members != [] && e.2.gen == gen && e.2.fabInst == inst &&
    e.2.state != .ended)

/-- Every local participant of a FABRIC barrier waits at it. -/
def fabricWaiting (s : State) (id : Nat) (l : Launch) : Bool :=
  l.entries != [] && (barTasks l 5 0).all (fun e => atBarrier s id l 5 e.1 e.2)

/-- What an arrival completes: the start barrier of a running launch, or the barrier at which every local participant
waits. -/
def gathered (s : State) (id : Nat) (l : Launch) : State :=
  if !fabricIn s l ∨ l.state ≠ .running then s
  else if l.fabInst = 0 then fabricNext s id l
  else if fabricWaiting s id l then fabricNext (releaseBarrier s id l 5 0) id l
  else s

/-- FABRIC_ARRIVAL (R268): an arrival of the instance being gathered is counted; one of a later generation, for a start
barrier whose packet is still to be taken, is kept; any other is discarded and counted as stale. -/
def execFabricArrival (queue device gen inst : Nat) (s : State) : Out :=
  let add := fun (s : State) => modHwq s queue (fun q =>
    { q with arrivals := if q.arrivals.contains (device, gen, inst) then q.arrivals else q.arrivals ++ [(device, gen, inst)] })
  match gathering s queue gen inst with
  | some (id, l) => .next (gathered (add s) id l)
  | none =>
    if inst = 0 ∧ (getHwq s queue).lastGen < gen ∧ !s.launches.any (fun e => e.2.queue == queue && e.2.gen == gen) then
      .next (add s)
    else .next { s with stale := s.stale + 1 }

end Sys2Proof.Machine
end

