-- ==== Sys2Proof/Machine/Traps.lean ====
section
/-! DEFINITION. TRAP, ERET, WFE, TLBINV and DBGSCAN (R316 to R319, R322). -/

namespace Sys2Proof.Machine

/-- TRAP takes SWTRAP at the word after it (R317). -/
def bodyTrap (f : FS) : Body := fun _ s => .after { cond := 0, d0 := f.imm.zeroExtend 64 } s

/-- ERET: the target of TPC is checked, ADDRRANGE and then ALIGNBR on bits 2:0; the strand goes on from its frame
(R43, R317). -/
def bodyEret (_f : FS) : Body := fun c s =>
  let t := (getStrand s c).tpc
  if t.extractLsb' 52 12 ≠ 0 then .trap { cond := 19 } s
  else if t.extractLsb' 0 3 ≠ 0 then .trap { cond := 6 } s
  else .done (resumeFrame s c)

/-- WFE completes: the reason bits go to Gd and the latch is cleared (R318). -/
def wfeFinish (s : State) (c : CoreId) (rd : BitVec 6) (bits : BitVec 6) : State :=
  modStrand s c (fun st => { (st.setG rd (bits.zeroExtend 64)) with wake := 0, pause := none })

/-- WFE (R318). -/
def bodyWfe (f : FS) : Body := fun c s =>
  let st := getStrand s c
  if st.wake ≠ 0 then .retire (wfeFinish s c f.rb st.wake)
  else
    let n := ((st.getG f.ra).extractLsb' 0 32).toNat
    .pause (.wfe (if n = 0 then none else some (s.cycle + n)) f) s

/-- Drops translations and fetch blocks from every tile and cluster, and walks under way begin again (R319). -/
def invalidate (s : State) (tl : Xlat → Bool) (bl : FetchBlock → Bool) : State :=
  { s with
    boxes := s.boxes.map (fun e => (e.1, { e.2 with walk := none }))
    cmds := s.cmds.map (fun e => (e.1, { e.2 with walk := none }))
    tiles := s.tiles.map (fun e =>
      (e.1, { e.2 with strands := e.2.strands.map (fun st => { st with walk := none }),
                       tlb := e.2.tlb.filter (fun x => !tl x), icache := e.2.icache.filter (fun b => !bl b),
                       fetching := e.2.fetching.filter (fun b => !bl ⟨b.ctx, b.va, b.leaf, []⟩) }))
    clusterTlb := s.clusterTlb.map (fun e => (e.1, e.2.filter (fun x => !tl x))) }

/-- Partition of a core's context. -/
def corePart (s : State) (c : CoreId) : Option (BitVec 6) := (tabFind s.ctxs (ctxNo s c)).map (·.block.part)

/-- A context belongs to the issuer's partition (R288, R319). -/
def inPartition (s : State) (c : CoreId) (ctx : Nat) : Bool :=
  (tabFind s.ctxs ctx).any (fun x => some x.block.part == corePart s c)

/-- TLBINV.VA: the pages of a context that cover an address (R319). -/
def bodyTlbinvVa (f : FS) : Body := fun c s =>
  let st := getStrand s c
  let a := (st.getG f.ra).toNat
  let g := st.getG f.rb
  let cx := (g.extractLsb' 0 9).toNat
  if Config.vaEnd ≤ a then .trap { cond := 19 } s
  else if g.extractLsb' 9 55 ≠ 0 then .trap { cond := 4 } s
  else if !inPartition s c cx then .trap { cond := 5 } s
  else
    .retire (invalidate s
      (fun x => x.ctx == cx && x.base == (if x.mega then a / 2 ^ 21 else a / 2 ^ 16))
      (fun b => b.ctx == cx && b.va / 2 ^ 21 == a / 2 ^ 21))

/-- TLBINV.CTX (R319). -/
def bodyTlbinvCtx (f : FS) : Body := fun c s =>
  let g := (getStrand s c).getG f.rb
  let cx := (g.extractLsb' 0 9).toNat
  if g.extractLsb' 9 55 ≠ 0 then .trap { cond := 4 } s
  else if !inPartition s c cx then .trap { cond := 5 } s
  else .retire (invalidate s (fun x => x.ctx == cx) (fun b => b.ctx == cx))

/-- TLBINV.ALL (R319). -/
def bodyTlbinvAll (_f : FS) : Body := fun _ s => .retire (invalidate s (fun _ => true) (fun _ => true))

/-! ### Scan capture (R322) -/

/-- Bytes of a scan image. -/
abbrev scanBytes : Nat := 524352

/-- A weight as a cell record has it. A NaN or an infinite weight sets NAN; its sign, its fraction and its signalling
mark fill the other fields (log entry 14). -/
def weightCell (x : Num) : Nat :=
  match x.val with
  | .fin n m e => (if n then 2 ^ 32 else 0) + (BitVec.ofInt 16 e).toNat * 2 ^ 16 + m % 2 ^ 16
  | .inf n => 2 ^ 33 + (if n then 2 ^ 32 else 0)
  | .nan c => 2 ^ 33 + (if c.getLsbD 31 then 2 ^ 32 else 0) + (if x.sig then 2 ^ 16 else 0) + (c.extractLsb' 7 16).toNat

/-- The weight of a cell record's word. -/
def cellWeight (v : Nat) : Num :=
  let neg := v / 2 ^ 32 % 2 == 1
  let m := v % 2 ^ 16
  if v / 2 ^ 33 % 2 = 0 then normZero ⟨.fin neg m (BitVec.ofNat 16 (v / 2 ^ 16)).toInt, false⟩
  else if m = 0 then ⟨.inf neg, false⟩
  else ⟨.nan (BitVec.ofNat 32 ((if neg then 2 ^ 31 else 0) + 0x7F800000 + m * 2 ^ 7)), v / 2 ^ 16 % 2 == 1⟩

/-- Weight of row j, column n of a plane. -/
def planeWeight (p : Plane) (j n : Nat) : Num := (tabGet (List.replicate 128 Num.zero) p.cols n).getD j Num.zero

/-- The 32-byte record of a cell. -/
def cellBytes (e : Engine) (k : Nat) : List Byte :=
  let fl := tabGet { psum := 0, act := 0, valid := 0 } e.flight k
  leBytes 8 (weightCell (planeWeight e.active (k / 128) (k % 128)))
    ++ leBytes 8 (weightCell (planeWeight e.shadow (k / 128) (k % 128)))
    ++ leBytes 4 fl.psum.toNat ++ leBytes 4 fl.act.toNat ++ leBytes 1 fl.valid.toNat ++ List.replicate 7 0

/-- The scan image of a frozen engine. -/
def scanImage (e : Engine) (cycle : Nat) : List Byte :=
  leBytes 8 (progressWord e.prog).toNat ++ leBytes 8 cycle ++ List.replicate 48 0
    ++ (List.range 16384).flatMap (cellBytes e)

/-- The tile Ga names: it must lie in the issuer's stack group (R322). -/
def scanTile (s : State) (c : CoreId) (f : FS) : Ex Nat :=
  let g := (getStrand s c).getG f.ra
  let t := (g.extractLsb' 0 8).toNat
  if g.extractLsb' 8 56 ≠ 0 then trapEx s 4
  else if t / 32 ≠ coreTile s c / 32 ∨ !tilePresent s t then trapEx s 5
  else .ok t

/-- The image address Gb: a multiple of 64, with storage under the whole image. -/
def scanAddr (s : State) (c : CoreId) (f : FS) : Ex Nat :=
  let a := ((getStrand s c).getG f.rb).toNat
  if !laidOut s a || !laidOut s (a + scanBytes - 1) then trapEx s 19
  else if a % 64 ≠ 0 then trapEx s 7
  else .ok a

/-- Changes the engine of a tile. -/
def modEngine (s : State) (t : Nat) (f : Engine → Engine) : State := modTile s t (fun x => { x with mx := f x.mx })

/-- Code of an activation in FP32, exact: a signalling NaN keeps its mark. -/
def actCode (x : Num) : BitVec 32 :=
  match x.val with
  | .nan c => if x.sig then c &&& 0xFFBFFFFF#32 else c
  | _ => BitVec.ofNat 32 (convTo 0 0 0 false (numRes x)).1

/-- The row of the plane at which the wavefront of depth d stands in column n: cells (j, n) with j + n = d. -/
def frontRow (d n : Nat) : Option Nat := if n ≤ d ∧ d - n < 128 then some (d - n) else none

/-- The data in flight of a row whose wavefront stands in the array (R179, R322). -/
def waveFlight (p : Plane) (w : Wave) : Tab Flight :=
  ((List.range 128).filterMap (fun j =>
    (frontRow w.front j).map (fun n => (128 * j + n,
      ({ psum := BitVec.ofNat 32 (w.sums.getD n (0, negZero, 0)).2.1,
         act := actCode (w.acts.getD (rowActs p * j) Num.zero), valid := 3 } : Flight)))))

/-- The array is frozen, with CYCLE at the freeze and the wavefront of the row in it at a depth; one that is frozen stays as
it was. -/
def Engine.freeze (e : Engine) (cycle depth : Nat) : Engine :=
  if e.frozen then e
  else
    let w := e.wave.map (fun w => w.advance e.active (max w.front depth))
    { e with frozen := true, frozenAt := cycle, wave := w, flight := (w.map (waveFlight e.active)).getD [] }

/-- What the cells of a loaded array hold goes on in place of what the row in it had there: a partial sum for the rest of its
column, an activation for the columns to come. -/
def Wave.load (p : Plane) (fl : Tab Flight) (w : Wave) : Wave :=
  let at_ := fun (j n : Nat) => tabGet { psum := 0, act := 0, valid := 0 } fl (128 * j + n)
  { w with
    sums := w.sums.zipIdx.map (fun y =>
      match frontRow w.front y.2 with
      | some j => let x := at_ j y.2; if x.valid.getLsbD 0 then (j + 1, x.psum.toNat, y.1.2.2) else y.1
      | none => y.1)
    acts := w.acts.zipIdx.map (fun y =>
      let j := y.2 / rowActs p
      match frontRow w.front j with
      | some n =>
        let x := at_ j n
        if y.2 % rowActs p = 0 ∧ x.valid.getLsbD 1 ∧ x.act ≠ actCode y.1 then readFloat 0 x.act.toNat else y.1
      | none => y.1) }

/-- The array runs again: the row that was in it goes on from what its cells hold; data in flight of no row is lost (log
entry 39). -/
def Engine.thaw (e : Engine) : Engine :=
  { e with frozen := false, flight := [], wave := if e.frozen then e.wave.map (·.load e.active e.flight) else e.wave }

/-- Depth at which a freeze finds the wavefront of a row: a free value below 255 (log entry 14). -/
def freezeDepth (s : State) : Nat := (Config.freeWord s.fresh).toNat % 255

/-- DBGSCAN.OUT freezes the array and writes its image (R322). -/
def bodyDbgscanOut (f : FS) : Body := fun c s => Ex.run do
  let t ← scanTile s c f
  let a ← scanAddr s c f
  let s1 := modEngine { s with fresh := s.fresh + 1 } t (fun e => e.freeze s.cycle (freezeDepth s))
  let s2 := paWrite s1 a (scanImage (getTile s1 t).mx (getTile s1 t).mx.frozenAt)
  match (getTile s2 t).task with
  | some k => return .retire (fqNotice s2 k.ctx (44 * 8 + 4) t 0 0 0 0)
  | none => return .retire s2

/-- Plane weights from an image's words. -/
def scanCols (w : Nat → Nat) : Tab (List Num) :=
  (List.range 128).filterMap (fun n =>
    let col := (List.range 128).map (fun j => cellWeight (w (128 * j + n)))
    if col = List.replicate 128 Num.zero then none else some (n, col))

/-- Cells with data in flight in an image. -/
def scanFlight (b : Array Byte) : Tab Flight :=
  let word := fun (k o n : Nat) => (List.range n).foldl (fun acc i => acc + byteAt b (64 + 32 * k + o + i) * 2 ^ (8 * i)) 0
  (List.range 16384).filterMap (fun k =>
    let x : Flight := { psum := BitVec.ofNat 32 (word k 16 4), act := BitVec.ofNat 32 (word k 20 4),
                        valid := BitVec.ofNat 2 (word k 24 1) }
    if x = { psum := 0, act := 0, valid := 0 } then none else some (k, x))

/-- The must-be-0 fields of an image's cell records are 0. -/
def scanOk (b : Array Byte) : Bool :=
  (List.range 16384).all (fun k =>
    let at_ := fun o => byteAt b (64 + 32 * k + o)
    at_ 4 < 4 && at_ 5 == 0 && at_ 6 == 0 && at_ 7 == 0 && at_ 12 < 4 && at_ 13 == 0 && at_ 14 == 0 && at_ 15 == 0 &&
      at_ 24 < 4 && (List.range 7).all (fun i => at_ (25 + i) == 0))

/-- DBGSCAN.IN loads a frozen array from an image (R322). -/
def bodyDbgscanIn (f : FS) : Body := fun c s => Ex.run do
  let t ← scanTile s c f
  let a ← scanAddr s c f
  if !(getTile s t).mx.frozen then trapEx s 26
  else if paPoisoned s a scanBytes then trapEx s 40
  else
    let b := (paBytes s a scanBytes).toArray
    if !scanOk b then trapEx s 26
    else
      let word := fun (k o : Nat) => (List.range 8).foldl (fun acc i => acc + byteAt b (64 + 32 * k + o + i) * 2 ^ (8 * i)) 0
      return .retire (modEngine s t (fun e =>
        { e with active := { e.active with cols := scanCols (fun k => word k 0) },
                 shadow := { e.shadow with cols := scanCols (fun k => word k 8) },
                 flight := scanFlight b }))

/-- DBGSCAN.RUN unfreezes the array (R322). -/
def bodyDbgscanRun (f : FS) : Body := fun c s => Ex.run do
  let t ← scanTile s c f
  return .retire (modEngine s t Engine.thaw)

/-! ### The meanings -/

/-- TRAP (OP 0xF0, R317). -/
def execTrap (f : FS) (s : State) : Out := issueWord (.trap f) (bodyTrap f) s

/-- ERET (OP 0xF1, R317). -/
def execEret (f : FS) (s : State) : Out := issueWord (.eret f) (bodyEret f) s

/-- WFE (OP 0xF2, R318). -/
def execWfe (f : FS) (s : State) : Out := issueWord (.wfe f) (bodyWfe f) s

/-- TLBINV_VA (OP 0xF3, R319). -/
def execTlbinvVa (f : FS) (s : State) : Out := issueWord (.tlbinvVa f) (bodyTlbinvVa f) s

/-- TLBINV_CTX (OP 0xF3, R319). -/
def execTlbinvCtx (f : FS) (s : State) : Out := issueWord (.tlbinvCtx f) (bodyTlbinvCtx f) s

/-- TLBINV_ALL (OP 0xF3, R319). -/
def execTlbinvAll (f : FS) (s : State) : Out := issueWord (.tlbinvAll f) (bodyTlbinvAll f) s

/-- DBGSCAN_OUT (OP 0xFA, R322). -/
def execDbgscanOut (f : FS) (s : State) : Out := issueWord (.dbgscanOut f) (bodyDbgscanOut f) s

/-- DBGSCAN_IN (OP 0xFA, R322). -/
def execDbgscanIn (f : FS) (s : State) : Out := issueWord (.dbgscanIn f) (bodyDbgscanIn f) s

/-- DBGSCAN_RUN (OP 0xFA, R322). -/
def execDbgscanRun (f : FS) (s : State) : Out := issueWord (.dbgscanRun f) (bodyDbgscanRun f) s

end Sys2Proof.Machine
end

