-- ==== Sys2Proof/Machine/Preempt.lean ====
section
/-! DEFINITION. Pre-emption: its request, the save area, resumption, promotion of tier-3 work, disabled virtual functions,
and the accounting periods (R149, R150, R176 to R178, R202, R291, R293, R294, R298, R299, R303, R306, R310, R364). -/

namespace Sys2Proof.Machine

/-! ### The request (R177, R178, R306) -/

/-- Code of a strand's state of R69 in a save area (R298). A wait that is no blocking wait, as for a grant, leaves the strand
RUNNING (R69, R126). -/
def runCode (st : Strand) : Nat :=
  match st.run with
  | .idle => 0
  | .running => 1
  | .waiting => if st.wait.any (·.bounded) then 2 else 1
  | .arrived => 3
  | .parked => 4

/-- Adds the cores that ask to those that wait for a pre-emption. -/
def joinAskers (old new : List (Nat × CoreId)) : List (Nat × CoreId) := old ++ new.filter (fun a => !old.contains a)

/-- A pre-emption reaches a tile: its strands see it in their wake latches (R318). A later request for the tile joins the
one under way; PREEMPT.K makes it take effect. `askers` are the cores whose words wait for it, with their contexts. -/
def requestPreempt (s : State) (tile kind : Nat) (askers : List (Nat × CoreId)) : State :=
  match (getTile s tile).preempt with
  | some p =>
    let p1 := if kind ≠ 2 ∧ !p.effect then { p with kind := kind, effect := true } else p
    modTile s tile (fun x => { x with preempt := some { p1 with by_ := joinAskers p1.by_ askers } })
  | none =>
    wakeTile (modTile s tile (fun x => { x with
      preempt := some { kind := kind, effect := kind != 2, since := s.cycle, by_ := askers,
                        states := x.strands.toList.map runCode, operands := 0 } })) tile 16

/-- BADFIELD of a supervisor word with its reason and Ga (R307). -/
def supTrap {α : Type} (s : State) (reason : Nat) (ga : Word) : Ex α := trapEx s 4 (BitVec.ofNat 64 reason) ga

/-- PREEMPT.K and PREEMPT.R (R306): on an idle tile the result is 0; else the word waits until the task is saved, and the
save completes it. -/
def preemptBody (kind : Nat) (f : FS) : Body := fun c s => Ex.run do
  let st := getStrand s c
  let ga := st.getG f.ra
  let t := (ga.extractLsb' 0 8).toNat
  if ga.extractLsb' 8 56 ≠ 0 then supTrap s 0x0F ga
  else if t / 32 ≠ coreTile s c / 32 then trapEx s 5 0 ga
  else if !tilePresent s t then supTrap s 0x0E ga
  else if (getTile s t).task.isNone then return .retire (setGOf s c f.rb 0)
  else .error (.wait { what := .preempt, kind := 11, name := 0x0F4 } (requestPreempt s t kind [(ctxNo s c, c)]))

/-- PREEMPT.K. -/
def bodyPreemptK (f : FS) : Body := preemptBody 1 f
/-- PREEMPT.R. -/
def bodyPreemptR (f : FS) : Body := preemptBody 2 f

/-- A matrix word of the tile is in progress, or an unpinned binding of its context is OPEN there (R178). -/
def mxOpen (s : State) (tile ctx : Nat) : Bool :=
  mxInProgress s tile || (accsOn s tile).any (fun e => e.1 == ctx && e.2.2.opened && !e.2.2.pin)

/-- A pre-emption holds a tile: it has taken effect, or it is a PREEMPT.R at the moment at which that does (R177, R178). -/
def preempted (s : State) (tile : Nat) : Bool :=
  let x := getTile s tile
  x.preempt.any (fun p => p.effect || (p.kind == 2 && x.task.any (fun k => !mxOpen s tile k.ctx)))

/-- Changes the pre-emption of a tile whose PREEMPT.R has not taken effect. -/
def modPreemptR (s : State) (tile : Nat) (ready : Preempt → Task → Bool) (f : Preempt → Preempt) : State :=
  let x := getTile s tile
  match x.preempt, x.task with
  | some p, some k =>
    if p.kind = 2 ∧ !p.effect ∧ ready p k then setTile s tile { x with preempt := some (f p) } else s
  | _, _ => s

/-- PREEMPT_R_EFFECT (R178). -/
def execPreemptREffect (tile : Nat) (s : State) : Out :=
  .next (modPreemptR s tile (fun _ k => !mxOpen s tile k.ctx) (fun p => { p with effect := true }))

/-- The bound of PREEMPT.R: the declared depth of the launch's program, plus the waits for operands (R178). -/
def preemptBound (s : State) (p : Preempt) (k : Task) : Nat :=
  (((tabFind s.launches k.launch).map (·.kdepth)).getD 1) * 388 + 1300 + p.operands

/-- PREEMPT_R_FALLBACK (R178): a PREEMPT.R that finds the tile ready takes effect; one past twice its bound gives way to
PREEMPT.K. -/
def execPreemptRFallback (tile : Nat) (s : State) : Out :=
  if preempted s tile then execPreemptREffect tile s
  else
    .next (modPreemptR s tile (fun p k => decide (p.since + 2 * preemptBound s p k < s.cycle))
      (fun p => { p with kind := 3, effect := true }))

/-! ### The save (R150, R202, R298) -/

/-- A MATTASK that has begun leaves its engine and its slot, and stands in its queue again (R226). -/
def Cmd.leaveEngine (c : Cmd) : Cmd :=
  if cmdKind c.raw = 0x10 ∧ hasEntry c ∧ c.begun then { c with state := .queued, under := .queued, anon := none } else c

/-- A command stops at its boundary: it holds no pins (R125), a near-slice unit in its reading phase starts again from element 0
(R280), and a MATTASK leaves its engine. -/
def Cmd.halt (c : Cmd) : Cmd :=
  let d := c.stop.leaveEngine
  match d.work with
  | some w => if w.record.isNone then { d with work := none, progress := 0, flags := 0, sticky := 0 } else d
  | none => d

/-- It stops until its context goes on. -/
def Cmd.hold (c : Cmd) : Cmd := { c.halt with held := true }

/-- Stops the commands that a test picks; the planes under a MATTASK are as before it (R226). -/
def stopCmds (s : State) (p : Cmd → Bool) (f : Cmd → Cmd) : State :=
  (s.cmds.filter (fun e => p e.2)).foldl (fun s e => modCmd (matrixFree s e.2) e.1 f) s

/-- Commands of a task. -/
def ofTask (tile : Nat) (k : Task) (c : Cmd) : Bool := !c.box && c.tile == tile && c.task == k.serial

/-- Holds the commands of a task; another's MATTASK on its tile's engine goes back to its queue. -/
def holdCmds (s : State) (tile : Nat) (k : Task) : State :=
  stopCmds (stopCmds s (ofTask tile k) Cmd.hold)
    (fun c => c.state != .queued && c.engine == 0x800 + tile && !ofTask tile k c) Cmd.halt

/-- Lets the commands of a task go on. -/
def freeCmds (s : State) (tile : Nat) (k : Task) : State :=
  { s with cmds := s.cmds.map (fun e => if ofTask tile k e.2 then (e.1, { e.2 with held := false }) else e) }

/-- A YIELD's pause ends, with the DEBUG that is due after the word (R83, R311). -/
def endYield (s : State) (c : CoreId) (step : Option Word) : State :=
  let s1 := modStrand s c (fun st => { st with pause := none })
  match step with
  | some fpc => trapAfter s1 c { cond := 43 } fpc (getStrand s c).pc
  | none => s1

/-- A pause that a pre-emption ends (R83, R318). -/
def endPause (s : State) (c : CoreId) : State :=
  match (getStrand s c).pause with
  | some (.wfe _ f) =>
    let st := getStrand s c
    retireWord (wfeFinish s c f.rb (st.wake ||| 16)) c (.wfe f) (st.pc + 8)
  | some (.yield _ step) => endYield s c step
  | none => s

/-- Unpopped lines are discarded, to be read again from where they came (R150). -/
def Queue.drop (q : Queue) : Queue := { q with lines := q.lines.map (fun l => { l with filled := false, again := true }) }

/-- What a tile keeps of its task for the save. -/
def Tile.saved (x : Tile) (ctx : Nat) : Tile :=
  { x with strands := x.strands.map Strand.preempt, qs := x.qs.map Queue.drop,
           mx := x.mx.park ((x.strand 2).mode == .supervisor),
           rings := x.rings.filter (fun e => e.2.ctx == ctx), tlb := [], icache := [], fetching := [], grants := [], preempt := none,
           given := [], setNow := 0, wasSet := 0, wasSettle := [] }

/-- The header of a save area (R298). -/
def saveHeader (s : State) (tile : Nat) (k : Task) (p : Preempt) : List Byte :=
  let st := fun n => p.states.getD n 0
  leBytes 8 (2 ^ 48 + p.kind * 2 ^ 45 + tile * 2 ^ 24 + st 0 * 2 ^ 21 + st 1 * 2 ^ 18 + st 2 * 2 ^ 15 + st 3 * 2 ^ 12 + k.ctx)
    ++ leBytes 8 (devTime s) ++ leBytes 8 k.pos ++ leBytes 8 (k.lap * 2 ^ 32 + k.index.getD (2 ^ 32 - 1)) ++ List.replicate 32 0

/-- Bytes that the layout of R298 leaves open. -/
def freeBytes (from_ n : Nat) : List Byte := (List.range n).map (fun i => Config.freeByte (from_ + i))

/-- The body of a save area: the strand, count and refetch blocks have no stated layout; drain queues and the M file have. -/
def saveBody (s : State) (x : Tile) : List Byte :=
  freeBytes s.fresh 0x1200
    ++ (List.range 4).flatMap (fun d => (List.range 16).flatMap (fun i =>
        match (drQueue x d).lines[i]? with
        | some l => bytesOfLine 4 l.data
        | none => freeBytes (s.fresh + 0x1200 + 4096 * d + 256 * i) 256))
    ++ (List.range 1024).flatMap (fun k => bytesOfLine 4 (tabGet Line.zero x.m k))

/-- The heap entry of a saved task: it keeps the tier, deadline and age of its packet (R294). -/
def savedEntry (s : State) (tile : Nat) (k : Task) : HeapEntry :=
  { group := tile / 32, tier := k.tier, deadline := k.deadline.toNat, age := k.age, queue := k.queue, pos := k.pos,
    ctx := k.ctx, launch := k.launch, since := s.cycle, promoted := false, work := .saved tile }

/-- The four strands of a tile. -/
def tileCores (t : Nat) : List CoreId := (List.range 4).map (fun q => CoreId.tile t q)

/-- The save of a tile's task. -/
def saveTask (s0 : State) (tile : Nat) (k : Task) (p : Preempt) : State :=
  let s := (tileCores tile).foldl (fun s c => leaveQueues (endPause s c) c) (holdCmds s0 tile k)
  let x := getTile s tile
  let kept := x.saved k.ctx
  let s1 := paWrite s (saveArea s k.ctx tile) (saveHeader s tile k p ++ saveBody s x)
  let s2 := { s1 with fresh := s1.fresh + saveBytes,
                      saves := tabPut s1.saves (256 * k.ctx + tile) { task := k, tile := kept, kind := p.kind, tainted := false } }
  let s3 := modTile s2 tile (fun y => { y.clear with rings := y.rings.filter (fun e => e.2.ctx != k.ctx) })
  answerPreempt (heapAdd s3 (savedEntry s3 tile k)) tile (some p) (if p.kind = 3 then 3 else 1)

/-- X is in an MSTREAM whose operands flow, which runs to its end (R177); a row that has entered a frozen array completes once
the array runs again (R175, R179). -/
def streamFlows (x : Tile) : Bool :=
  x.mx.wave.isSome ||
    ((x.strand 2).run == .running && (match (x.strand 2).midWord with | some (.mstream _) => true | _ => false))

/-- A pre-emption holds the strands of a tile until the save, but for X in an MSTREAM whose operands flow (R177). -/
def preemptHolds (s : State) : CoreId → Bool
  | .tile t q => preempted s t && !(q % 4 == 2 && streamFlows (getTile s t))
  | .sbox _ => false

/-- TASK_SAVE (R298): a pre-emption that has taken effect parks the strands, writes the save area and frees the tile. -/
def execTaskSave (tile : Nat) (s : State) : Out :=
  let x := getTile s tile
  match x.preempt, x.task with
  | some p, some k => if p.effect && !streamFlows x then .next (saveTask s tile k p) else .next s
  | _, _ => .next s

/-! ### Resumption (R150, R176, R294, R298, R299, R310) -/

/-- Words that a save area written by another agent gives its registers (R298). -/
def freeStrand (n : Nat) (st : Strand) : Strand :=
  { st with g := Vector.ofFn (fun i => Config.freeWord (n + i.val)),
            a := Vector.ofFn (fun i => Config.freeWord (n + 32 + i.val) &&& 0x0000FFFFFFFFFFFF#64),
            waitdef := (Config.freeWord (n + 48)).setWidth 10, rmdyn := (Config.freeWord (n + 49)).setWidth 3,
            fpFlags := (Config.freeWord (n + 50)).setWidth 6, fpEn := (Config.freeWord (n + 51)).setWidth 6 }

/-- A saved tile whose save area another agent has written: its register contents are free. -/
def freeTile (n : Nat) (x : Tile) : Tile :=
  { x with strands := Vector.ofFn (fun q => freeStrand (n + 64 * q.val) x.strands[q]),
           p := Vector.ofFn (fun i => Config.freeWord (n + 256 + i.val)),
           m := (List.range 1024).foldl (fun t k => tabSet Line.zero t k
             (Vector.ofFn (fun i => (Config.freeWord (n + 320 + 64 * k + i.val)).setWidth 32))) [] }

/-- Free words that `freeTile` uses. -/
abbrev freeTileWords : Nat := 320 + 65536

/-- The saved parts of a task go back onto its tile; an array that a scan has frozen stays frozen. -/
def Tile.restore (x y : Tile) (k : Task) : Tile :=
  { x with strands := y.strands.map Strand.unpreempt, couplings := y.couplings, task := some k, flags := y.flags,
           settle := y.settle, m := y.m, mBad := y.mBad, p := y.p, qs := y.qs, ds := y.ds,
           mx := { y.mx with frozen := x.mx.frozen, frozenAt := x.mx.frozenAt, flight := x.mx.flight },
           rings := y.rings.foldl (fun t e => tabPut t e.1 e.2) x.rings, preempt := none }

/-- PREEMPTED is due before C's next word, or at once if C waits (R310). -/
def takePreempted (s : State) (tile : Nat) : State :=
  let c := CoreId.tile tile 0
  let st := getStrand s c
  if (getTile s tile).task.any (·.preempted) ∧ (st.run = .running ∨ st.run = .waiting) then
    let s1 := modTile s tile (fun x => { x with task := x.task.map (fun k => { k with preempted := false }) })
    trapBefore s1 c (causeOf 38 7) 0 0 st.wordPc
  else s

/-- PREEMPTED is due on C of a resumed task (R310). -/
def preemptedDue (s : State) : CoreId → Bool
  | .tile t q => q % 4 == 0 && (getTile s t).task.any (·.preempted)
  | .sbox _ => false

/-- The planes of a resumed task: those that a save of KIND 2 kept are not reloaded, but for one whose reload was under way
(R176, R178). -/
def reloadAfter (s : State) (kind ctx tile : Nat) : State :=
  [false, true].foldl (fun s sh =>
    if kind = 2 ∧ !((getTile s tile).mx.plane sh).pending then s else reloadPlane false ctx tile sh s) s

/-- Resumes a saved task on its tile. Its queues read their lines again in their own time (R150). -/
def resumeTask (s : State) (id : Nat) (e : HeapEntry) (tile : Nat) (sv : Saved) : State :=
  let trace := ((tabFind s.ctxs e.ctx).map (·.trace)).getD 0
  let k := { sv.task with preempted := trace.getLsbD 1 }
  let y := if sv.tainted then freeTile s.fresh sv.tile else sv.tile
  let s1 := modHwq { s with heap := tabDel s.heap id, saves := tabDel s.saves (256 * e.ctx + tile),
                            fresh := if sv.tainted then s.fresh + freeTileWords else s.fresh } e.queue
    (fun q => { q with waited := 0 })
  let s2 := claimEntries (modTile s1 tile (fun x => x.restore y k)) tile
  takePreempted (freeCmds (reloadAfter s2 sv.kind e.ctx tile) tile k) tile

/-- TASK_RESUME (R294): the first task in dispatch order of a stack group is a saved one, and goes on. -/
def execTaskResume (group : Nat) (s : State) : Out :=
  match nextStart s group with
  | some (id, e, t) =>
    match e.work, tabFind s.saves (256 * e.ctx + t) with
    | .saved _, some sv => .next (resumeTask s id e t sv)
    | _, _ => .next s
  | none => .next s

/-! ### Tier 3 (R293) -/

/-- Ready tier-3 packets of a stack group: entries not promoted. -/
def tier3Ready (s : State) (g : Nat) : List (Nat × HeapEntry) :=
  s.heap.filter (fun e => e.2.group == g && e.2.tier == 3 && !e.2.promoted && mayStart s e.2)

/-- The oldest entry: the smaller age, then the earlier place. -/
def oldestEntry : List (Nat × HeapEntry) → Option (Nat × HeapEntry)
  | [] => none
  | e :: rest =>
    match oldestEntry rest with
    | none => some e
    | some y => if keyBefore [e.2.age, e.2.pos, e.1] [y.2.age, y.2.pos, y.1] then some e else some y

/-- The tile of an entry of a heap, or the tiles of its cluster. -/
def entryTiles (e : HeapEntry) : List Nat :=
  match e.work with
  | .task _ t _ | .spawn (some t) _ _ _ _ _ | .saved t => [t]
  | .spawn none cl _ _ _ _ => (List.range 4).map (4 * cl + ·)

/-- Clocks of 1,500,000 ns (R2). -/
abbrev promoteClocks : Nat := 1575000

/-- The queue has waited long enough with none of its tasks dispatched, and none of its packets is promoted yet. -/
def waitedOut (s : State) (e : HeapEntry) : Bool :=
  decide (promoteClocks ≤ (getHwq s e.queue).waited) && !s.heap.any (fun y => y.2.queue == e.queue && y.2.promoted)

/-- Ready tier-3 entries of a queue, in every stack group. -/
def tier3Of (s : State) (q : Nat) : List (Nat × HeapEntry) :=
  s.heap.filter (fun e => e.2.queue == q && e.2.tier == 3 && !e.2.promoted && mayStart s e.2)

/-- The oldest ready packet of a queue: its ready entries, on every stack group. -/
def oldestPacket (s : State) (q : Nat) : List (Nat × HeapEntry) :=
  match oldestEntry (tier3Of s q) with
  | none => []
  | some e => (tier3Of s q).filter (fun y => packetOf y == packetOf e)

/-- TIER3_PROMOTION (R293): of a queue that has waited long enough and holds a ready packet in a stack group, the oldest ready
packet goes ahead of every tier, and a task of tier 0 to 2 on one of its tiles is pre-empted as PREEMPT.K does. -/
def execTier3Promotion (group : Nat) (s : State) : Out :=
  match oldestEntry ((tier3Ready s group).filter (fun e => waitedOut s e.2)) with
  | none => .next s
  | some e =>
    let mine := oldestPacket s e.2.queue
    let s1 := { s with heap := s.heap.map (fun y => if mine.any (·.1 == y.1) then (y.1, { y.2 with promoted := true }) else y) }
    let tiles := (mine.flatMap (fun y => entryTiles y.2)).filter (fun t => (getTile s t).task.any (fun k => decide (k.tier < 3)))
    .next (tiles.foldl (fun s t => requestPreempt s t 1 []) s1)

/-! ### Virtual functions (R303) -/

/-- Contexts of virtual functions. -/
def vfCtxs (s : State) : List Nat := s.ctxs.filterMap (fun e => if e.2.block.vfv then some e.1 else none)

/-- Changes the commands of contexts. -/
def modCtxCmds (s : State) (p : Cmd → Bool) (f : Cmd → Cmd) : State :=
  { s with cmds := s.cmds.map (fun e => if p e.2 then (e.1, f e.2) else e) }

/-- VF_DISABLE (R303): the tasks of virtual functions are pre-empted with KIND 4, their commands stop, and VFDISABLED is
posted for each context. -/
def execVfDisable (s : State) : Out :=
  if !s.vfEnable then .next s
  else
    let cs := vfCtxs s
    let s1 := (cs.flatMap (tilesOfCtx s)).foldl (fun s t => requestPreempt s t 4 []) { s with vfEnable := false }
    let s2 := stopCmds s1 (fun c => cs.contains c.ctx) Cmd.hold
    .next (cs.foldl (fun s c => fqNotice s c 375 0 0 0 0 0) s2)

/-- VF_ENABLE (R303): the queues are released; commands of tasks that are not saved go on, the others with their task. -/
def execVfEnable (s : State) : Out :=
  if s.vfEnable then .next s
  else
    let cs := vfCtxs s
    .next (modCtxCmds { s with vfEnable := true }
      (fun c => cs.contains c.ctx && (c.box || cmdTaskRuns s c)) (fun c => { c with held := false }))

/-! ### Accounting (R291, R293) -/

/-- A new period begins when the running one is over: allowances are whole again. The clock itself sees to it, so that no
clock of the new period counts for the old one. -/
def newPeriod (s : State) : State :=
  if s.periodStart + 1048576 ≤ s.cycle then
    { s with periodStart := s.cycle / 1048576 * 1048576, parts := s.parts.map (fun e => (e.1, { e.2 with used := 0 })) }
  else s

/-- PERIOD_START (R291). -/
def execPeriodStart (s : State) : Out := .next (newPeriod s)

/-- A new share window begins when the running one is over. -/
def newWindow (s : State) : State :=
  if s.shareStart + 2100000 ≤ s.cycle then { s with shareStart := s.cycle / 2100000 * 2100000, shareUsed := [] } else s

/-- SHARE_WINDOW (R293). -/
def execShareWindow (s : State) : Out := .next (newWindow s)

/-! ### The meanings -/

/-- PREEMPT_K (OP 0xF4, R177). -/
def execPreemptK (f : FS) (s : State) : Out := issueWord (.preemptK f) (bodyPreemptK f) s

/-- PREEMPT_R (OP 0xF4, R178). -/
def execPreemptR (f : FS) (s : State) : Out := issueWord (.preemptR f) (bodyPreemptR f) s

end Sys2Proof.Machine
end

