-- ==== Sys2Proof/Machine/Part.lean ====
section
/-! DEFINITION. The supervisor words over partitions and contexts: QKILL, PRESET, SEMMAP, PARTSET and CTXLD (R255,
R288 to R290, R295 to R297, R300 to R307, R313, R364). -/

namespace Sys2Proof.Machine

/-! ### Arguments and results (R306, R307) -/

/-- Ga of a supervisor word. -/
def supArg (s : State) (c : CoreId) (f : FS) : Word := (getStrand s c).getG f.ra

/-- The number in the low `n` bits of Ga. Where R306 marks the bits above zero, they must be; else a larger number is out of
range (R307). -/
def supNum (s : State) (c : CoreId) (f : FS) (n : Nat) (marked : Bool) : Ex Nat :=
  let ga := supArg s c f
  if 2 ^ n ≤ ga.toNat then supTrap s (if marked then 0x0F else 0x0E) ga else .ok ga.toNat

/-- The word completes with its result in Gb. A core whose own task the word has ended issues nothing further. -/
def supDone (s0 s : State) (c : CoreId) (f : FS) (v : Nat) : Res :=
  match c with
  | .tile t _ =>
    if (getTile s0 t).task.map (·.serial) = (getTile s t).task.map (·.serial) then .retire (setGOf s c f.rb (BitVec.ofNat 64 v))
    else .gone s
  | .sbox _ => .retire (setGOf s c f.rb (BitVec.ofNat 64 v))

/-! ### Stages 2 to 6 of R300 -/

/-- Discards commands; what the range checker held behind them goes on as though they had retired. -/
def discardCmds (s : State) (p : Cmd → Bool) : State :=
  (s.cmds.filter (fun e => p e.2)).foldl (fun s e =>
    let s1 := matrixFree s e.2
    { s1 with cmds := unblock (tabDel s1.cmds e.1) e.1,
              tiles := s1.tiles.map (fun x => (x.1, { x.2 with grants := x.2.grants.filter (fun r => r.party != some (.command e.1)) })) }) s

/-- A task is ended without a save; its strands issue nothing further. -/
def killTask (s : State) (tile : Nat) : State :=
  let p := (getTile s tile).preempt
  let s1 := (tileCores tile).foldl leaveQueues s
  answerPreempt (modTile s1 tile Tile.killed) tile p 0

/-- Stages 2 to 4: tasks, commands, page requests and parked faults of contexts. -/
def endCtxWork (s : State) (cs : List Nat) : State :=
  let s1 := (cs.flatMap (tilesOfCtx s)).foldl killTask s
  let s2 := (cs.flatMap (boxesOfCtx s1)).foldl (fun s g => leaveSems s (.sbox g)) s1
  discardCmds
    { s2 with saves := s2.saves.filter (fun e => !cs.contains (e.1 / 256)),
              heap := s2.heap.filter (fun e => !cs.contains e.2.ctx),
              prq := s2.prq.filter (fun e => !cs.contains e.2.ctx),
              parkedFaults := s2.parkedFaults.filter (fun f => !cs.contains f.ctx),
              answering := s2.answering.filter (fun a => !cs.contains a.2.ctx),
              boxLoads := s2.boxLoads.filter (fun e => !cs.contains e.2.prog.ctx) }
    (fun c => cs.contains c.ctx)

/-- The buffer rings and background recalls of contexts leave every tile. -/
def dropRings (s : State) (cs : List Nat) : State :=
  { s with tiles := s.tiles.map (fun e =>
      (e.1, { e.2 with rings := e.2.rings.filter (fun r => !cs.contains r.2.ctx),
                       grants := e.2.grants.filter (fun r => !(r.party.isNone && cs.contains r.ctx)) })) }

/-- The completion record of a launch that QKILL removes: KILLED, condition 39 from source 7 (R300, R326). -/
def killLaunch (s : State) (e : Nat × Launch) : State := endLaunch s e.1 e.2 0 0x13F 3

/-- The launch of a packet that waits in its ring: its record is KILLED too (R300). -/
def killUnread (q : Nat) (s : State) (pos : Nat) : State :=
  if laidOut s (recordAt s q pos) then paWrite s (recordAt s q pos) (recordBytes 0 0x13F 3 0 pos (devTime s) 0) else s

/-- The records of the packets of a queue that have not been read. -/
def killWaiting (s : State) (q : Nat) : State :=
  let hq := getHwq s q
  ((List.range (hq.tail - hq.head)).map (hq.head + ·)).foldl (killUnread q) s

/-- A queue is left with nothing to read. -/
def emptyQueue (s : State) (q : Nat) : State :=
  let hq := getHwq s q
  let s1 := modHwq s q (fun x => { x with head := hq.tail, held := true })
  paStore s1 (queueDesc s1 q + 32) (leBytes 8 hq.tail)

/-- Contexts are removed, with their fault queues and the launches that a test picks. -/
def removeCtxs (s : State) (cs : List Nat) (ls : Launch → Bool) : State :=
  let s1 := dropRings (endCtxWork s cs) cs
  let s2 := (s1.launches.filter (fun e => ls e.2)).foldl killLaunch s1
  { s2 with ctxs := s2.ctxs.filter (fun e => !cs.contains e.1), responses := s2.responses.filter (fun r => !cs.contains r.1) }

/-- QKILL (R300). -/
def bodyQkill (f : FS) : Body := fun c s => Ex.run do
  let q ← supNum s c f 10 true
  let cs := boundCtxs s q
  if cs.any (vfStopped s) then trapEx s 46
  else return supDone s (emptyQueue (killWaiting (removeCtxs s cs (fun l => l.queue == q)) q) q) c f cs.length

/-! ### PRESET (R301) -/

/-- A context belongs to a partition or, where that is a top-level one, to a child of it (R288). -/
def inPart (p : Nat) (b : CtxBlock) : Bool := b.part.toNat == p || (p % 8 == 0 && b.part.toNat / 8 == p / 8)

/-- Contexts on which PRESET of a partition acts. -/
def partCtxs (s : State) (p : Nat) : List Nat := s.ctxs.filterMap (fun e => if inPart p e.2.block then some e.1 else none)

/-- Queues of a partition. -/
def partQueues (s : State) (p : Nat) : List Nat := ((partCtxs s p).map (ctxQueue s)).eraseDups

/-- The physical semaphores that a context maps. -/
def mappedSems (x : Context) : List Nat := x.semMap.map (fun e => semKey (e.1 / 1024) e.2)

/-- The physical semaphores that contexts map are set to 0. -/
def zeroSems (s : State) (cs : List Nat) : State :=
  (cs.flatMap (fun c => ((tabFind s.ctxs c).map mappedSems).getD [])).foldl
    (fun s k => setSem s k { getSem s k with count := 0 }) s

/-- An open fault-queue entry whose party is gone. -/
def orphan (e : Nat × FqOwner) : Nat × FqOwner := (e.1, .notice)

/-- What PRESET leaves of a context: its block, its fault queue and its CSRs. -/
def Context.preset (x : Context) : Context :=
  { x with segs := [], accs := [], sidings := 0, fqOpen := x.fqOpen.map orphan, fqDeferred := [], semMap := [],
           ringCtr := [], ags := [] }

/-- A fence record of a context: SEQ and POS (R201). -/
def fenceRead (s : State) (ctx : Nat) : Option (Nat × Nat) :=
  match tabFind s.ctxs ctx with
  | some x =>
    if x.block.replay = 0 then none
    else
      (ctxBytes s ctx x.block.replay 64).bind (fun b =>
        let q := leNat (b.take 8)
        if q = 0 then none else some (q, leNat ((b.drop 24).take 8)))
  | none => none

/-- The fence record of the largest SEQ. -/
def lastFence : List (Nat × Nat) → Option (Nat × Nat)
  | [] => none
  | r :: rest =>
    match lastFence rest with
    | some y => if r.1 < y.1 then some y else some r
    | none => some r

/-- Where a queue restarts. -/
def restartPos (s : State) (q : Nat) : Nat :=
  match lastFence ((boundCtxs s q).filterMap (fenceRead s)) with
  | some r => r.2 + 1
  | none => (((s.launches.filter (fun e => e.2.queue == q)).map (·.2.pos)).min?).getD (getHwq s q).head

/-- A queue's packets are read again from a position, and the queue is released. -/
def restartQueue (pos : Nat → Nat) (s : State) (q : Nat) : State :=
  let s1 := modHwq s q (fun x => { x with head := pos q, held := false })
  paStore s1 (queueDesc s1 q + 32) (leBytes 8 (pos q))

/-- PRESET of a partition. The model holds no dirty lines outside memory. -/
def presetPart (s : State) (p : Nat) : State :=
  let cs := partCtxs s p
  let qs := partQueues s p
  let pos := qs.map (fun q => (q, restartPos s q))
  let s1 := dropRings (endCtxWork (zeroSems s cs) cs) cs
  let s2 := { s1 with launches := s1.launches.filter (fun e => !qs.contains e.2.queue),
                      launchTiles := s1.launchTiles.filter (fun e =>
                        !(tabFind s1.launches e.1).any (fun l => qs.contains l.queue)),
                      ctxs := s1.ctxs.map (fun e => if cs.contains e.1 then (e.1, e.2.preset) else e) }
  qs.foldl (restartQueue (fun q => tabGet 0 pos q)) s2

/-- PRESET (R301). -/
def bodyPreset (f : FS) : Body := fun c s => Ex.run do
  let p ← supNum s c f 6 true
  if (tabFind s.parts p).isNone then supTrap s 0x0E (supArg s c f)
  else if (partCtxs s p).any (vfStopped s) then trapEx s 46
  else return supDone s (presetPart s p) c f (partQueues s p).length

/-! ### SEMMAP (R255, R305) -/

/-- The context has a task running or saved in a stack group. -/
def busyInGroup (s : State) (ctx g : Nat) : Bool :=
  (tilesOfCtx s ctx).any (fun t => t / 32 == g) || s.saves.any (fun e => e.1 / 256 == ctx && e.1 % 256 / 32 == g)

/-- A context of another top-level partition maps the physical semaphore (R305). -/
def semShared (s : State) (ctx g n : Nat) : Bool :=
  s.ctxs.any (fun e => ctxTop s e.1 != ctxTop s ctx && e.2.semMap.any (fun m => m.1 / 1024 == g && m.2 == n))

/-- A virtual semaphore number of a context in a stack group, checked. -/
def semmapArgs (s : State) (c : CoreId) (f : FS) (mapping : Bool) : Ex (Nat × Nat × Nat) :=
  let ga := supArg s c f
  let gb := (getStrand s c).getG f.rb
  let ctx := (ga.extractLsb' 0 9).toNat
  let v := (ga.extractLsb' 10 10).toNat
  let g := (ga.extractLsb' 20 3).toNat
  if ga.extractLsb' 23 41 ≠ 0 ∨ ga.getLsbD 9 ∨ (mapping ∧ gb.extractLsb' 13 51 ≠ 0) then supTrap s 0x0F ga
  else if (tabFind s.ctxs ctx).isNone ∨ !s.stackMask.getLsbD g then supTrap s 0x0E ga
  else if busyInGroup s ctx g then trapEx s 33 (BitVec.ofNat 64 (2 * 2 ^ 62 + v)) ga
  else .ok (ctx, v, g)

/-- The previous physical number plus 1, or 0. -/
def semWas (s : State) (ctx g v : Nat) : Nat :=
  (((tabFind s.ctxs ctx).bind (fun x => tabFind x.semMap (1024 * g + v))).map (· + 1)).getD 0

/-- SEMMAP.MAP. -/
def bodySemmapMap (f : FS) : Body := fun c s => Ex.run do
  let (ctx, v, g) ← semmapArgs s c f true
  let gb := (getStrand s c).getG f.rb
  let n := (gb.extractLsb' 0 12).toNat
  if semShared s ctx g n then trapEx s 33 (BitVec.ofNat 64 (3 * 2 ^ 62 + v)) (supArg s c f)
  else
    let s1 := modCtx s ctx (fun x => { x with semMap := tabPut x.semMap (1024 * g + v) n })
    let s2 := if gb.getLsbD 12 then setSem s1 (semKey g n) { getSem s1 (semKey g n) with count := 0 } else s1
    return supDone s s2 c f (semWas s ctx g v)

/-- SEMMAP.UNMAP. -/
def bodySemmapUnmap (f : FS) : Body := fun c s => Ex.run do
  let (ctx, v, g) ← semmapArgs s c f false
  return supDone s (modCtx s ctx (fun x => { x with semMap := tabDel x.semMap (1024 * g + v) })) c f (semWas s ctx g v)

/-! ### PARTSET (R289, R290, R302) -/

/-- The partition that a descriptor's doublewords describe; its use of the running period is kept. -/
def descPart (d : List Word) (used : Nat) : Partition :=
  let w2 := d.getD 2 0
  { clusters := d.getD 0 0, tshare := ((d.getD 1 0).extractLsb' 0 11).toNat, fabric := (w2.extractLsb' 48 16).toNat,
    tier2 := (w2.extractLsb' 32 16).toNat, host := (w2.extractLsb' 16 16).toNat, borrow := w2.getLsbD 0, used := used }

/-- Must-be-0 bits of a descriptor are 0. -/
def descZero (d : List Word) : Bool :=
  (d.getD 1 0).extractLsb' 11 53 == 0 && (d.getD 2 0).extractLsb' 1 15 == 0 && (d.drop 3).all (· == 0)

/-- Other partitions of the level of p: top-level ones, or its siblings. -/
def peersOf (s : State) (p : Nat) : List Partition :=
  s.parts.filterMap (fun e =>
    if e.1 ≠ p ∧ (if p % 8 = 0 then e.1 % 8 = 0 else e.1 / 8 = p / 8 ∧ e.1 % 8 ≠ 0) then some e.2 else none)

/-- Children of a top-level partition. -/
def childrenOf (s : State) (p : Nat) : List Partition :=
  if p % 8 = 0 then s.parts.filterMap (fun e => if e.1 ≠ p ∧ e.1 / 8 = p / 8 then some e.2 else none) else []

/-- A partition with nothing, which stands for a parent that is not defined. -/
def Partition.none : Partition :=
  { clusters := 0, tshare := 0, fabric := 0, tier2 := 0, host := 0, borrow := false, used := 0 }

/-- The parent of a child. -/
def parentOf (s : State) (p : Nat) : Partition := (tabFind s.parts (p / 8 * 8)).getD Partition.none

/-- Clusters of a lie within those of b. -/
def within (a b : Word) : Bool := a &&& ~~~b == 0

/-- The sums of budgets of partitions exceed those of one. -/
def budgetsOver (l : List Partition) (cap : Partition) : Bool :=
  decide (cap.fabric < (l.map (·.fabric)).sum) || decide (cap.tier2 < (l.map (·.tier2)).sum) ||
    decide (cap.host < (l.map (·.host)).sum)

/-- Capacities of the links as the capability list reports them: 128 GB/s of the host link at x16 and 64 GT/s, in proportion
else (R323), 128 for each second-tier port that is up, 200 for each fabric port that is up (R290, R337). -/
def linkCaps (s : State) : Partition :=
  { Partition.none with
      host := 128 * s.hostWidth * s.hostRate / 1024, tier2 := 128 * ((List.range 4).filter (fun p => (tabGet Port.full s.ports p).up)).length,
      fabric := 200 * ((List.range 16).filter (fun p => !s.fabDown.contains p)).length }

/-- Clusters on which a context of a partition has a task running, saved or queued. -/
def busyClusters (s : State) (p : Nat) : List Nat :=
  let mine := fun ctx => ctxPart s ctx == p && (tabFind s.ctxs ctx).isSome
  (s.tiles.filter (fun e => e.2.task.any (fun k => mine k.ctx))).map (·.1 / 4)
    ++ (s.saves.filter (fun e => mine (e.1 / 256))).map (fun e => e.1 % 256 / 4)
    ++ ((s.heap.filter (fun e => mine e.2.ctx)).flatMap (fun e => entryTiles e.2)).map (· / 4)

/-- The first condition of R290 that a definition breaks. -/
def partBroken (s : State) (p : Nat) (x : Partition) : Option Nat :=
  let peers := peersOf s p
  let top := p % 8 == 0
  let up := parentOf s p
  let kids := childrenOf s p
  let overlap := peers.any (fun y => y.clusters &&& x.clusters != 0)
  let bad : List (Nat × Bool) :=
    [(1, x.clusters == 0),
     (2, top && overlap),
     (3, !top && (!within x.clusters up.clusters || overlap)),
     (4, !top && decide (up.tshare < x.tshare)),
     (5, top && budgetsOver (x :: peers) (linkCaps s)),
     (6, !top && budgetsOver (x :: peers) up),
     (7, (tabFind s.parts p).any (fun old =>
        (busyClusters s p).any (fun k => bitOf old.clusters k && !bitOf x.clusters k))),
     (8, kids.any (fun y => !within y.clusters x.clusters || decide (x.tshare < y.tshare)) || budgetsOver kids x)]
  (bad.find? (·.2)).map (·.1)

/-- Clusters that the part does not have (R338). -/
def absentClusters (s : State) : Word :=
  (List.range 64).foldl (fun w k =>
    if s.clusters.getLsbD k && s.stackMask.getLsbD (k / 8) then w else w ||| (1 <<< k)) 0

/-- Doublewords of a block in device memory at a physical address that must be a multiple of 64. -/
def supBlock (s : State) (ga : Word) (n : Nat) : Ex (List Word) :=
  let a := ga.toNat
  if a % 64 ≠ 0 ∨ !laidOut s a ∨ !laidOut s (a + 8 * n - 1) then supTrap s 0x0E ga
  else if linkDown s a then trapEx s 41
  else if paPoisoned s a (8 * n) then trapEx s 40
  else .ok ((List.range n).map (fun k => paWord s (a + 8 * k)))

/-- PARTSET.DEF. -/
def bodyPartsetDef (f : FS) : Body := fun c s => Ex.run do
  let ga := supArg s c f
  let gb := (getStrand s c).getG f.rb
  if gb.extractLsb' 6 58 ≠ 0 then supTrap s 0x0E ga
  else
    let d ← supBlock s ga 8
    let p := gb.toNat
    let x := descPart d (((tabFind s.parts p).map (·.used)).getD 0)
    if !descZero d then supTrap s 0x0F ga
    else if x.tshare = 0 ∨ 1024 < x.tshare ∨ x.clusters &&& absentClusters s ≠ 0 then supTrap s 0x0E ga
    else
      match partBroken s p x with
      | some n => supTrap s n ga
      | none => return supDone s { s with parts := tabPut s.parts p x } c f 0

/-- PARTSET.DEL. -/
def bodyPartsetDel (f : FS) : Body := fun c s => Ex.run do
  let p ← supNum s c f 6 false
  if (tabFind s.parts p).isNone then supTrap s 0x0E (supArg s c f)
  else if !(partCtxs s p).isEmpty ∨ !(childrenOf s p).isEmpty then supTrap s 0x09 (supArg s c f)
  else return supDone s { s with parts := tabDel s.parts p } c f 0

/-- A virtual function. -/
def getVf (s : State) (v : Nat) : VirtFn := tabGet { quota := 0, used := 0 } s.vfs v

/-- PARTSET.VFQUOTA. -/
def bodyPartsetVfquota (f : FS) : Body := fun c s => Ex.run do
  let v ← supNum s c f 5 false
  let x := getVf s v
  return supDone s { s with vfs := tabPut s.vfs v { x with quota := ((getStrand s c).getG f.rb).toNat } } c f x.quota

/-- PARTSET.VFUSED. -/
def bodyPartsetVfused (f : FS) : Body := fun c s => Ex.run do
  let v ← supNum s c f 5 false
  let x := getVf s v
  let n := (x.used : Int) + ((getStrand s c).getG f.rb).toInt
  return supDone s { s with vfs := tabPut s.vfs v { x with used := min n.toNat (2 ^ 32 - 1) } } c f x.used

/-! ### CTXLD (R295 to R297, R364) -/

/-- Bits of a doubleword outside a field are 0. -/
def onlyBits (w : Word) (lo n : Nat) : Bool := w.toNat % 2 ^ lo == 0 && decide (w.toNat < 2 ^ (lo + n))

/-- Must-be-0 fields of a context state block are 0. -/
def blockZero (d : List Word) : Bool :=
  let at_ := fun n => d.getD n 0
  (at_ 0).extractLsb' 48 16 == 0 && (at_ 0).extractLsb' 9 7 == 0 && onlyBits (at_ 1) 16 30 && onlyBits (at_ 2) 16 30 &&
    (at_ 3).toNat % 2 ^ 16 == 0 && onlyBits (at_ 4) 12 34 && onlyBits (at_ 5) 16 30 && onlyBits (at_ 6) 0 15 &&
    onlyBits (at_ 7) 0 32 && (at_ 8).toNat % 64 == 0 && (d.drop 9).all (· == 0)

/-- A context state block. -/
def ctxBlock (d : List Word) : CtxBlock :=
  let at_ := fun n => d.getD n 0
  let w := at_ 0
  { rings := w.extractLsb' 40 8, part := w.extractLsb' 34 6, queue := w.extractLsb' 24 10, vf := w.extractLsb' 19 5,
    vfv := w.getLsbD 18, tier := w.extractLsb' 16 2, ptbase := (at_ 1).toNat, sidbase := (at_ 2).toNat,
    sidsize := (at_ 3).toNat, fqbase := (at_ 4).toNat, savebase := (at_ 5).toNat, resq := (at_ 6).toNat,
    skew := (at_ 7).setWidth 32, replay := (at_ 8).toNat }

/-- Two contexts bound to one queue name the same partition, tier and virtual function. -/
def blocksAgree (a b : CtxBlock) : Bool :=
  a.queue != b.queue || (a.part == b.part && a.tier == b.tier && a.vfv == b.vfv && a.vf == b.vf)

/-- A limit of R295 would be exceeded, or the contexts of a queue would differ. -/
def ctxLimit (s : State) (n : Nat) (b : CtxBlock) : Bool :=
  let others := s.ctxs.filter (fun e => e.1 != n)
  decide (512 ≤ others.length) ||
    decide (64 ≤ (others.filter (fun e => e.2.block.part.toNat / 8 == b.part.toNat / 8)).length) ||
    others.any (fun e => !blocksAgree e.2.block b)

/-- The ranges of R296 lie in channels of the top-level partition. -/
def rangesOk (s : State) (b : CtxBlock) : Bool :=
  let top := b.part.toNat / 8 * 8
  (b.sidsize == 0 || channelsOk s top b.sidbase b.sidsize) && channelsOk s top b.fqbase 4096 &&
    channelsOk s top b.savebase (256 * saveStride)

/-- A context as it is created. -/
def newCtx (b : CtxBlock) : Context :=
  { block := b, resquota := [], skewbound := b.skew, trace := 0, segs := [], accs := [], sidings := 0, fqNext := 0,
    fqOpen := [], fqDeferred := [], fqLost := 0, bases := [], semMap := [], ringCtr := [], ags := [], sticky := [], scanned := [] }

/-- A context whose block is replaced. -/
def Context.reload (x : Context) (b : CtxBlock) : Context := { x with block := b, resquota := [], skewbound := b.skew }

/-- A queue that EN's check let through with no context bound is checked again when one is (R324, log entry 70). -/
def recheckQueue (s : State) (q : Nat) : State :=
  if (getHwq s q).en && !descOk s q then modHwq (showFlags s q false true) q (fun x => { x with en := false, qerr := true })
  else s

/-- CTXLD.LOAD. -/
def bodyCtxldLoad (f : FS) : Body := fun c s => Ex.run do
  let ga := supArg s c f
  let d ← supBlock s ga 16
  let b := ctxBlock d
  let n := ((d.getD 0 0).extractLsb' 0 9).toNat
  let old := tabFind s.ctxs n
  if !blockZero d then supTrap s 0x0A ga
  else if (tabFind s.parts b.part.toNat).isNone then supTrap s 0x0E ga
  else if ctxLimit s n b then supTrap s 0x0A ga
  else if !s.vfEnable ∧ (b.vfv ∨ vfStopped s n) then trapEx s 46
  else if old.isSome ∧ (!(getHwq s (ctxQueue s n)).held ∨ !(tilesOfCtx s n).isEmpty) then supTrap s 0x0B ga
  else if !rangesOk s b then trapEx s 17
  else
    let x := match old with | some y => y.reload b | none => newCtx b
    return supDone s (recheckQueue { s with ctxs := tabPut s.ctxs n x } b.queue.toNat) c f 0

/-- A context by its number in Ga. -/
def supCtx (s : State) (c : CoreId) (f : FS) : Ex Nat := do
  let n ← supNum s c f 9 false
  if (tabFind s.ctxs n).isNone then supTrap s 0x0E (supArg s c f) else return n

/-- CTXLD.DESTROY acts as QKILL on one context: its queue is held, and emptied once no context is bound to it. -/
def bodyCtxldDestroy (f : FS) : Body := fun c s => Ex.run do
  let n ← supCtx s c f
  if vfStopped s n then trapEx s 46
  else
    let q := ctxQueue s n
    let s1 := removeCtxs s [n] (fun l => l.ctx == n)
    let s2 := if (boundCtxs s1 q).isEmpty then emptyQueue (killWaiting s1 q) q else modHwq s1 q (fun x => { x with held := true })
    return supDone s s2 c f 0

/-- CTXLD.HOLD. -/
def bodyCtxldHold (f : FS) : Body := fun c s => Ex.run do
  let n ← supCtx s c f
  return supDone s (modHwq s (ctxQueue s n) (fun x => { x with held := true })) c f 0

/-- CTXLD.RELEASE. -/
def bodyCtxldRelease (f : FS) : Body := fun c s => Ex.run do
  let n ← supCtx s c f
  return supDone s (modHwq s (ctxQueue s n) (fun x => { x with held := false })) c f 0

/-- ABORT of a strand parked under R313 ends its task, as stages 2 and 3 of R300 do for that one task; the completion
record carries the cause. -/
def abortTask (s : State) (tile : Nat) (cause : BitVec 9) : State :=
  match (getTile s tile).task with
  | none => s
  | some k =>
    let s1 := taskEnded (discardCmds (killTask s tile) (fun c => !c.box && c.tile == tile && c.task == k.serial)) k tile false
    modLaunch s1 k.launch (fun l => { l with outcome := 4, cause := cause.toNat })

/-! ### The meanings -/

/-- QKILL (OP 0xF5, R300). -/
def execQkill (f : FS) (s : State) : Out := issueWord (.qkill f) (bodyQkill f) s

/-- PRESET (OP 0xF6, R301). -/
def execPreset (f : FS) (s : State) : Out := issueWord (.preset f) (bodyPreset f) s

/-- SEMMAP_MAP (OP 0xF7, R306). -/
def execSemmapMap (f : FS) (s : State) : Out := issueWord (.semmapMap f) (bodySemmapMap f) s

/-- SEMMAP_UNMAP (OP 0xF7, R306). -/
def execSemmapUnmap (f : FS) (s : State) : Out := issueWord (.semmapUnmap f) (bodySemmapUnmap f) s

/-- PARTSET_DEF (OP 0xF8, R290). -/
def execPartsetDef (f : FS) (s : State) : Out := issueWord (.partsetDef f) (bodyPartsetDef f) s

/-- PARTSET_DEL (OP 0xF8, R306). -/
def execPartsetDel (f : FS) (s : State) : Out := issueWord (.partsetDel f) (bodyPartsetDel f) s

/-- PARTSET_VFQUOTA (OP 0xF8, R302). -/
def execPartsetVfquota (f : FS) (s : State) : Out := issueWord (.partsetVfquota f) (bodyPartsetVfquota f) s

/-- PARTSET_VFUSED (OP 0xF8, R302). -/
def execPartsetVfused (f : FS) (s : State) : Out := issueWord (.partsetVfused f) (bodyPartsetVfused f) s

/-- CTXLD_LOAD (OP 0xF9, R295). -/
def execCtxldLoad (f : FS) (s : State) : Out := issueWord (.ctxldLoad f) (bodyCtxldLoad f) s

/-- CTXLD_DESTROY (OP 0xF9, R306). -/
def execCtxldDestroy (f : FS) (s : State) : Out := issueWord (.ctxldDestroy f) (bodyCtxldDestroy f) s

/-- CTXLD_HOLD (OP 0xF9, R364). -/
def execCtxldHold (f : FS) (s : State) : Out := issueWord (.ctxldHold f) (bodyCtxldHold f) s

/-- CTXLD_RELEASE (OP 0xF9, R306). -/
def execCtxldRelease (f : FS) (s : State) : Out := issueWord (.ctxldRelease f) (bodyCtxldRelease f) s

end Sys2Proof.Machine
end

