-- ==== Sys2Proof/Machine/Faults.lean ====
section
/-! DEFINITION. Fault service: admission of parked faults, deferred entries, and the responses RETRY and ABORT (R242 to
R244, R299, R310, R313, R315, R356, R363). -/

namespace Sys2Proof.Machine

/-! ### Admission and posting (R242, R243) -/

/-- A parked fault may be served: it joins a pending entry, or an entry is free for it. -/
def mayAdmit (s : State) (f : FaultInfo) : Bool := (prqMatch s f).isSome || (prqRoom s f).isSome

/-- A parked fault joins a pending entry or takes one. -/
def admitFault (s : State) (f : FaultInfo) : State :=
  match prqMatch s f with
  | some (id, e) => { s with prq := tabPut s.prq id { e with parties := e.parties ++ [f] } }
  | none =>
    match prqRoom s f with
    | some res => prqTake s f res
    | none => s

/-- PARKED_FAULT_ADMIT (R242): the oldest parked fault that may take an entry does so. -/
def execParkedFaultAdmit (s : State) : Out :=
  match s.parkedFaults.find? (mayAdmit s) with
  | some f => .next (admitFault { s with parkedFaults := s.parkedFaults.erase f } f)
  | none => .next s

/-- FAULT_ENTRY_POST (R243): the oldest entry of R313 that waits for a slot is posted. -/
def execFaultEntryPost (ctx : Nat) (s : State) : Out :=
  match (tabFind s.ctxs ctx).map (·.fqDeferred) with
  | some ((c, cause, unit, pc) :: rest) =>
    if fqFull s ctx then .next s
    else
      .next (fqPost (modCtx s ctx (fun x => { x with fqDeferred := rest })) ctx (.trapPark c) cause.toNat (coreTile s c)
        unit 0 0 pc.toNat 0 0)
  | _ => .next s

/-! ### Parties (R244, R299, R356) -/

/-- The core is parked at a fault. -/
def parkedAt (s : State) (c : CoreId) (f : FaultInfo) : Bool :=
  (getStrand s c).park == some (.fault { f with queued := false }) && (getStrand s c).run == .parked

/-- A strand that fault service held is RUNNING again, at its recorded progress. -/
def unpark (s : State) (c : CoreId) : State := modStrand s c (fun st => { st with run := .running, park := none })

/-- A parked strand takes a trap at its word: where the word was still to be fetched, outside a REP sequence unless the word
is REP (R87). -/
def trapParked (s : State) (c : CoreId) (f : FaultInfo) (cond : Nat) : State :=
  if f.acc = .fetch then trapFetch (unpark s c) c { cond := cond } else trapCore (unpark s c) c { cond := cond }

/-- Bit PRQ of TRACE of a context. -/
def tracePrq (s : State) (ctx : Nat) : Bool := ((tabFind s.ctxs ctx).map (fun x => x.trace.getLsbD 2)).getD false

/-- A strand repeats its translation and goes on, or takes or joins an entry afresh; an error in a table read traps
ECCUNC. A fault that had to wait for an entry is reported under TRACE.PRQ: by a trap, or in the fault queue of a core program,
which goes on (R310). -/
def retryCore (c : CoreId) (f : FaultInfo) (s : State) : State :=
  if !parkedAt s c f then s
  else
    let (r, s1) := translate s f.tile f.ctx f.va f.acc (getStrand s c).mode
    match r with
    | .ok _ =>
      if f.queued && tracePrq s f.ctx then
        match c with
        | .tile _ _ => trapParked s1 c f 45
        | .sbox _ => fqNotice (unpark s1 c) f.ctx (45 * 8 + 7) f.tile f.unit f.pc.toNat f.va 0
      else unpark s1 c
    | .error e =>
      if e.hard then trapParked s c f e.cond
      else parkFault s c { f with cond := e.cond, reason := e.reason, level := e.level, mega := e.mega, queued := false }

/-- A strand takes the fault as a trap at its word. -/
def abortCore (c : CoreId) (f : FaultInfo) (s : State) : State :=
  if parkedAt s c f then trapParked s c f f.cond else s

/-- A parked command whose fault has been answered goes on. -/
def unparkCmd (s : State) (id : Nat) : State := modCmd s id (fun c => { c with state := c.under, faulted := false })

/-- A command repeats its translation. -/
def retryCmd (s : State) (id : Nat) (f : FaultInfo) : State :=
  match tabFind s.cmds id with
  | none => s
  | some c =>
    if !c.faulted then s
    else
      let (r, s1) := translate s f.tile f.ctx f.va f.acc .user
      match r with
      | .ok _ =>
        let s2 := unparkCmd s1 id
        if f.queued && tracePrq s f.ctx then fqNotice s2 f.ctx (45 * 8 + f.src) f.tile f.unit f.pc.toNat f.va 0 else s2
      | .error e =>
        if e.hard then failCmd s id e.cond
        else raiseFault s { f with cond := e.cond, reason := e.reason, level := e.level, mega := e.mega, queued := false }

/-- A command ends ERR with the fault's condition (R203). -/
def abortCmd (s : State) (id : Nat) (f : FaultInfo) : State :=
  match tabFind s.cmds id with
  | some c => if c.faulted then failCmd s id f.cond else s
  | none => s

/-- A party acts on a response. -/
def answerParty (retry : Bool) (s : State) (f : FaultInfo) : State :=
  match f.party with
  | .core c => onCore s f.ctx c (if retry then retryCore c f else abortCore c f)
  | .command id => if retry then retryCmd s id f else abortCmd s id f
  | .loader _ | .boxLoader _ | .refetch _ _ | .reload _ _ => s

/-! ### Parks of R313 -/

/-- A strand parked under R313 resumes as ERET would. -/
def retryTrap (c : CoreId) (s : State) : State :=
  if (getStrand s c).park = some .trapped ∧ (getStrand s c).run = .parked then resumeFrame s c else s

/-- A saved task is ended. -/
def abortSaved (s : State) (ctx t : Nat) (sv : Saved) (cause : BitVec 9) : State :=
  let k := sv.task
  let s1 := { s with saves := tabDel s.saves (256 * ctx + t),
                     heap := s.heap.filter (fun e => !(e.2.ctx == ctx && e.2.work == .saved t)) }
  let s2 := taskEnded (discardCmds s1 (fun c => !c.box && c.tile == t && c.task == k.serial)) k t false
  modLaunch s2 k.launch (fun l => { l with outcome := 4, cause := cause.toNat })

/-- ABORT of a park under R313: the task, or the core program, is ended. -/
def abortTrap (s : State) (ctx : Nat) (c : CoreId) : State :=
  let stays := fun (st : Strand) => st.park == some .trapped && st.run == .parked
  match c with
  | .sbox g =>
    if stays (getStrand s c) ∧ (tabFind s.boxProgs g).any (fun p => p.ctx == ctx) then
      endBox s g (getStrand s c).tcause.toNat
    else s
  | .tile t q =>
    if runningOn s ctx t then
      if stays (getStrand s c) then abortTask s t (getStrand s c).tcause else s
    else
      match tabFind s.saves (256 * ctx + t) with
      | some sv => if stays (sv.tile.strand q) then abortSaved s ctx t sv (sv.tile.strand q).tcause else s
      | none => s

/-! ### Responses (R244) -/

/-- The response to an entry is the next one in order, and is of a kind: 1 is RETRY, any other value ABORT. -/
def respDue (s : State) (ctx seq : Nat) (retry : Bool) : Bool :=
  s.responses.head?.any (fun r => r.1 == ctx && r.2.1 == seq && (r.2.2 == 1) == retry)

/-- The parties of responses act, at most `n` of them, oldest first. -/
def answerSome : Nat → State → State
  | 0, s => s
  | n + 1, s =>
    match s.answering with
    | [] => s
    | a :: rest => answerSome n (answerParty a.1 { s with answering := rest } a.2)

/-- Parties of a response join those that are to act; the first acts now if none is ahead of it, and then one acts per
clock (R356). -/
def answerAll (s : State) (retry : Bool) (ps : List FaultInfo) : State :=
  let s1 := { s with answering := s.answering ++ ps.map (fun f => (retry, f)) }
  if s.answering.isEmpty then answerSome 1 s1 else s1

/-- A response is taken: its entry counts as answered, its page-request entry is free, and its parties act in the order
in which they joined. -/
def takeResponse (s : State) (ctx seq : Nat) (retry : Bool) : State :=
  match tabFind s.ctxs ctx with
  | none => s
  | some x =>
    let s1 := modCtx { s with responses := s.responses.drop 1 } ctx (fun y => { y with fqOpen := tabDel y.fqOpen seq })
    match tabFind x.fqOpen seq with
    | some (.pageRequest id) =>
      match tabFind s1.prq id with
      | some e => answerAll { s1 with prq := tabDel s1.prq id } retry e.parties
      | none => s1
    | some (.trapPark c) => if retry then onCore s1 ctx c (retryTrap c) else abortTrap s1 ctx c
    | _ => s1

/-- RESP_RETRY (R244). -/
def execRespRetry (ctx seq : Nat) (s : State) : Out :=
  if respDue s ctx seq true then .next (takeResponse s ctx seq true) else .next s

/-- RESP_ABORT (R244). -/
def execRespAbort (ctx seq : Nat) (s : State) : Out :=
  if respDue s ctx seq false then .next (takeResponse s ctx seq false) else .next s

end Sys2Proof.Machine
end

