-- ==== Sys2Proof/Machine/Scalar.lean ====
section
/-! DEFINITION. Integer register and immediate operations and the address instructions: groups 0x1_ and 0x2_
and OP 0x30 to 0x34 (R93 to R101). -/

namespace Sys2Proof.Machine

/-- Writes a G register and retires. -/
def retireG (s : State) (c : CoreId) (rd : BitVec 6) (v : Word) : Res := .retire (setGOf s c rd v)

/-- Writes an A register and retires. -/
def retireA (s : State) (c : CoreId) (rd : BitVec 6) (v : Word) : Res :=
  .retire (modStrand s c (·.setA (aNum rd) v))

/-- The template of group 0x1_ (R94): `op n a b sh` is the table's exact value. -/
def aluBody (f : FR) (op : Nat → Int → Int → Nat → Int) : Body := fun c s =>
  let st := getStrand s c
  let n := aluWidth f
  let a := readBits n (aluSigned f) (st.getG f.ra)
  let b := readBits n (aluSigned f) (st.getG f.rb)
  let sh := (st.getG f.rb).toNat % n
  retireG s c f.rd (narrowTo n (op n a b sh))

/-- DIV and REM: a zero divisor traps INTDIV (R94, R95). -/
def divBody (f : FR) (op : Int → Int → Int) : Body := fun c s =>
  let st := getStrand s c
  let n := aluWidth f
  let a := readBits n (aluSigned f) (st.getG f.ra)
  let b := readBits n (aluSigned f) (st.getG f.rb)
  if b = 0 then .trap { cond := 29 } s else retireG s c f.rd (narrowTo n (op a b))

/-- A bitwise operation on exact values. -/
def bitsOp (g : Word → Word → Word) (a b : Int) : Int := (g (BitVec.ofInt 64 a) (BitVec.ofInt 64 b)).toInt

def bodyAdd (f : FR) : Body := aluBody f (fun _ a b _ => a + b)
def bodySub (f : FR) : Body := aluBody f (fun _ a b _ => a - b)
def bodyMul (f : FR) : Body := aluBody f (fun _ a b _ => a * b)
/-- The upper half of the double-width product, rounded down. -/
def bodyMulh (f : FR) : Body := aluBody f (fun n a b _ => (a * b) / 2 ^ n)
def bodyDiv (f : FR) : Body := divBody f Int.tdiv
def bodyRem (f : FR) : Body := divBody f Int.tmod
def bodyAnd (f : FR) : Body := aluBody f (fun _ a b _ => bitsOp (· &&& ·) a b)
def bodyOr (f : FR) : Body := aluBody f (fun _ a b _ => bitsOp (· ||| ·) a b)
def bodyXor (f : FR) : Body := aluBody f (fun _ a b _ => bitsOp (· ^^^ ·) a b)
def bodyShl (f : FR) : Body := aluBody f (fun _ a _ sh => a * 2 ^ sh)
/-- Logical: the operand is read as unsigned over the operation's width. -/
def bodyShr (f : FR) : Body := aluBody f (fun n a _ sh => (a % 2 ^ n) / 2 ^ sh)
/-- Arithmetic: rounds down. -/
def bodySar (f : FR) : Body := aluBody f (fun _ a _ sh => a / 2 ^ sh)
def bodyMin (f : FR) : Body := aluBody f (fun _ a b _ => min a b)
def bodyMax (f : FR) : Body := aluBody f (fun _ a b _ => max a b)

/-- SETCC: 1 if the condition holds for two registers (R94). -/
def bodySetcc (f : FR) : Body := fun c s =>
  let st := getStrand s c
  retireG s c f.rd (if condHolds (f.fn.toNat % 16) (st.getG f.ra) (st.getG f.rb) then 1 else 0)

/-- SEL: the first register if the third is not zero, else the second (R94). -/
def bodySel (f : FR) : Body := fun c s =>
  let st := getStrand s c
  retireG s c f.rd (if st.getG f.rc ≠ 0 then st.getG f.ra else st.getG f.rb)

/-- The sign-extended immediate of F-I (R96). -/
def immWord (f : FI) : Word := f.imm.signExtend 64

/-- The template of the immediate operations (R96). -/
def immBody (f : FI) (op : Word → Word → Word) : Body := fun c s =>
  retireG s c f.rd (op ((getStrand s c).getG f.ra) (immWord f))

def bodyAddi (f : FI) : Body := immBody f (· + ·)
def bodyAndi (f : FI) : Body := immBody f (· &&& ·)
def bodyOri (f : FI) : Body := immBody f (· ||| ·)
def bodyXori (f : FI) : Body := immBody f (· ^^^ ·)

/-- Shift count of an immediate shift. -/
def immShift (f : FI) : Nat := (f.imm.extractLsb' 0 6).toNat

def bodyShli (f : FI) : Body := immBody f (fun a _ => a <<< immShift f)
def bodyShri (f : FI) : Body := immBody f (fun a _ => a >>> immShift f)
def bodySari (f : FI) : Body := immBody f (fun a _ => a.sshiftRight (immShift f))

/-- SETCCI: the condition in IMM40[39:36], the operand SExt of IMM40[35:0] (R96). -/
def bodySetcci (f : FI) : Body := immBody f (fun a _ =>
  if condHolds (f.imm.extractLsb' 36 4).toNat a ((f.imm.extractLsb' 0 36).signExtend 64) then 1 else 0)

def bodyLimm (f : FI) : Body := fun c s => retireG s c f.rd (immWord f)

/-- LIMMH puts IMM40[23:0] above bits 39:0 of the register (R96). -/
def bodyLimmh (f : FI) : Body := fun c s =>
  retireG s c f.rd (f.imm.extractLsb' 0 24 ++ ((getStrand s c).getG f.rd).extractLsb' 0 40)

/-- Leading zero bits of a word, looking from bit `n − 1` down. -/
def leadingZeros (w : Word) : Nat → Nat
  | 0 => 0
  | n + 1 => if w.getLsbD n then 0 else 1 + leadingZeros w n

/-- Set bits of a word among its low `n`. -/
def setBits (w : Word) : Nat → Nat
  | 0 => 0
  | n + 1 => (if w.getLsbD n then 1 else 0) + setBits w n

def bodyClz (f : FR) : Body := fun c s =>
  retireG s c f.rd (BitVec.ofNat 64 (leadingZeros ((getStrand s c).getG f.ra) 64))

def bodyPopc (f : FR) : Body := fun c s =>
  retireG s c f.rd (BitVec.ofNat 64 (setBits ((getStrand s c).getG f.ra) 64))

/-- AMAKE from an immediate name and offset, or from a G register whose top bits are zero (R98). -/
def bodyAmake (f : FI) : Body := fun c s =>
  if f.ra = 0 then
    retireA s c f.rd (mkA (f.imm.extractLsb' 24 16).toNat (f.imm.extractLsb' 0 24).toNat)
  else
    let v := (getStrand s c).getG f.ra
    if v.extractLsb' 48 16 ≠ 0 then .trap { cond := 19 } s else retireA s c f.rd v

/-- AOFF: the offset moves by a shifted G register, wrapping; the name stays (R99). -/
def bodyAoff (f : FR) : Body := fun c s =>
  let st := getStrand s c
  let a := st.getA (aNum f.ra)
  retireA s c f.rd (mkA (aName a) (aOff a + (st.getG f.rb).toNat * 2 ^ (f.fn.toNat % 16)))

/-- AOFFI: the offset moves by a signed immediate, wrapping (R99). -/
def bodyAoffi (f : FI) : Body := fun c s =>
  let a := (getStrand s c).getA (aNum f.ra)
  retireA s c f.rd (mkA (aName a) (aOff a + (immWord f).toNat))

def bodyAgets (f : FR) : Body := fun c s =>
  retireG s c f.rd (BitVec.ofNat 64 (aName ((getStrand s c).getA (aNum f.ra))))

def bodyAgeto (f : FR) : Body := fun c s =>
  retireG s c f.rd (BitVec.ofNat 64 (aOff ((getStrand s c).getA (aNum f.ra))))

/-! ### The meanings -/

/-- ADD (OP 0x10, R94). -/
def execAdd (f : FR) (s : State) : Out := issueWord (.add f) (bodyAdd f) s

/-- SUB (OP 0x11, R94). -/
def execSub (f : FR) (s : State) : Out := issueWord (.sub f) (bodySub f) s

/-- MUL (OP 0x12, R94). -/
def execMul (f : FR) (s : State) : Out := issueWord (.mul f) (bodyMul f) s

/-- MULH (OP 0x13, R94). -/
def execMulh (f : FR) (s : State) : Out := issueWord (.mulh f) (bodyMulh f) s

/-- DIV (OP 0x14, R94). -/
def execDiv (f : FR) (s : State) : Out := issueWord (.div f) (bodyDiv f) s

/-- REM (OP 0x15, R94). -/
def execRem (f : FR) (s : State) : Out := issueWord (.rem f) (bodyRem f) s

/-- AND (OP 0x16, R94). -/
def execAnd (f : FR) (s : State) : Out := issueWord (.and f) (bodyAnd f) s

/-- OR (OP 0x17, R94). -/
def execOr (f : FR) (s : State) : Out := issueWord (.or f) (bodyOr f) s

/-- XOR (OP 0x18, R94). -/
def execXor (f : FR) (s : State) : Out := issueWord (.xor f) (bodyXor f) s

/-- SHL (OP 0x19, R94). -/
def execShl (f : FR) (s : State) : Out := issueWord (.shl f) (bodyShl f) s

/-- SHR (OP 0x1A, R94). -/
def execShr (f : FR) (s : State) : Out := issueWord (.shr f) (bodyShr f) s

/-- SAR (OP 0x1B, R94). -/
def execSar (f : FR) (s : State) : Out := issueWord (.sar f) (bodySar f) s

/-- MIN (OP 0x1C, R94). -/
def execMin (f : FR) (s : State) : Out := issueWord (.min f) (bodyMin f) s

/-- MAX (OP 0x1D, R94). -/
def execMax (f : FR) (s : State) : Out := issueWord (.max f) (bodyMax f) s

/-- SETCC (OP 0x1E, R94). -/
def execSetcc (f : FR) (s : State) : Out := issueWord (.setcc f) (bodySetcc f) s

/-- SEL (OP 0x1F, R94). -/
def execSel (f : FR) (s : State) : Out := issueWord (.sel f) (bodySel f) s

/-- ADDI (OP 0x20, R96). -/
def execAddi (f : FI) (s : State) : Out := issueWord (.addi f) (bodyAddi f) s

/-- ANDI (OP 0x21, R96). -/
def execAndi (f : FI) (s : State) : Out := issueWord (.andi f) (bodyAndi f) s

/-- ORI (OP 0x22, R96). -/
def execOri (f : FI) (s : State) : Out := issueWord (.ori f) (bodyOri f) s

/-- XORI (OP 0x23, R96). -/
def execXori (f : FI) (s : State) : Out := issueWord (.xori f) (bodyXori f) s

/-- SHLI (OP 0x24, R96). -/
def execShli (f : FI) (s : State) : Out := issueWord (.shli f) (bodyShli f) s

/-- SHRI (OP 0x25, R96). -/
def execShri (f : FI) (s : State) : Out := issueWord (.shri f) (bodyShri f) s

/-- SARI (OP 0x26, R96). -/
def execSari (f : FI) (s : State) : Out := issueWord (.sari f) (bodySari f) s

/-- SETCCI (OP 0x27, R96). -/
def execSetcci (f : FI) (s : State) : Out := issueWord (.setcci f) (bodySetcci f) s

/-- LIMM (OP 0x28, R96). -/
def execLimm (f : FI) (s : State) : Out := issueWord (.limm f) (bodyLimm f) s

/-- LIMMH (OP 0x29, R96). -/
def execLimmh (f : FI) (s : State) : Out := issueWord (.limmh f) (bodyLimmh f) s

/-- CLZ (OP 0x2A, R97). -/
def execClz (f : FR) (s : State) : Out := issueWord (.clz f) (bodyClz f) s

/-- POPC (OP 0x2B, R97). -/
def execPopc (f : FR) (s : State) : Out := issueWord (.popc f) (bodyPopc f) s

/-- AMAKE (OP 0x30, R98). -/
def execAmake (f : FI) (s : State) : Out := issueWord (.amake f) (bodyAmake f) s

/-- AOFF (OP 0x31, R99). -/
def execAoff (f : FR) (s : State) : Out := issueWord (.aoff f) (bodyAoff f) s

/-- AOFFI (OP 0x32, R99). -/
def execAoffi (f : FI) (s : State) : Out := issueWord (.aoffi f) (bodyAoffi f) s

/-- AGETS (OP 0x33, R100). -/
def execAgets (f : FR) (s : State) : Out := issueWord (.agets f) (bodyAgets f) s

/-- AGETO (OP 0x34, R100). -/
def execAgeto (f : FR) (s : State) : Out := issueWord (.ageto f) (bodyAgeto f) s

end Sys2Proof.Machine
end

