-- ==== Sys2Proof/Machine/Governed.lean ====
section
/-! DEFINITION. REP and its governed word (R39, R40, R86 to R88), and the effect of every word by constructor,
through which a waiting word goes on. -/

namespace Sys2Proof.Machine

/-- The effect of every word of a strand; none for an event, and for REP, which has no effect of its own. -/
def bodyOf : Instr → Option Body
  | .nop f => some (bodyNop f)
  | .br f => some (bodyBr f)
  | .bcc f => some (bodyBcc f)
  | .bcall f => some (bodyBcall f)
  | .jr f => some (bodyJr f)
  | .jrl f => some (bodyJrl f)
  | .loop f => some (bodyLoop f)
  | .fork f => some (bodyFork f)
  | .rdv f => some (bodyRdv f)
  | .endTask f => some (bodyEndTask f)
  | .yield f => some (bodyYield f)
  | .tkgive f => some (bodyTkgive f)
  | .tktake f => some (bodyTktake f)
  | .tkcnt f => some (bodyTkcnt f)
  | .add f => some (bodyAdd f)
  | .sub f => some (bodySub f)
  | .mul f => some (bodyMul f)
  | .mulh f => some (bodyMulh f)
  | .div f => some (bodyDiv f)
  | .rem f => some (bodyRem f)
  | .and f => some (bodyAnd f)
  | .or f => some (bodyOr f)
  | .xor f => some (bodyXor f)
  | .shl f => some (bodyShl f)
  | .shr f => some (bodyShr f)
  | .sar f => some (bodySar f)
  | .min f => some (bodyMin f)
  | .max f => some (bodyMax f)
  | .setcc f => some (bodySetcc f)
  | .sel f => some (bodySel f)
  | .addi f => some (bodyAddi f)
  | .andi f => some (bodyAndi f)
  | .ori f => some (bodyOri f)
  | .xori f => some (bodyXori f)
  | .shli f => some (bodyShli f)
  | .shri f => some (bodyShri f)
  | .sari f => some (bodySari f)
  | .setcci f => some (bodySetcci f)
  | .limm f => some (bodyLimm f)
  | .limmh f => some (bodyLimmh f)
  | .clz f => some (bodyClz f)
  | .popc f => some (bodyPopc f)
  | .amake f => some (bodyAmake f)
  | .aoff f => some (bodyAoff f)
  | .aoffi f => some (bodyAoffi f)
  | .agets f => some (bodyAgets f)
  | .ageto f => some (bodyAgeto f)
  | .csrr f => some (bodyCsrr f)
  | .csrw f => some (bodyCsrw f)
  | .csrset f => some (bodyCsrset f)
  | .csrclr f => some (bodyCsrclr f)
  | .ld f => some (bodyLd f)
  | .st f => some (bodySt f)
  | .ldl f => some (bodyLdl f)
  | .stl f => some (bodyStl f)
  | .scopy f => some (bodyScopy f)
  | .szero f => some (bodySzero f)
  | .salloc f => some (bodySalloc f)
  | .sfree f => some (bodySfree f)
  | .sgrow f => some (bodySgrow f)
  | .sattr f => some (bodySattr f)
  | .squery f => some (bodySquery f)
  | .srecall f => some (bodySrecall f)
  | .spush f => some (bodySpush f)
  | .qrd f => some (bodyQrd f)
  | .qwr f => some (bodyQwr f)
  | .qcnt f => some (bodyQcnt f)
  | .movl f => some (bodyMovl f)
  | .bcast f => some (bodyBcast f)
  | .extr f => some (bodyExtr f)
  | .ins f => some (bodyIns f)
  | .limml f => some (bodyLimml f)
  | .fadd f => some (bodyFadd f)
  | .fsub f => some (bodyFsub f)
  | .fmul f => some (bodyFmul f)
  | .fma f => some (bodyFma f)
  | .fmax f => some (bodyFmax f)
  | .fmin f => some (bodyFmin f)
  | .fabs f => some (bodyFabs f)
  | .fneg f => some (bodyFneg f)
  | .fexp2 f => some (bodyFexp2 f)
  | .flog2 f => some (bodyFlog2 f)
  | .frcp f => some (bodyFrcp f)
  | .frsq f => some (bodyFrsq f)
  | .fcvt f => some (bodyFcvt f)
  | .fscale f => some (bodyFscale f)
  | .iadd f => some (bodyIadd f)
  | .isub f => some (bodyIsub f)
  | .imul f => some (bodyImul f)
  | .imad f => some (bodyImad f)
  | .iand f => some (bodyIand f)
  | .ior f => some (bodyIor f)
  | .ixor f => some (bodyIxor f)
  | .ishl f => some (bodyIshl f)
  | .ishr f => some (bodyIshr f)
  | .imin f => some (bodyImin f)
  | .imax f => some (bodyImax f)
  | .fcmp f => some (bodyFcmp f)
  | .icmp f => some (bodyIcmp f)
  | .pset f => some (bodyPset f)
  | .psel f => some (bodyPsel f)
  | .redsum f => some (bodyRedsum f)
  | .redmax f => some (bodyRedmax f)
  | .redmin f => some (bodyRedmin f)
  | .scanadd f => some (bodyScanadd f)
  | .perm f => some (bodyPerm f)
  | .bppack f => some (bodyBppack f)
  | .bpunp f => some (bodyBpunp f)
  | .osminit f => some (bodyOsminit f)
  | .osmx f => some (bodyOsmx f)
  | .mldw f => some (bodyMldw f)
  | .mswap f => some (bodyMswap f)
  | .mstream f => some (bodyMstream f)
  | .mrank1 f => some (bodyMrank1 f)
  | .acczero f => some (bodyAcczero f)
  | .accrd f => some (bodyAccrd f)
  | .accwr f => some (bodyAccwr f)
  | .accpin f => some (bodyAccpin f)
  | .accunpin f => some (bodyAccunpin f)
  | .accspill f => some (bodyAccspill f)
  | .accspillOther f => some (bodyAccspillOther f)
  | .accfill f => some (bodyAccfill f)
  | .accfillOther f => some (bodyAccfillOther f)
  | .gdelta f => some (bodyGdelta f)
  | .gdread f => some (bodyGdread f)
  | .ecmd f => some (bodyEcmd f)
  | .ewait f => some (bodyEwait f)
  | .epoll f => some (bodyEpoll f)
  | .elink f => some (bodyElink f)
  | .ekick f => some (bodyEkick f)
  | .eqstat f => some (bodyEqstat f)
  | .spawnSeg f => some (bodySpawnSeg f)
  | .spawnVa f => some (bodySpawnVa f)
  | .withdraw f => some (bodyWithdraw f)
  | .ttread f => some (bodyTtread f)
  | .skewack f => some (bodySkewack f)
  | .ldg f => some (bodyLdg f)
  | .stg f => some (bodyStg f)
  | .atg f => some (bodyAtg f)
  | .prefg f => some (bodyPrefg f)
  | .fence f => some (bodyFence f)
  | .atl f => some (bodyAtl f)
  | .sempost f => some (bodySempost f)
  | .semwait f => some (bodySemwait f)
  | .semtry f => some (bodySemtry f)
  | .acqbufP f => some (bodyAcqbufP f)
  | .acqbufC f => some (bodyAcqbufC f)
  | .relbufP f => some (bodyRelbufP f)
  | .relbufC f => some (bodyRelbufC f)
  | .relbufSet f => some (bodyRelbufSet f)
  | .ringwait f => some (bodyRingwait f)
  | .ringpost f => some (bodyRingpost f)
  | .bar f => some (bodyBar f)
  | .agset f => some (bodyAgset f)
  | .agget f => some (bodyAgget f)
  | .slres f => some (bodySlres f)
  | .trap f => some (bodyTrap f)
  | .eret f => some (bodyEret f)
  | .wfe f => some (bodyWfe f)
  | .tlbinvVa f => some (bodyTlbinvVa f)
  | .tlbinvCtx f => some (bodyTlbinvCtx f)
  | .tlbinvAll f => some (bodyTlbinvAll f)
  | .preemptK f => some (bodyPreemptK f)
  | .preemptR f => some (bodyPreemptR f)
  | .qkill f => some (bodyQkill f)
  | .preset f => some (bodyPreset f)
  | .semmapMap f => some (bodySemmapMap f)
  | .semmapUnmap f => some (bodySemmapUnmap f)
  | .partsetDef f => some (bodyPartsetDef f)
  | .partsetDel f => some (bodyPartsetDel f)
  | .partsetVfquota f => some (bodyPartsetVfquota f)
  | .partsetVfused f => some (bodyPartsetVfused f)
  | .ctxldLoad f => some (bodyCtxldLoad f)
  | .ctxldDestroy f => some (bodyCtxldDestroy f)
  | .ctxldHold f => some (bodyCtxldHold f)
  | .ctxldRelease f => some (bodyCtxldRelease f)
  | .dbgscanOut f => some (bodyDbgscanOut f)
  | .dbgscanIn f => some (bodyDbgscanIn f)
  | .dbgscanRun f => some (bodyDbgscanRun f)
  | _ => none

/-- Changes the fields of a line word. -/
def mapFL (h : FL → FL) : Instr → Instr
  | .movl f => .movl (h f)
  | .bcast f => .bcast (h f)
  | .extr f => .extr (h f)
  | .ins f => .ins (h f)
  | .limml f => .limml (h f)
  | .fadd f => .fadd (h f)
  | .fsub f => .fsub (h f)
  | .fmul f => .fmul (h f)
  | .fma f => .fma (h f)
  | .fmax f => .fmax (h f)
  | .fmin f => .fmin (h f)
  | .fabs f => .fabs (h f)
  | .fneg f => .fneg (h f)
  | .fexp2 f => .fexp2 (h f)
  | .flog2 f => .flog2 (h f)
  | .frcp f => .frcp (h f)
  | .frsq f => .frsq (h f)
  | .fcvt f => .fcvt (h f)
  | .fscale f => .fscale (h f)
  | .iadd f => .iadd (h f)
  | .isub f => .isub (h f)
  | .imul f => .imul (h f)
  | .imad f => .imad (h f)
  | .iand f => .iand (h f)
  | .ior f => .ior (h f)
  | .ixor f => .ixor (h f)
  | .ishl f => .ishl (h f)
  | .ishr f => .ishr (h f)
  | .imin f => .imin (h f)
  | .imax f => .imax (h f)
  | .fcmp f => .fcmp (h f)
  | .icmp f => .icmp (h f)
  | .pset f => .pset (h f)
  | .psel f => .psel (h f)
  | .redsum f => .redsum (h f)
  | .redmax f => .redmax (h f)
  | .redmin f => .redmin (h f)
  | .scanadd f => .scanadd (h f)
  | .perm f => .perm (h f)
  | .bppack f => .bppack (h f)
  | .bpunp f => .bpunp (h f)
  | .osminit f => .osminit (h f)
  | .osmx f => .osmx (h f)
  | i => i

/-! ### What REP may step (R39, R151) -/

/-- LD of a line word is a line operand. -/
def ldLine (op : Nat) : Bool := op != 0x55 && op != 0x7B && op != 0x7C && op != 0x7D

/-- LA of a line word is a line operand. -/
def laLine (op : Nat) : Bool := op != 0x57 && op != 0x7D && op != 0x87

/-- LB of a line word is a line operand. -/
def lbLine (op : Nat) : Bool :=
  (0x60 ≤ op && op ≤ 0x65) || op == 0x6D || (0x70 ≤ op && op ≤ 0x7C) || op == 0x7E || op == 0x84

/-- Forms whose DISP18 is a displacement. -/
def usesDisp (op : Nat) : Bool :=
  (0x40 ≤ op && op ≤ 0x43) || op == 0x50 || op == 0x51 || op == 0xA0 || op == 0xA3 || op == 0xA4 || op == 0xA6 ||
    (0xB0 ≤ op && op ≤ 0xB3) || op == 0xC0 || op == 0xD0

/-- A nonzero step falls on a line operand that is an M line. -/
def lineStepOk (st : BitVec 4) (used : Bool) (l : BitVec 12) : Bool := st == 0 || (used && lineDir l != 3)

/-- The steps of a REP are allowed on its governed word (R39). -/
def stepsOk (f : FP) (i : Instr) : Bool :=
  let op := (opOf i).toNat
  match formOf i with
  | some (_, .l g) =>
    lineStepOk f.sd (ldLine op) g.ld && lineStepOk f.sa (laLine op) g.la && lineStepOk f.sb (lbLine op) g.lb
  | _ =>
    f.sb == 0 && (f.sd == 0 || op == 0x42 || op == 0x43) && (f.sa == 0 || usesDisp op)

/-- A line operand with its INDEX moved, mod 64. -/
def stepLine (l : BitVec 12) (used : Bool) (n : Int) : BitVec 12 :=
  if used && lineDir l != 3 then l.extractLsb' 6 6 ++ (l.extractLsb' 0 6 + BitVec.ofInt 6 n) else l

/-- The word of a pass: the INDEX fields that R39 steps. Displacements move by `dispStep` of the strand. -/
def stepWord (r : Rep) : Instr → Instr
  | .ldl f => .ldl { f with aux := f.aux.extractLsb' 6 4 ++ (f.aux.extractLsb' 0 6 + BitVec.ofInt 6 r.offd) }
  | .stl f => .stl { f with aux := f.aux.extractLsb' 6 4 ++ (f.aux.extractLsb' 0 6 + BitVec.ofInt 6 r.offd) }
  | i =>
    let op := (opOf i).toNat
    mapFL (fun f => { f with ld := stepLine f.ld (ldLine op) r.offd, la := stepLine f.la (laLine op) r.offa,
                             lb := stepLine f.lb (lbLine op) r.offb }) i

/-! ### The sequence -/

/-- Passes of a REP (R39). -/
def passes (f : FP) : Nat := if f.cnt = 0 then 1024 else f.cnt.toNat

/-- The governed word, or the condition of its trap (R40, R39). -/
def governedWord (s : State) (c : CoreId) (f : FP) (w : Word) : Except Nat Instr :=
  match decode w with
  | .error (.badField i) => .error (rejectTrap s c i)
  | .ok i =>
    match decodeTrap s c i with
    | some cond => .error cond
    | none =>
      let g := (opOf i).toNat / 16
      if g = 0 ∨ g = 15 ∨ !stepsOk f i then .error 4 else .ok i

/-- Sets the sequence in force of a core. -/
def setRep (s : State) (c : CoreId) (r : Rep) : State := modStrand s c (fun st => { st with rep := some r })

/-- What the end of a pass means. -/
def finishPass (c : CoreId) (f : FP) (g : Instr) (r : Rep) (old : Option Wait) (last : Word) (x : Res) : Out :=
  match x with
  | .retire s | .jump _ s | .done s | .pause _ s => .next (passDone c f g r none s)
  | .after t s => .next (passDone c f g r (some t) s)
  | .gone s => .next s
  | .wait w s =>
    .next (modStrand (enterWait s c g w old) c (fun st =>
      { st with lastPc := last, wait := st.wait.map (fun y => { y with instr := .rep f }) }))
  | .trap t s => .next (trapCore s c t)
  | .fault y s => .next (parkFault s c y)
  | .more s => .next (modStrand s c (fun st => { st with going := some (.rep f), wait := none }))

/-- One pass of a sequence whose governed word has passed its checks and its take (R86). -/
def repPass (c : CoreId) (f : FP) (g : Instr) (r : Rep) (s : State) : Out :=
  let old := (getStrand s c).wait
  let i := stepWord r g
  let s1 := modStrand s c (fun st =>
    { st with lastPc := st.pc + 8, run := .running, dispStep := 64 * r.offa })
  match bodyOf i with
  | some b => finishPass c f g r old (getStrand s c).lastPc (b c s1)
  | none => .next s

/-- The checks and the take of the governed word, once, and then pass 0 or the pass resumed (R40, R86). -/
def repStart (c : CoreId) (f : FP) (r : Rep) (s : State) : Out :=
  if r.rem = 0 ∨ 1024 < r.rem then .next (trapCore s c { cond := 4 })
  else
    let pc := (getStrand s c).pc
    match wordAt s c (pc.toNat + 8) with
    | none => .next (fillBlock s c (pc.toNat + 8))
    | some w =>
      match governedWord s c f w with
      | .error cond => .next (trapCore s c { cond := cond })
      | .ok g =>
        let s1 := judge s c g
        match takeToken s1 c g with
        | .error y =>
          .next (modStrand (enterWait s1 c g y (getStrand s1 c).wait) c (fun st =>
            { st with wait := st.wait.map (fun z => { z with instr := .rep f }) }))
        | .ok s2 =>
          if giveOverflows s2 c g then .next (giveTrap s2 c g)
          else
            let r1 := { r with word := some g }
            repPass c f g r1 (setRep s2 c r1)

/-- REP (OP 0x08, R86): one pass of the sequence at each issue. -/
def execRep (f : FP) (s0 : State) : Out :=
  let c := s0.cur
  match decodeTrap s0 c (.rep f) with
  | some cond => .next (trapCore s0 c { cond := cond })
  | none =>
    let r := (getStrand s0 c).rep.getD { rem := passes f, offd := 0, offa := 0, offb := 0, word := none }
    let s := setRep s0 c r
    match r.word with
    | some g => repPass c f g r s
    | none => repStart c f r s

/-! ### Words without a meaning of their own (R37, R41, R46, R89) -/

/-- ZEROWORD (R37). -/
def bodyZeroword : Body := fun _ s => .trap { cond := 2 } s

/-- ILLOP (R41). -/
def bodyIllop (_w : BitVec 64) : Body := fun _ s => .trap { cond := 1 } s

/-- POOL traps POOLEXEC (R46, R89). -/
def bodyPool (_f : FD) : Body := fun _ s => .trap { cond := 3 } s

/-- ZEROWORD (R37). -/
def execZeroword (s : State) : Out := issueWord .zeroword bodyZeroword s

/-- ILLOP (R41). -/
def execIllop (w : BitVec 64) (s : State) : Out := issueWord (.illop w) (bodyIllop w) s

/-- POOL (OP 0xFE, R89). -/
def execPool (f : FD) (s : State) : Out := issueWord (.pool f) (bodyPool f) s

/-- A word of the core `s.cur`, as it stands at its PC or as it waits. -/
def issueAny (i : Instr) (s : State) : Out :=
  match i with
  | .rep f => execRep f s
  | .zeroword => execZeroword s
  | .illop w => execIllop w s
  | .pool f => execPool f s
  | i =>
    match bodyOf i with
    | some b => issueWord i b s
    | none => .next s

end Sys2Proof.Machine
end

