-- ==== Sys2Proof/Machine/Events.lean ====
section
/-! DEFINITION. Events that end a wait, a pause or a movement of data: the events of the opcode table that stand between
the issue of a word and its retirement (R27, R71, R74 to R76, R81 to R83, R120, R123 to R127, R136, R143, R146, R167,
R169, R203, R256, R264, R266, R315, R318). -/

namespace Sys2Proof.Machine

/-! ### Looking again at a waiting word -/

/-- The word that a core waits in for one of some reasons. -/
def waitingIn (s : State) (c : CoreId) (whats : List WaitFor) : Option Wait :=
  let st := getStrand s c
  if st.run = .waiting then st.wait.bind (fun w => if whats.contains w.what then some w else none) else none

/-- The word that a core waits in: under REP, the governed one. -/
def governedIn (s : State) (c : CoreId) (w : Wait) : Instr := waitWord (getStrand s c) w

/-- A core that no longer waits has issued its word, and issues no other in this clock (R70). -/
def markActed (c : CoreId) : Out → Out
  | .next s => .next (if (getStrand s c).run = .waiting then s else acts s c)
  | o => o

/-! ### Engine errors (R203, R315) -/

/-- A row of X's MSTREAM stands in the array: it completes before anything else is taken (R175). -/
def rowInFlight (s : State) : CoreId → Bool
  | .tile t q => q % 4 == 2 && (getTile s t).mx.wave.isSome
  | .sbox _ => false

/-- A held engine error is due: in user mode before the next word issues, or at once in a wait, but in no clock in which the
core has issued or trapped already (R203, R314). -/
def errorDue (s : State) (c : CoreId) : Bool :=
  let st := getStrand s c
  !st.errors.isEmpty && (isBox c || st.mode == .user) && st.pause.isNone && !s.acted.contains c && !rowInFlight s c &&
    (st.run == .waiting || (st.run == .running && st.going.isNone))

/-- The oldest held error is taken. -/
def takeError (s : State) (c : CoreId) : State :=
  let st := getStrand s c
  match st.errors with
  | [] => s
  | e :: rest =>
    takeTrapAt (setStrand s c { st with errors := rest }) c (causeOf e.cond e.src) e.d0 e.d1 e.d1 st.pc
      (repState (repNow s c)) st.takeDone e.unit

/-- Errors of an ARRIVED or IDLE strand pass to C (R203). -/
def passErrors (s : State) (c : CoreId) : State :=
  match c with
  | .tile t q =>
    let st := getStrand s c
    if q % 4 ≠ 0 ∧ st.errors ≠ [] ∧ (st.run = .arrived ∨ st.run = .idle) then
      modStrand (setStrand s c { st with errors := [] }) (.tile t 0) (fun y => { y with errors := y.errors ++ st.errors })
    else s
  | .sbox _ => s

/-- An engine error is taken where it is due. -/
def errorTurn (c : CoreId) (s : State) : State := if errorDue s c then takeError s c else passErrors s c

/-- HELD_ERROR_TAKE (R315). -/
def execHeldErrorTake (core : CoreId) (s : State) : Out := .next (errorTurn core s)

/-- ENGINE_ERROR_TRAP (R203). -/
def execEngineErrorTrap (core : CoreId) (s : State) : Out := .next (errorTurn core s)

/-- A trap that no word of the core raises is due: PREEMPTED, or a held engine error. -/
def trapDue (s : State) (c : CoreId) : Bool := preemptedDue s c || errorDue s c

/-- It is taken. -/
def takeDue (s : State) (c : CoreId) : State := if preemptedDue s c then takePreempted s (coreTile s c) else takeError s c

/-- The waiting word of a core goes on if what it waits for is there: a trap that is due comes first, and a pre-emption holds
the word (R177, R203, R310). -/
def relook (whats : List WaitFor) (c : CoreId) (s : State) : Out :=
  match waitingIn s c whats with
  | some w =>
    if preemptHolds s c then .next s
    else if trapDue s c then .next (takeDue s c)
    else markActed c (issueAny w.instr { s with cur := c })
  | none => .next s

/-- The waiting words of several cores, in order. -/
def relookAll (whats : List WaitFor) : List CoreId → State → Out
  | [], s => .next s
  | c :: cs, s =>
    match relook whats c s with
    | .next s1 => relookAll whats cs s1
    | o => o

/-- RDV_JOIN (R81). -/
def execRdvJoin (tile : Nat) (s : State) : Out := relook [.rdvJoin] (.tile tile 0) s

/-- TASK_RETIRE (R82). -/
def execTaskRetire (tile : Nat) (s : State) : Out := relook [.taskEnd] (.tile tile 0) s

/-- COUPLING_TAKE (R27, R85). -/
def execCouplingTake (core : CoreId) (s : State) : Out := relook [.take, .tokens] core s

/-- SEGMENT_WAIT_END (R136). -/
def execSegmentWaitEnd (core : CoreId) (s : State) : Out := relook [.segment] core s

/-- QUEUE_SPACE_WAIT_END (R191). -/
def execQueueSpaceWaitEnd (core : CoreId) (s : State) : Out := relook [.engineSpace] core s

/-- EWAIT_COMPLETE (R209). -/
def execEwaitComplete (core : CoreId) (s : State) : Out := relook [.ewait] core s

/-- REL_ORDER_WAIT_END (R248). -/
def execRelOrderWaitEnd (core : CoreId) (s : State) : Out := relook [.relOrder] core s

/-- FENCE_COMPLETE (R254). -/
def execFenceComplete (core : CoreId) (s : State) : Out := relook [.fence] core s

/-- ACQBUF_GRANT (R264). -/
def execAcqbufGrant (core : CoreId) (s : State) : Out := relook [.buffer] core s

/-- BAR_COMPLETE (R266). -/
def execBarComplete (core : CoreId) (s : State) : Out := relook [.barrier] core s

/-- SEMWAIT_GRANT (R256): the head of a semaphore's queue. -/
def execSemwaitGrant (group sem : Nat) (s : State) : Out :=
  match (getSem s (semKey group sem)).queue with
  | c :: _ => relook [.semaphore] c s
  | [] => .next s

/-- RINGWAIT_RELEASE (R261): every strand of the context that waits on the counter. -/
def execRingwaitRelease (ctx ctr : Nat) (s : State) : Out :=
  relookAll [.ringSlot] ((ctxCores s ctx).filter (fun c =>
    (waitingIn s c [.ringSlot]).any (fun w => w.name.toNat == ctr))) s

/-- QRD_LINE_ISSUE (R146). -/
def execQrdLineIssue (tile : Nat) (s : State) : Out := relook [.queueSpace] (.tile tile 1) s

/-- QWR_LINE_WRITE (R146). -/
def execQwrLineWrite (tile : Nat) (s : State) : Out := relook [.drainLine] (.tile tile 3) s

/-- LINE_OPERANDS_READY (R143). -/
def execLineOperandsReady (tile : Nat) (s : State) : Out := relook [.lineOperands] (.tile tile 2) s

/-- The first line of a queue that is not filled. -/
def firstOpen (q : Queue) : Option (Nat × QLine) :=
  (q.lines.zipIdx.find? (fun e => !e.1.filled)).map (fun e => (e.2, e.1))

/-- A line of a tile's queue is there. -/
def fillLine (s : State) (tile q n : Nat) (l : QLine) : State :=
  modTile s tile (fun x => setOpQueue x q { opQueue x q with lines := (opQueue x q).lines.set n l })

/-- A discarded line cannot be read again: the record becomes POISONED at it, with the cause for the word that would pop it
(R150). -/
def poisonAt (s : State) (tile q n cond : Nat) : State :=
  modTile s tile (fun x => setOpQueue x q
    { opQueue x q with lines := (opQueue x q).lines.take n, state := .poisoned, cause := causeOf cond 1 })

/-- The source of a discarded line, or the condition that makes it impossible to read (R150). -/
def refetchRef (s : State) (tile : Nat) (l : QLine) : Except Nat SegRef :=
  match lookupSeg s l.ctx tile l.name with
  | .error cond => .error cond
  | .ok r => if r.seg.bytes < l.off + 64 * l.width then .error 10 else .ok r

/-- A discarded line is read again from a source whose grant is there. -/
def refetchRead (s : State) (tile q n : Nat) (l : QLine) (r : SegRef) : State :=
  if segPoisoned s l.ctx r.name r.tile l.off (64 * l.width) then poisonAt s tile q n 40
  else
    fillLine (touchSeg s l.ctx r.name r.tile) tile q n
      { l with tile := r.tile, filled := true, again := false, bad := false,
               data := lineOfBytes l.width (segBytes s l.ctx r.name r.tile l.off (64 * l.width)) }

/-- A discarded line of a resumed task, under L's client: at once when its segment is RESIDENT, or through the tile's queue
(R126, R150). -/
def refetchLine (s : State) (tile q n : Nat) (l : QLine) : State :=
  match refetchRef s tile l with
  | .error cond => poisonAt s tile q n cond
  | .ok r =>
    let items := footprint [r]
    let party := Party.refetch tile q
    if overFloor s r.tile 1 party items then poisonAt s tile q n 15
    else if grantAtOnce s l.ctx r.tile 1 party items then
      refetchRead (dropGrant s r.tile party) tile q n l r
    else queueGrant s r.tile (newReq s (some party) tile l.ctx 1 r.tile items false)

/-- QRD_LINE_FILL (R146): a read returns; a line discarded at a pre-emption is read again first (R150). -/
def execQrdLineFill (tile q : Nat) (s : State) : Out :=
  match firstOpen (opQueue (getTile s tile) q) with
  | some (n, l) => .next (if l.again then refetchLine s tile q n l else fillLine s tile q n { l with filled := true })
  | none => .next s

/-! ### STALL (R75) -/

/-- Two waits are on the same condition; for queues on the same queue. -/
def sameCond (w x : Wait) : Bool := w.what == x.what && w.kind == x.kind && (w.what != .lineOperands || w.name == x.name)

/-- The wait of a core as a look at its word finds it: it still lacks what it waits for, with what that is now. None: it is
there (R74, R75). -/
def lookedWait (s : State) (c : CoreId) (w : Wait) : Option Wait :=
  match issueAny w.instr { s with cur := c } with
  | .next s1 =>
    if (getStrand s1 c).run = .waiting then
      (getStrand s1 c).wait.bind (fun y => if sameCond w y then some { w with kind := y.kind, name := y.name, psrc := y.psrc, prod := y.prod } else none)
    else none
  | _ => some w

/-- DETAIL0 of a stall (log entry 78). -/
def stallDetail0 (c : CoreId) (w : Wait) : Word :=
  BitVec.ofNat 64 (w.kind.toNat * 2 ^ 60 + coreSeq c * 2 ^ 58 + w.psrc.toNat * 2 ^ 55 + (if w.prod.isSome then 2 ^ 54 else 0)
    + w.name.toNat * 2 ^ 42 + w.code.toNat * 2 ^ 32 + min w.count (2 ^ 32 - 1))

/-- DETAIL1: the PC of the last word that the producing strand issued. -/
def stallDetail1 (s : State) (c : CoreId) (w : Wait) : Word :=
  match c, w.prod with
  | .tile t _, some q => (getStrand s (.tile t q)).lastPc
  | _, _ => 0

/-- The counter of a wait has exceeded its bound. -/
def overBound (w : Wait) : Bool := w.bounded && decide (boundClocks w.code < w.count)

/-- The STALL trap of a core that has waited past its bound, with what it awaits when it traps. -/
def stallCheck (s : State) (c : CoreId) : State :=
  let st := getStrand s c
  match st.wait with
  | some w =>
    if st.run = .waiting ∧ overBound w then
      let y := (lookedWait s c w).getD w
      trapCore s c { cond := 21, d0 := stallDetail0 c y, d1 := stallDetail1 s c y }
    else s
  | none => s

/-- A look at a waiting word: it traps STALL past its bound, or it goes on, or waits on. -/
def lookWait (c : CoreId) (s : State) : Out :=
  match (getStrand s c).wait with
  | some w => if overBound w then .next (stallCheck s c) else markActed c (issueAny w.instr { s with cur := c })
  | none => .next s

/-- STALL (R75): a wait whose counter exceeds its bound. The clock itself takes it as soon as the counter does. -/
def execStall (core : CoreId) (s : State) : Out := .next (stallCheck s core)

/-! ### Pauses (R83, R318) -/

/-- PAUSE_END (R83). -/
def execPauseEnd (core : CoreId) (s : State) : Out :=
  match (getStrand s core).pause with
  | some (.yield till step) => if till ≤ s.cycle then .next (endYield s core step) else .next s
  | _ => .next s

/-- WFE_WAKE (R318): the latch, or bit 5 at the timeout. -/
def execWfeWake (core : CoreId) (s : State) : Out :=
  let st := getStrand s core
  match st.pause with
  | some (.wfe till f) =>
    if st.wake ≠ 0 then .next (retireWord (wfeFinish s core f.rb st.wake) core (.wfe f) (st.pc + 8))
    else if till.any (fun n => decide (n ≤ s.cycle)) then
      .next (retireWord (wfeFinish s core f.rb 32) core (.wfe f) (st.pc + 8))
    else .next s
  | _ => .next s

/-! ### Fetch (R71) -/

/-- The address of a word that a core needs and whose block is not in its cache: at its PC, or behind a REP that has not
begun. -/
def neededPc (s : State) (c : CoreId) : Option Nat :=
  let st := getStrand s c
  if st.run ≠ .running ∨ st.pause.isSome then none
  else
    match wordAt s c st.pc.toNat with
    | none => some st.pc.toNat
    | some w =>
      match decode w with
      | .ok (.rep _) =>
        if st.rep.any (fun r => r.word.isSome) ∨ (wordAt s c (st.pc.toNat + 8)).isSome then none else some (st.pc.toNat + 8)
      | _ => none

/-- FETCH_BLOCK_FILL (R71). -/
def execFetchBlockFill (core : CoreId) (s : State) : Out :=
  match neededPc s core with
  | some pc => .next (fillBlock s core pc)
  | none => .next s

/-! ### Grants and movements (R120, R123 to R128) -/

/-- Removes the request at a place in a tile's queue. -/
def dropAt (s : State) (tile n : Nat) : State := modTile s tile (fun x => { x with grants := x.grants.eraseIdx n })

/-- Changes the head of a tile's queue. -/
def modHead (s : State) (tile : Nat) (f : GrantReq → GrantReq) : State :=
  modTile s tile (fun x => { x with grants := x.grants.modify 0 f })

/-- The party of a request waits for it still; a background recall has none. -/
def grantLives (s : State) (r : GrantReq) : Bool :=
  match r.party with
  | some (.core c) => (waitingIn s c [.grant]).isSome
  | some (.command id) => (tabFind s.cmds id).any (fun c => !c.faulted && !c.held)
  | some (.loader id) => (tabFind s.launches id).any (·.load.isSome)
  | some (.boxLoader g) => (tabFind s.boxLoads g).isSome
  | some (.refetch t q) => runningOn s r.ctx t && (opQueue (getTile s t) q).lines.any (·.again)
  | some (.reload t sh) => runningOn s r.ctx t && ((getTile s t).mx.plane sh).pending
  | none => (tabFind s.ctxs r.ctx).isSome

/-- The word of a core that waits for a grant takes an answer. -/
def answerCore (s : State) (tile : Nat) (r : GrantReq) (c : CoreId) (trap : Option (Nat × Word × Word)) : Out :=
  if (waitingIn s c [.grant]).isNone then .next s
  else relook [.grant] c (modStrand s c (fun st => { st with granted := some ⟨tile, r.items, trap⟩ }))

/-- Nguka's request is answered. -/
def answerLaunch (s : State) (id : Nat) (ok : Bool) : State := modLaunch s id (fun l => { l with load := answerLoading l.load ok })

/-- The same, of a core program. -/
def answerBox (s : State) (g : Nat) (ok : Bool) : State :=
  match tabFind s.boxLoads g with
  | some b => { s with boxLoads := tabPut s.boxLoads g { b with load := { b.load with answer := some ok } } }
  | none => s

/-- A request traps: a strand at its word; a command ends ERR; Nguka refuses; a queue is POISONED; a plane stays unloaded; a
background recall is dropped (R116, R126, R136, R150, R176). -/
def grantTrap (s : State) (tile : Nat) (r : GrantReq) (t : TrapInfo) : Out :=
  match r.party with
  | some (.core c) => answerCore s tile r c (some (t.cond, t.d0, t.d1))
  | some (.command id) => .next (failCmd s id t.cond)
  | some (.loader id) => .next (answerLaunch s id false)
  | some (.boxLoader g) => .next (answerBox s g false)
  | some (.refetch k q) =>
    match firstOpen (opQueue (getTile s k) q) with
    | some (n, _) => .next (poisonAt s k q n t.cond)
    | none => .next s
  | some (.reload k sh) => .next (unloadPlane s k sh t.cond t.d0 t.d1)
  | none => .next s

/-- The grant of a command: its touches (R353), its pins, and SEGABSENT in its fault queue under absence tracing (R120, R310). -/
def grantCmd (s : State) (tile : Nat) (r : GrantReq) (id : Nat) : State :=
  match tabFind s.cmds id with
  | none => s
  | some c =>
    absNotice (modCmd (touchItems s c.ctx tile r.items) id (fun y => { y with pins := y.pins ++ pinsFor y tile r.items })) c r.recalled

/-- A request that has been granted has left the queue, and its party goes on; a strand's word traps SEGABSENT under absence
tracing, once the recall is complete (R120). -/
def grantNow (s : State) (tile : Nat) (r : GrantReq) : Out :=
  match r.party with
  | none => .next s
  | some (.command id) => .next (grantCmd s tile r id)
  | some (.core c) => answerCore s tile r c (if r.recalled && traceAbs s r.ctx then some (11, 0, 0) else none)
  | some (.loader id) => .next (answerLaunch s id true)
  | some (.boxLoader g) => .next (answerBox s g true)
  | some (.reload k sh) => .next (reloadPlane true r.ctx k sh s)
  | some (.refetch k q) =>
    match firstOpen (opQueue (getTile s k) q) with
    | some (n, l) => match refetchRef s k l with
      | .ok y => .next (refetchRead s k q n l y)
      | .error cond => .next (poisonAt s k q n cond)
    | none => .next s

/-- A queued request whose name has been freed, or whose new copy is there already: its party's own checks are made again,
with SEGNAME (R136). -/
def nameGone (s : State) (tile : Nat) (r : GrantReq) : Bool :=
  r.items.any (fun it =>
    if r.alloc then (copyOn s r.ctx it.1 tile).isSome || ((findSeg s r.ctx it.1).isSome && !isMaking s r it.1)
    else (copyOn s r.ctx it.1 tile).isNone)
where
  /-- The name is that of an SALLOC that has made some of its copies. -/
  isMaking (s : State) (r : GrantReq) (name : Nat) : Bool :=
    match r.party with
    | some (.core c) => (getStrand s c).making == some name
    | _ => false

/-- What becomes of such a request. -/
def grantGone (s : State) (tile : Nat) (r : GrantReq) : Out :=
  match r.party with
  | some (.core c) => if (waitingIn s c [.grant]).isSome then relook [.grant] c s else .next s
  | some (.loader _) | some (.boxLoader _) | none => .next s
  | some (.reload k sh) => .next (reloadPlane false r.ctx k sh s)
  | _ => grantTrap s tile r { cond := 9 }

/-- A lowered RESQUOTA has made a queued request impossible, which was possible under the one it was queued under and has not
been admitted (R112, R127). -/
def quotaLowered (s : State) (tile : Nat) (r : GrantReq) : Bool :=
  let q := resQuota s r.ctx tile
  let need := reqGran r.items + nopushGran s tile (some r.ctx) (r.items.map (·.1))
  r.terms.isNone && decide (q < r.quota) && decide (q < need) && decide (need ≤ r.quota)

/-- The head has been admitted: it completes under the quota and the floor in force now (R112). -/
def admitHead (s : State) (tile : Nat) (r : GrantReq) : State :=
  if r.terms.isSome then s
  else modHead s tile (fun y => { y with terms := some (resQuota s r.ctx tile, clientFloor s tile r.client) })

/-- The head of a tile's queue is examined. -/
def lookHead (s : State) (tile : Nat) (r : GrantReq) : Out :=
  let r1 := { r with recalled := r.recalled || (r.party.isSome && !r.alloc && touchesAbsent s r.ctx tile r.items) }
  let s1 := modHead s tile (fun y => { y with recalled := r1.recalled })
  match lookGrant s1 r1.ctx tile r1.client r1.items r1.terms r1.gathers with
  | .granted => grantNow (dropAt s1 tile 0) tile r1
  | .moved s2 | .recalling s2 => .next (admitHead s2 tile r1)
  | .slides _ => .next (modHead (admitHead s1 tile r1) tile (fun y => { y with gathers := true }))
  | .traps t => grantTrap (dropAt s1 tile 0) tile r1 t
  | .waits => .next s1

/-- GRANT (R126, R127): the head of a tile's queue is examined, from the clock after the one in which it joined. A queued
request that a lowered RESQUOTA has made impossible traps first. -/
def execGrant (tile : Nat) (s : State) : Out :=
  let gs := (getTile s tile).grants
  match gs.zipIdx.find? (fun e => quotaLowered s tile e.1) with
  | some (r, n) => grantTrap (dropAt s tile n) tile r (quotaTrap r.items 12 (resQuota s r.ctx tile))
  | none =>
    match gs with
    | [] => .next s
    | r :: _ =>
      if s.cycle ≤ r.since then .next s
      else if !grantLives s r then .next (dropAt s tile 0)
      else if nameGone s tile r then grantGone (dropAt s tile 0) tile r
      else lookHead s tile r

/-- Residency of a copy. -/
def resOf (s : State) (ctx name tile : Nat) : Option Residency :=
  (findSeg s ctx name).bind (fun g => (tabFind g.copies tile).map (·.res))

/-- PUSH (R123). -/
def execPush (tile ctx seg : Nat) (s : State) : Out :=
  if resOf s ctx seg tile = some .pushing then .next (endPush s ctx seg tile) else .next s

/-- RECALL (R123). -/
def execRecall (tile ctx seg : Nat) (s : State) : Out :=
  match findSeg s ctx seg with
  | some g => if resOf s ctx seg tile = some .recalling then .next (endRecall s ctx seg tile (granOf g.bytes)) else .next s
  | none => .next s

/-- The Shunter is at work: the head request finds enough free granules, but no run of them (R124). It gives the segment that
grows, if that is what the request is for. -/
def shunting (s : State) (tile : Nat) : Option (Option (Nat × Nat)) :=
  match (getTile s tile).grants with
  | [] => none
  | r :: _ =>
    if s.cycle ≤ r.since then none
    else match lookGrant s r.ctx tile r.client r.items r.terms r.gathers with
      | .slides own => some own
      | _ => none

/-- The segment that the Shunter slides next on a tile, with where it comes to rest. -/
def slideDue (s : State) (tile : Nat) : Option (Placed × Nat) := (shunting s tile).bind (nextSlide s tile)

/-- SHUNTER_MOVE (R124): one granule of a move: of the one under way, or the first of the next slide. -/
def execShunterMove (tile ctx seg : Nat) (s : State) : Out :=
  match resOf s ctx seg tile, findSeg s ctx seg with
  | some (.sliding dest moved), some g => .next (slideOn s ctx seg tile (granOf g.bytes) dest moved)
  | some _, some _ =>
    match slideDue s tile with
    | some (p, pos) =>
      if p.ctx = ctx ∧ p.name = seg then
        .next (slideOn (giveWay s tile ((shunting s tile).getD none) p pos) ctx seg tile p.gran pos 0)
      else .next s
    | none => .next s
  | _, _ => .next s

/-! ### Spills and refills (R167, R169) -/

/-- Cores that act from a tile and wait for a spill or a refill. -/
def accWaiters (s : State) (tile : Nat) : List CoreId :=
  (tileCores tile ++ (s.boxProgs.map (fun e => CoreId.sbox e.1)).filter (fun c => coreTile s c == tile)).filter
    (fun c => (waitingIn s c [.accRefill]).isSome)

/-- A word that waited for a refill goes on once it is complete, or traps SEGABSENT under absence tracing, with the progress
record (R167, R174); a core program is told of it in its fault queue and goes on (R310). -/
def refilled (s : State) (ctx : Nat) (c : CoreId) : Out :=
  if traceAbs s ctx && ctxNo s c == ctx then
    match c with
    | .sbox _ => relook [.accRefill] c (fqNotice s ctx (11 * 8 + 7) (coreTile s c) 0 (getStrand s c).wordPc.toNat 0 0)
    | .tile t _ =>
      let own := (waitingIn s c [.accRefill]).any (fun w => engineWord (governedIn s c w))
      .next (trapCore s c { cond := 11, engine := own,
                            d1 := if own then progressWord ((getTile s t).mx.park (isSup s c)).prog else 0 })
  else relook [.accRefill] c s

/-- Several of them. -/
def refilledAll (ctx : Nat) : List CoreId → State → Out
  | [], s => .next s
  | c :: cs, s =>
    match refilled s ctx c with
    | .next s1 => refilledAll ctx cs s1
    | o => o

/-- ACC_REFILL (R167): a refill ends, and the words that wait for it go on. -/
def execAccRefill (tile : Nat) (s : State) : Out :=
  match (accsOn s tile).find? (fun e => match e.2.2.loc with | .filling _ => true | _ => false) with
  | some (ctx, name, a) =>
    let s1 := endRefill s ctx tile name ((accSlot a).getD 0)
    refilledAll ctx (accWaiters s1 tile) s1
  | none => relookAll [.accRefill] (accWaiters s tile) s

/-- SLOT_SPILL (R169): a spill ends, and an entry may come back to a binding of the running context (R168). -/
def execSlotSpill (tile : Nat) (s : State) : Out :=
  match (accsOn s tile).find? (fun e => match e.2.2.loc with | .spilling _ => true | _ => false) with
  | some (ctx, name, _) =>
    let s1 := claimEntries (endSpill s ctx tile name) tile
    relookAll [.accRefill] (accWaiters s1 tile) s1
  | none => .next s

end Sys2Proof.Machine
end

