-- ==== Sys2Proof/Machine/Host.lean ====
section
/-! DEFINITION. What comes from outside a program: the host's accesses, errors, links, start-up and Fjoig's acts (R245,
R249, R320, R321, R323, R324, R327, R334, R335, R339). -/

namespace Sys2Proof.Machine

/-! ### The host's accesses (R245, R249, R323, R324) -/

/-- BAR0 offset of the counters of R337: ATOMRACE of slice k is 8 k further; MISROUTE, stale arrivals, corrected and
uncorrected errors follow from 0x200 on (log entry 66). -/
abbrev counterBase : Nat := 0x2000

/-- A cluster of the part, whose slice has a counter (R338). -/
def slicePresent (s : State) (k : Nat) : Bool := tilePresent s (4 * k)

/-- A counter of the COUNTERS record by its offset from the first; one of an absent slice reads 0 (R337, R338). -/
def counterWord (s : State) (off : Nat) : Option Word :=
  if off < 512 then some (if slicePresent s (off / 8) then tabGet 0 s.atomrace (off / 8) else 0)
  else
    match off with
    | 0x200 => some (BitVec.ofNat 64 s.misroute)
    | 0x208 => some (BitVec.ofNat 64 s.stale)
    | 0x210 => some (BitVec.ofNat 64 s.eccCorrected)
    | 0x218 => some (BitVec.ofNat 64 s.eccUncorrected)
    | _ => none

/-- A host write to a counter sets it; one of an absent slice ignores the write (R338, log entry 66). -/
def counterWrite (s : State) (off : Nat) (v : Word) : State :=
  if off < 512 then (if slicePresent s (off / 8) then { s with atomrace := tabSet 0 s.atomrace (off / 8) v } else s)
  else
    match off with
    | 0x200 => { s with misroute := v.toNat }
    | 0x208 => { s with stale := v.toNat }
    | 0x210 => { s with eccCorrected := v.toNat }
    | 0x218 => { s with eccUncorrected := v.toNat }
    | _ => s

/-- BAR0_WRITE (R324, R338): QTBASE, an address in HBM4E and a multiple of 64 KiB, any other value being discarded; or a
counter. No other register of BAR0 has a row of the spec. -/
def execBar0Write (off : Nat) (value : BitVec 64) (s : State) : Out :=
  if s.boot ≠ .up then .next s
  else if off = 0x100 then
    .next (if isHbm value.toNat ∧ value.toNat % 2 ^ 16 = 0 then { s with qtbase := value.toNat } else s)
  else if counterBase ≤ off ∧ off % 8 = 0 then .next (counterWrite s (off - counterBase) value)
  else .next s

/-! ### The capability list (R336, R337) -/

/-- Doublewords of a mask by bit number. -/
def maskWords (n : Nat) (bit : Nat → Bool) : List Word :=
  (List.range n).map (fun k => (List.range 64).foldl (fun w j => if bit (64 * k + j) then w ||| (1 <<< j) else w) (0 : Word))

/-- The LINKS record: the host's width and rate, each port's capacity with its state in bit 63, the fabric ports that are up,
and the capacities of the links in GB/s. -/
def linkWords (s : State) : List Word :=
  [BitVec.ofNat 64 (s.hostWidth + s.hostRate * 2 ^ 16)]
    ++ (List.range 4).map (fun p =>
        let x := tabGet Port.full s.ports p
        BitVec.ofNat 64 (x.bytes + if x.up then 2 ^ 63 else 0))
    ++ maskWords 1 (fun p => decide (p < 16) && !s.fabDown.contains p)
    ++ [BitVec.ofNat 64 (linkCaps s).host, BitVec.ofNat 64 (linkCaps s).tier2, BitVec.ofNat 64 (linkCaps s).fabric]

/-- The records that the part publishes, each an ID with its contents; the order of the contents is the model's (R337, log
entry 66). -/
def capRecords (s : State) : List (Nat × List Word) :=
  [(1, [Config.bar0Word 0, Config.bar0Word 1, BitVec.ofNat 64 (s.device % 2 ^ 19)]),
   (2, maskWords 4 (fun t => decide (t < 256) && tilePresent s t)),
   (3, [s.stackMask.zeroExtend 64, BitVec.ofNat 64 (Config.hbmBytes / 8)]),
   (4, linkWords s),
   (5, maskWords 4 (fun k => s.isaMask.getLsbD k)),
   (6, [BitVec.ofNat 64 counterBase, BitVec.ofNat 64 (counterBase + 0x200), BitVec.ofNat 64 (counterBase + 0x208),
        BitVec.ofNat 64 (counterBase + 0x210), BitVec.ofNat 64 (counterBase + 0x218)]),
   (7, [Config.bar0Word 2, Config.bar0Word 3])]

/-- First doubleword of a record: NEXT, LEN, VER 1 and ID (R336). -/
def capHeader (next len id : Nat) : Word := BitVec.ofNat 64 (next * 2 ^ 48 + len * 2 ^ 32 + 2 ^ 16 + id)

/-- Records from an offset on, each with the offset of the next; 0 ends the list (R336). -/
def capFrom : Nat → List (Nat × List Word) → List Word
  | _, [] => []
  | off, (id, body) :: rest =>
    let len := 8 * (body.length + 1)
    capHeader (if rest.isEmpty then 0 else off + len) len id :: body ++ capFrom (off + len) rest

/-- The capability list (R336). -/
def capList (s : State) : List Word := capFrom 0 (capRecords s)

/-- A doubleword of BAR0: QTBASE, the capability list from 0x1000 on, the counters (R324, R336, R337). -/
def bar0Get (s : State) (off : Nat) : Word :=
  if off = 0x100 then BitVec.ofNat 64 s.qtbase
  else if 0x1000 ≤ off ∧ off - 0x1000 < 8 * (capList s).length then (capList s).getD ((off - 0x1000) / 8) 0
  else if counterBase ≤ off then (counterWord s (off - counterBase)).getD (Config.bar0Word (8 + off))
  else Config.bar0Word (8 + off)

/-- The host reads doublewords of BAR0: all ones before the capability records are published (R334). -/
def readBar0 (s : State) (off n : Nat) : State :=
  match s.boot with
  | .up => { s with hostData := (List.range n).flatMap (fun k => leBytes 8 (bar0Get s (off / 8 * 8 + 8 * k)).toNat) }
  | .recovery | .waitHost => { s with hostData := List.replicate (8 * n) 0xFF }
  | .stopped => s

/-- A range of HBM4E that the host may reach over CXL.mem (R323). -/
def hostReaches (s : State) (pa n : Nat) : Bool :=
  decide (s.boot = .up) && decide (pa + n ≤ Config.hbmBytes) && (n == 0 || (laidOut s pa && laidOut s (pa + n - 1)))

/-- HOST_CXL_MEM_READ (R245). -/
def execHostCxlMemRead (pa len : Nat) (s : State) : Out :=
  if hostReaches s pa len then .next { s with hostData := paBytes s pa len } else .next s

/-- HOST_CXL_MEM_WRITE (R245). -/
def execHostCxlMemWrite (pa : Nat) (bytes : List (BitVec 8)) (s : State) : Out :=
  if hostReaches s pa bytes.length then .next (paWrite s pa bytes) else .next s

/-- HOST_ATOMIC (R249): one indivisible access, or one that the next device atomic on its word may run into. -/
def execHostAtomic (pa : Nat) (aop : BitVec 5) (width : BitVec 2) (a b : BitVec 64) (race : Bool) (s : State) : Out :=
  let n := szBytes width
  let h : HostAtomic := { pa := pa, bytes := n, op := aop.toNat, x := a.toNat % 2 ^ (8 * n), cmp := b.toNat % 2 ^ (8 * n) }
  if s.boot ≠ .up ∨ !(isHbm pa || isHostPa pa) ∨ !laidOut s pa ∨ pa % n ≠ 0 then .next s
  else if race ∧ s.hostRace.isNone then .next { s with hostRace := some h }
  else .next (hostAtomicDo s h)

/-! ### Errors (R320, R321) -/

/-- Adds a number to a list that has it once. -/
def insertOnce (l : List Nat) (n : Nat) : List Nat := if l.contains n then l else n :: l

/-- Marks a line of a queue. -/
def markLine (k : Nat) (q : Queue) : Queue :=
  { q with lines := q.lines.mapIdx (fun i l => if i = k then { l with bad := true } else l) }

/-- Stack groups' partitions with queues there: those of the contexts whose queues the group's Signal box monitors. -/
def groupParts (s : State) (g : Nat) : List Nat :=
  ((s.ctxs.filter (fun e => queueBox s e.2.block.queue.toNat == g)).map (fun e => e.2.block.part.toNat)).eraseDups

/-- Fjoig resets a Signal box: its core program is gone. -/
def resetBox (s : State) (g : Nat) : State :=
  let s1 := leaveGrants (leaveSems s (.sbox g)) (.sbox g)
  { s1 with boxes := tabDel s1.boxes g, boxProgs := tabDel s1.boxProgs g, boxLoads := tabDel s1.boxLoads g,
            boxIdle := tabDel s1.boxIdle g }

/-- An error of a shared structure of a stack group: the machine-check log, the Signal box and PRESET (R321). -/
def machineCheck (s : State) (cond g : Nat) : State :=
  let s1 := resetBox { s with mcLog := s.mcLog ++ [(cond, g)] } g
  (groupParts s1 g).foldl presetPart s1

/-- An uncorrectable error strikes: its sector is poisoned, or the parity of its row or line is wrong (R320). -/
def strike (s : State) : EccSite → State
  | .mem pa => if laidOut s pa then { s with poison := insertOnce s.poison (pa / 64) } else s
  | .seg ctx name tile k => modCopy s ctx name tile (fun c => { c with poison := insertOnce c.poison k })
  | .acc ctx name tile r =>
    modCtx s ctx (fun x => match tabFind x.accs (8 * tile + name % 8) with
      | some a => { x with accs := tabPut x.accs (8 * tile + name % 8) { a with bad := insertOnce a.bad r } }
      | none => x)
  | .mfile t k => modTile s t (fun x => { x with mBad := insertOnce x.mBad k })
  | .opq t q k => modTile s t (fun x => { x with qs := Vector.ofFn (fun i => if i.val = q then markLine k x.qs[i] else x.qs[i]) })
  | .drq t q k => modTile s t (fun x => { x with ds := Vector.ofFn (fun i => if i.val = q then markLine k x.ds[i] else x.ds[i]) })
  | .shared g => machineCheck s 47 g

/-- ECCUNC (R320). -/
def execEccunc (site : EccSite) (s : State) : Out := .next (strike { s with eccUncorrected := s.eccUncorrected + 1 } site)

/-- CORRECTED_ERROR (R320). -/
def execCorrectedError (s : State) : Out := .next { s with eccCorrected := s.eccCorrected + 1 }

/-- MACHINECHECK (R321). -/
def execMachinecheck (group : Nat) (s : State) : Out := if group < 8 then .next (machineCheck s 47 group) else .next s

/-- Clocks without a retired word that raise WATCHDOG. -/
abbrev watchdogClocks : Nat := 16777216

/-- WATCHDOG (R321): a running core program that has retired no word for the time while its heaps held ready packets. -/
def execWatchdog (group : Nat) (s : State) : Out :=
  if (tabFind s.boxProgs group).isSome ∧ watchdogClocks ≤ tabGet 0 s.boxIdle group then .next (machineCheck s 42 group)
  else .next s

/-! ### Links (R327) -/

/-- Changes a second-tier port. -/
def modPort (s : State) (p : Nat) (f : Port → Port) : State :=
  if p < 4 then { s with ports := tabPut s.ports p (f (tabGet Port.full s.ports p)) } else s

/-- LINKERR (R327): a port that is up fails at run time. -/
def execLinkerr (port : Nat) (s : State) : Out :=
  .next (modPort s port (fun p => if p.up then { p with up := false, failed := true } else p))

/-- The window of a port whose link has failed reads as unbacked, and its accesses end in LINKERR no more (R327, log entry
65). -/
def downWindow (s : State) (port : Nat) : State := modPort s port (fun p => if p.failed then { p with failed := false } else p)

/-- LINK_RETRAIN (R327, R338): the port is up again. -/
def execLinkRetrain (port : Nat) (s : State) : Out := .next (modPort s port (fun p => { p with up := true, failed := false }))

/-! ### Start-up and Fjoig (R334, R335, R338, R339) -/

/-- How far the part comes up. -/
def bootOf (p : PowerUp) : Boot := if !p.firmware then .recovery else if !p.host then .waitHost else .up

/-- Second-tier ports as they have trained. -/
def portsOf (s : State) (p : PowerUp) : Tab Port :=
  (List.range 4).map (fun k => (k, { bytes := (tabGet Port.full s.ports k).bytes, up := p.ports.getLsbD k, failed := false }))

/-- POWER_GOOD (R334): the state after reset on the part as it comes up. -/
def execPowerGood (part : PowerUp) (s : State) : Out :=
  .next { State.reset with
            clusters := part.clusters, stackMask := part.stackMask, device := part.device, boot := bootOf part,
            isaMask := part.isa, hostWidth := part.hostWidth, hostRate := part.hostRate,
            ports := portsOf s part, fabDown := (List.range 16).filter (fun k => !part.fabric.getLsbD k),
            schedule := s.schedule, cur := s.cur, fresh := s.fresh }

/-- HOST_LINK_RETRY (R334): the part that waits for its host link tries again. -/
def execHostLinkRetry (ok : Bool) (s : State) : Out :=
  if s.boot = .waitHost ∧ ok then .next { s with boot := .up } else .next s

/-- THERMAL_SHUTDOWN (R339). -/
def execThermalShutdown (s : State) : Out := .next { s with boot := .stopped }

/-- IDLE_CLOCK_INSERTION (R339): only throughput falls. -/
def execIdleClockInsertion (insert : Bool) (s : State) : Out := .next { s with idleClocks := insert }

/-- GET_MEASUREMENTS (R335): the host is answered with the eight measurements of 48 bytes. -/
def execGetMeasurements (s : State) : Out :=
  if s.boot = .up then
    .next { s with hostData := (List.range 48).flatMap (fun k => leBytes 8 (Config.measurement k).toNat) }
  else .next s

end Sys2Proof.Machine
end

