-- ==== Sys2Proof/Machine/Dispatch.lean ====
section
/-! DEFINITION. The dispatch: one arm for each row of the opcode table, each a direct call of its meaning. -/

namespace Sys2Proof.Machine

def exec (i : Instr) (s : State) : Host.Outcome State Fault Refusal :=
  match i with
  | .zeroword => Sys2Proof.Machine.execZeroword s
  | .illop w => Sys2Proof.Machine.execIllop w s
  | .nop f => Sys2Proof.Machine.execNop f s
  | .br f => Sys2Proof.Machine.execBr f s
  | .bcc f => Sys2Proof.Machine.execBcc f s
  | .bcall f => Sys2Proof.Machine.execBcall f s
  | .jr f => Sys2Proof.Machine.execJr f s
  | .jrl f => Sys2Proof.Machine.execJrl f s
  | .loop f => Sys2Proof.Machine.execLoop f s
  | .rep f => Sys2Proof.Machine.execRep f s
  | .fork f => Sys2Proof.Machine.execFork f s
  | .rdv f => Sys2Proof.Machine.execRdv f s
  | .rdvJoin tile => Sys2Proof.Machine.execRdvJoin tile s
  | .endTask f => Sys2Proof.Machine.execEndTask f s
  | .taskRetire tile => Sys2Proof.Machine.execTaskRetire tile s
  | .yield f => Sys2Proof.Machine.execYield f s
  | .pauseEnd core => Sys2Proof.Machine.execPauseEnd core s
  | .tkgive f => Sys2Proof.Machine.execTkgive f s
  | .tktake f => Sys2Proof.Machine.execTktake f s
  | .tkcnt f => Sys2Proof.Machine.execTkcnt f s
  | .couplingTake core => Sys2Proof.Machine.execCouplingTake core s
  | .stall core => Sys2Proof.Machine.execStall core s
  | .add f => Sys2Proof.Machine.execAdd f s
  | .sub f => Sys2Proof.Machine.execSub f s
  | .mul f => Sys2Proof.Machine.execMul f s
  | .mulh f => Sys2Proof.Machine.execMulh f s
  | .div f => Sys2Proof.Machine.execDiv f s
  | .rem f => Sys2Proof.Machine.execRem f s
  | .and f => Sys2Proof.Machine.execAnd f s
  | .or f => Sys2Proof.Machine.execOr f s
  | .xor f => Sys2Proof.Machine.execXor f s
  | .shl f => Sys2Proof.Machine.execShl f s
  | .shr f => Sys2Proof.Machine.execShr f s
  | .sar f => Sys2Proof.Machine.execSar f s
  | .min f => Sys2Proof.Machine.execMin f s
  | .max f => Sys2Proof.Machine.execMax f s
  | .setcc f => Sys2Proof.Machine.execSetcc f s
  | .sel f => Sys2Proof.Machine.execSel f s
  | .addi f => Sys2Proof.Machine.execAddi f s
  | .andi f => Sys2Proof.Machine.execAndi f s
  | .ori f => Sys2Proof.Machine.execOri f s
  | .xori f => Sys2Proof.Machine.execXori f s
  | .shli f => Sys2Proof.Machine.execShli f s
  | .shri f => Sys2Proof.Machine.execShri f s
  | .sari f => Sys2Proof.Machine.execSari f s
  | .setcci f => Sys2Proof.Machine.execSetcci f s
  | .limm f => Sys2Proof.Machine.execLimm f s
  | .limmh f => Sys2Proof.Machine.execLimmh f s
  | .clz f => Sys2Proof.Machine.execClz f s
  | .popc f => Sys2Proof.Machine.execPopc f s
  | .amake f => Sys2Proof.Machine.execAmake f s
  | .aoff f => Sys2Proof.Machine.execAoff f s
  | .aoffi f => Sys2Proof.Machine.execAoffi f s
  | .agets f => Sys2Proof.Machine.execAgets f s
  | .ageto f => Sys2Proof.Machine.execAgeto f s
  | .csrr f => Sys2Proof.Machine.execCsrr f s
  | .csrw f => Sys2Proof.Machine.execCsrw f s
  | .csrset f => Sys2Proof.Machine.execCsrset f s
  | .csrclr f => Sys2Proof.Machine.execCsrclr f s
  | .ld f => Sys2Proof.Machine.execLd f s
  | .st f => Sys2Proof.Machine.execSt f s
  | .ldl f => Sys2Proof.Machine.execLdl f s
  | .stl f => Sys2Proof.Machine.execStl f s
  | .scopy f => Sys2Proof.Machine.execScopy f s
  | .szero f => Sys2Proof.Machine.execSzero f s
  | .salloc f => Sys2Proof.Machine.execSalloc f s
  | .sfree f => Sys2Proof.Machine.execSfree f s
  | .sgrow f => Sys2Proof.Machine.execSgrow f s
  | .sattr f => Sys2Proof.Machine.execSattr f s
  | .squery f => Sys2Proof.Machine.execSquery f s
  | .srecall f => Sys2Proof.Machine.execSrecall f s
  | .spush f => Sys2Proof.Machine.execSpush f s
  | .segmentWaitEnd core => Sys2Proof.Machine.execSegmentWaitEnd core s
  | .grant tile => Sys2Proof.Machine.execGrant tile s
  | .push tile ctx seg => Sys2Proof.Machine.execPush tile ctx seg s
  | .recallMove tile ctx seg => Sys2Proof.Machine.execRecall tile ctx seg s
  | .shunterMove tile ctx seg => Sys2Proof.Machine.execShunterMove tile ctx seg s
  | .qrd f => Sys2Proof.Machine.execQrd f s
  | .qrdLineIssue tile => Sys2Proof.Machine.execQrdLineIssue tile s
  | .qrdLineFill tile q => Sys2Proof.Machine.execQrdLineFill tile q s
  | .qwr f => Sys2Proof.Machine.execQwr f s
  | .qwrLineWrite tile => Sys2Proof.Machine.execQwrLineWrite tile s
  | .qcnt f => Sys2Proof.Machine.execQcnt f s
  | .lineOperandsReady tile => Sys2Proof.Machine.execLineOperandsReady tile s
  | .movl f => Sys2Proof.Machine.execMovl f s
  | .bcast f => Sys2Proof.Machine.execBcast f s
  | .extr f => Sys2Proof.Machine.execExtr f s
  | .ins f => Sys2Proof.Machine.execIns f s
  | .limml f => Sys2Proof.Machine.execLimml f s
  | .fadd f => Sys2Proof.Machine.execFadd f s
  | .fsub f => Sys2Proof.Machine.execFsub f s
  | .fmul f => Sys2Proof.Machine.execFmul f s
  | .fma f => Sys2Proof.Machine.execFma f s
  | .fmax f => Sys2Proof.Machine.execFmax f s
  | .fmin f => Sys2Proof.Machine.execFmin f s
  | .fabs f => Sys2Proof.Machine.execFabs f s
  | .fneg f => Sys2Proof.Machine.execFneg f s
  | .fexp2 f => Sys2Proof.Machine.execFexp2 f s
  | .flog2 f => Sys2Proof.Machine.execFlog2 f s
  | .frcp f => Sys2Proof.Machine.execFrcp f s
  | .frsq f => Sys2Proof.Machine.execFrsq f s
  | .fcvt f => Sys2Proof.Machine.execFcvt f s
  | .fscale f => Sys2Proof.Machine.execFscale f s
  | .iadd f => Sys2Proof.Machine.execIadd f s
  | .isub f => Sys2Proof.Machine.execIsub f s
  | .imul f => Sys2Proof.Machine.execImul f s
  | .imad f => Sys2Proof.Machine.execImad f s
  | .iand f => Sys2Proof.Machine.execIand f s
  | .ior f => Sys2Proof.Machine.execIor f s
  | .ixor f => Sys2Proof.Machine.execIxor f s
  | .ishl f => Sys2Proof.Machine.execIshl f s
  | .ishr f => Sys2Proof.Machine.execIshr f s
  | .imin f => Sys2Proof.Machine.execImin f s
  | .imax f => Sys2Proof.Machine.execImax f s
  | .fcmp f => Sys2Proof.Machine.execFcmp f s
  | .icmp f => Sys2Proof.Machine.execIcmp f s
  | .pset f => Sys2Proof.Machine.execPset f s
  | .psel f => Sys2Proof.Machine.execPsel f s
  | .redsum f => Sys2Proof.Machine.execRedsum f s
  | .redmax f => Sys2Proof.Machine.execRedmax f s
  | .redmin f => Sys2Proof.Machine.execRedmin f s
  | .scanadd f => Sys2Proof.Machine.execScanadd f s
  | .perm f => Sys2Proof.Machine.execPerm f s
  | .bppack f => Sys2Proof.Machine.execBppack f s
  | .bpunp f => Sys2Proof.Machine.execBpunp f s
  | .osminit f => Sys2Proof.Machine.execOsminit f s
  | .osmx f => Sys2Proof.Machine.execOsmx f s
  | .mldw f => Sys2Proof.Machine.execMldw f s
  | .mswap f => Sys2Proof.Machine.execMswap f s
  | .mstream f => Sys2Proof.Machine.execMstream f s
  | .mrank1 f => Sys2Proof.Machine.execMrank1 f s
  | .acczero f => Sys2Proof.Machine.execAcczero f s
  | .accrd f => Sys2Proof.Machine.execAccrd f s
  | .accwr f => Sys2Proof.Machine.execAccwr f s
  | .accpin f => Sys2Proof.Machine.execAccpin f s
  | .accunpin f => Sys2Proof.Machine.execAccunpin f s
  | .accspill f => Sys2Proof.Machine.execAccspill f s
  | .accspillOther f => Sys2Proof.Machine.execAccspillOther f s
  | .accfill f => Sys2Proof.Machine.execAccfill f s
  | .accfillOther f => Sys2Proof.Machine.execAccfillOther f s
  | .accRefill tile => Sys2Proof.Machine.execAccRefill tile s
  | .gdelta f => Sys2Proof.Machine.execGdelta f s
  | .gdread f => Sys2Proof.Machine.execGdread f s
  | .ecmd f => Sys2Proof.Machine.execEcmd f s
  | .queueSpaceWaitEnd core => Sys2Proof.Machine.execQueueSpaceWaitEnd core s
  | .ewait f => Sys2Proof.Machine.execEwait f s
  | .ewaitComplete core => Sys2Proof.Machine.execEwaitComplete core s
  | .epoll f => Sys2Proof.Machine.execEpoll f s
  | .elink f => Sys2Proof.Machine.execElink f s
  | .ekick f => Sys2Proof.Machine.execEkick f s
  | .eqstat f => Sys2Proof.Machine.execEqstat f s
  | .spawnSeg f => Sys2Proof.Machine.execSpawnSeg f s
  | .spawnVa f => Sys2Proof.Machine.execSpawnVa f s
  | .withdraw f => Sys2Proof.Machine.execWithdraw f s
  | .ttread f => Sys2Proof.Machine.execTtread f s
  | .skewack f => Sys2Proof.Machine.execSkewack f s
  | .ldg f => Sys2Proof.Machine.execLdg f s
  | .stg f => Sys2Proof.Machine.execStg f s
  | .atg f => Sys2Proof.Machine.execAtg f s
  | .relOrderWaitEnd core => Sys2Proof.Machine.execRelOrderWaitEnd core s
  | .prefg f => Sys2Proof.Machine.execPrefg f s
  | .fence f => Sys2Proof.Machine.execFence f s
  | .fenceComplete core => Sys2Proof.Machine.execFenceComplete core s
  | .parkedFaultAdmit => Sys2Proof.Machine.execParkedFaultAdmit s
  | .faultEntryPost ctx => Sys2Proof.Machine.execFaultEntryPost ctx s
  | .respRetry ctx seq => Sys2Proof.Machine.execRespRetry ctx seq s
  | .respAbort ctx seq => Sys2Proof.Machine.execRespAbort ctx seq s
  | .atl f => Sys2Proof.Machine.execAtl f s
  | .sempost f => Sys2Proof.Machine.execSempost f s
  | .semwait f => Sys2Proof.Machine.execSemwait f s
  | .semwaitGrant group sem => Sys2Proof.Machine.execSemwaitGrant group sem s
  | .semtry f => Sys2Proof.Machine.execSemtry f s
  | .acqbufP f => Sys2Proof.Machine.execAcqbufP f s
  | .acqbufC f => Sys2Proof.Machine.execAcqbufC f s
  | .acqbufGrant core => Sys2Proof.Machine.execAcqbufGrant core s
  | .relbufP f => Sys2Proof.Machine.execRelbufP f s
  | .relbufC f => Sys2Proof.Machine.execRelbufC f s
  | .relbufSet f => Sys2Proof.Machine.execRelbufSet f s
  | .ringwait f => Sys2Proof.Machine.execRingwait f s
  | .ringwaitRelease ctx ctr => Sys2Proof.Machine.execRingwaitRelease ctx ctr s
  | .ringpost f => Sys2Proof.Machine.execRingpost f s
  | .bar f => Sys2Proof.Machine.execBar f s
  | .barComplete core => Sys2Proof.Machine.execBarComplete core s
  | .agset f => Sys2Proof.Machine.execAgset f s
  | .agget f => Sys2Proof.Machine.execAgget f s
  | .slres f => Sys2Proof.Machine.execSlres f s
  | .trap f => Sys2Proof.Machine.execTrap f s
  | .eret f => Sys2Proof.Machine.execEret f s
  | .heldErrorTake core => Sys2Proof.Machine.execHeldErrorTake core s
  | .engineErrorTrap core => Sys2Proof.Machine.execEngineErrorTrap core s
  | .wfe f => Sys2Proof.Machine.execWfe f s
  | .wfeWake core => Sys2Proof.Machine.execWfeWake core s
  | .tlbinvVa f => Sys2Proof.Machine.execTlbinvVa f s
  | .tlbinvCtx f => Sys2Proof.Machine.execTlbinvCtx f s
  | .tlbinvAll f => Sys2Proof.Machine.execTlbinvAll f s
  | .preemptK f => Sys2Proof.Machine.execPreemptK f s
  | .preemptR f => Sys2Proof.Machine.execPreemptR f s
  | .preemptREffect tile => Sys2Proof.Machine.execPreemptREffect tile s
  | .preemptRFallback tile => Sys2Proof.Machine.execPreemptRFallback tile s
  | .taskSave tile => Sys2Proof.Machine.execTaskSave tile s
  | .taskResume group => Sys2Proof.Machine.execTaskResume group s
  | .qkill f => Sys2Proof.Machine.execQkill f s
  | .preset f => Sys2Proof.Machine.execPreset f s
  | .semmapMap f => Sys2Proof.Machine.execSemmapMap f s
  | .semmapUnmap f => Sys2Proof.Machine.execSemmapUnmap f s
  | .partsetDef f => Sys2Proof.Machine.execPartsetDef f s
  | .partsetDel f => Sys2Proof.Machine.execPartsetDel f s
  | .partsetVfquota f => Sys2Proof.Machine.execPartsetVfquota f s
  | .partsetVfused f => Sys2Proof.Machine.execPartsetVfused f s
  | .ctxldLoad f => Sys2Proof.Machine.execCtxldLoad f s
  | .ctxldDestroy f => Sys2Proof.Machine.execCtxldDestroy f s
  | .ctxldHold f => Sys2Proof.Machine.execCtxldHold f s
  | .ctxldRelease f => Sys2Proof.Machine.execCtxldRelease f s
  | .dbgscanOut f => Sys2Proof.Machine.execDbgscanOut f s
  | .dbgscanIn f => Sys2Proof.Machine.execDbgscanIn f s
  | .dbgscanRun f => Sys2Proof.Machine.execDbgscanRun f s
  | .pool f => Sys2Proof.Machine.execPool f s
  | .fetchBlockFill core => Sys2Proof.Machine.execFetchBlockFill core s
  | .commandDispatch cmd engine => Sys2Proof.Machine.execCommandDispatch cmd engine s
  | .commandRetire cmd => Sys2Proof.Machine.execCommandRetire cmd s
  | .withdrawnStop cmd => Sys2Proof.Machine.execWithdrawnStop cmd s
  | .chainEntryFetch cmd => Sys2Proof.Machine.execChainEntryFetch cmd s
  | .copy cmd => Sys2Proof.Machine.execCopy cmd s
  | .mcast cmd => Sys2Proof.Machine.execMcast cmd s
  | .gather cmd => Sys2Proof.Machine.execGather cmd s
  | .fill cmd => Sys2Proof.Machine.execFill cmd s
  | .fencerec cmd => Sys2Proof.Machine.execFencerec cmd s
  | .mattask cmd => Sys2Proof.Machine.execMattask cmd s
  | .select cmd => Sys2Proof.Machine.execSelect cmd s
  | .topk cmd => Sys2Proof.Machine.execTopk cmd s
  | .attnpart cmd => Sys2Proof.Machine.execAttnpart cmd s
  | .collective cmd => Sys2Proof.Machine.execCollective cmd s
  | .tailWrite queue => Sys2Proof.Machine.execTailWrite queue s
  | .packetRead queue => Sys2Proof.Machine.execPacketRead queue s
  | .ngukaLaunchCheck launch base => Sys2Proof.Machine.execNgukaLaunchCheck launch base s
  | .dispatch group => Sys2Proof.Machine.execDispatch group s
  | .lapEntry launch => Sys2Proof.Machine.execLapEntry launch s
  | .launchCompletion launch => Sys2Proof.Machine.execLaunchCompletion launch s
  | .queueEnable queue => Sys2Proof.Machine.execQueueEnable queue s
  | .tier3Promotion group => Sys2Proof.Machine.execTier3Promotion group s
  | .slotSpill tile => Sys2Proof.Machine.execSlotSpill tile s
  | .bar0Write off value => Sys2Proof.Machine.execBar0Write off value s
  | .hostCxlMemRead pa len => Sys2Proof.Machine.execHostCxlMemRead pa len s
  | .hostCxlMemWrite pa bytes => Sys2Proof.Machine.execHostCxlMemWrite pa bytes s
  | .hostAtomic pa aop width a b race => Sys2Proof.Machine.execHostAtomic pa aop width a b race s
  | .vfDisable => Sys2Proof.Machine.execVfDisable s
  | .vfEnable => Sys2Proof.Machine.execVfEnable s
  | .periodStart => Sys2Proof.Machine.execPeriodStart s
  | .shareWindow => Sys2Proof.Machine.execShareWindow s
  | .fabricArrival queue device gen inst => Sys2Proof.Machine.execFabricArrival queue device gen inst s
  | .flitReceive port flit => Sys2Proof.Machine.execFlitReceive port flit s
  | .fabricPortDown port => Sys2Proof.Machine.execFabricPortDown port s
  | .linkerr port => Sys2Proof.Machine.execLinkerr port s
  | .linkRetrain port => Sys2Proof.Machine.execLinkRetrain port s
  | .eccunc site => Sys2Proof.Machine.execEccunc site s
  | .machinecheck group => Sys2Proof.Machine.execMachinecheck group s
  | .watchdog group => Sys2Proof.Machine.execWatchdog group s
  | .powerGood part => Sys2Proof.Machine.execPowerGood part s
  | .hostLinkRetry ok => Sys2Proof.Machine.execHostLinkRetry ok s
  | .thermalShutdown => Sys2Proof.Machine.execThermalShutdown s
  | .getMeasurements => Sys2Proof.Machine.execGetMeasurements s
  | .coreProgramStart group prog => Sys2Proof.Machine.execCoreProgramStart group prog s
  | .correctedError => Sys2Proof.Machine.execCorrectedError s
  | .idleClockInsertion insert => Sys2Proof.Machine.execIdleClockInsertion insert s

end Sys2Proof.Machine
end

