-- ==== Sys2Proof/Machine/Clock.lean ====
section
/-! DEFINITION. What passes with the clock: CYCLE, stall counters and the cases that suspend them, lease counts, and the accounting of
tile-clocks (R74, R108, R110, R149, R202, R291, R293, R314, R322). -/

namespace Sys2Proof.Machine

/-! ### Suspension of stall counters (R74, R314) -/

/-- A strand that others may wait on is PARKED or runs its trap handler. -/
def heldUp (st : Strand) : Bool := st.run == .parked || st.mode == .supervisor

/-- A command is parked. -/
def cmdParked (c : Cmd) : Bool := c.state == .parked || c.faulted || c.held

/-- A command's retirement sets a flag that an EWAIT awaits and does not find. -/
def setsAwaited (s : State) (c : CoreId) (w : Wait) (x : Cmd) : Bool :=
  match governedIn s c w, c with
  | .ewait f, .tile t _ => (cmdSignal x.raw &&& awaitedFlags (getStrand s c) f &&& ~~~ (getTile s t).flags) != 0
  | _, _ => false

/-- A pool command of the pool of a core's cluster; any other command counts too. -/
def ownPool (s : State) (c : CoreId) (x : Cmd) : Bool :=
  match x.queue with
  | .pool cl => cl == coreTile s c / 4
  | _ => true

/-- A command's retirement posts to a ring-slot counter of a context (R199). -/
def postsRing (ctx r : Nat) (x : Cmd) : Bool :=
  x.ctx == ctx && hasEntry x && cmdRpost x.raw && ringKind x.raw && rawField x.raw 113 0 8 == r

/-- Commands that would end a wait. -/
def awaitedCmds (s : State) (c : CoreId) (w : Wait) : List (Nat × Cmd) :=
  match w.what, c with
  | .relOrder, _ | .fence, _ => coreCmds s c
  | .taskEnd, .sbox _ => coreCmds s c
  | .taskEnd, .tile t _ => ((getTile s t).task.map (taskCmds s t)).getD []
  | .ewait, .tile t _ => (((getTile s t).task.map (taskCmds s t)).getD []).filter (fun e => setsAwaited s c w e.2)
  | .engineSpace, _ => if w.kind = 9 then s.cmds.filter (fun e => engineName e.2.queue == w.name.toNat && ownPool s c e.2) else []
  | .ringSlot, _ => s.cmds.filter (fun e => postsRing (ctxNo s c) w.name.toNat e.2)
  | .frozen, .tile t _ => s.cmds.filter (fun e => e.2.engine == 0x800 + t && cmdKind e.2.raw == 0x10)
  | .segment, _ => s.cmds.filter (fun e => e.2.ctx == ctxNo s c && e.2.names.contains w.name.toNat)
  | _, _ => []

/-- The task of a timetable entry is held up: its C strand, or the task saved. -/
def entryHeld (s : State) (id : Nat) (e : Nat × Nat) : Bool :=
  let x := getTile s e.2
  if x.task.any (fun k => k.launch == id && k.index == some e.1) then heldUp (x.strand 0)
  else s.saves.any (fun y => y.2.task.launch == id && y.2.task.index == some e.1)

/-- A participant of a barrier that has not arrived is held up. -/
def barrierHeld (s : State) (t scope : Nat) : Bool :=
  let x := getTile s t
  if scope = 0 then x.strands.toList.any (fun st => st.run != .idle && st.run != .arrived && !atTileBarrier st && heldUp st)
  else
    match x.task with
    | some k =>
      match tabFind s.launches k.launch with
      | some l =>
        let sc := barScope l scope
        (barTasks l sc t).any (fun e => !atBarrier s k.launch l sc e.1 e.2 && entryHeld s k.launch e)
      | none => false
    | none => false

/-- The stall counter of a wait is suspended. -/
def suspended (s : State) (c : CoreId) (w : Wait) : Bool :=
  (awaitedCmds s c w).any (fun e => cmdParked e.2) ||
    (match c with
     | .sbox _ => false
     | .tile t q =>
       let x := getTile s t
       preempted s t || (q % 4 == 2 && x.mx.frozen) ||
         w.prod.any (fun p => heldUp (x.strand p)) ||
         (w.what == .rdvJoin && (notArrived x).any (fun p => heldUp (x.strand p))) ||
         (w.what == .lineOperands && w.kind == 2 && (opQueue x w.name.toNat).state == .parked) ||
         (w.what == .barrier && barrierHeld s t w.name.toNat))

/-- What the waiting word of a core waits for is not there: the word, looked at now, goes on waiting for it. A word that has
it and waits for something else has a fresh counter from its next look on (R74). -/
def stillUnmet (s : State) (c : CoreId) (w : Wait) : Bool := (lookedWait s c w).isSome

/-- A core's stall counter after `n` clocks of a wait that is not satisfied. It stops one past its bound, where STALL is
taken (R75). -/
def countOn (s : State) (n : Nat) (c : CoreId) (st : Strand) : Strand :=
  match st.wait with
  | some w =>
    if st.run = .waiting ∧ w.bounded ∧ !suspended s c w ∧ stillUnmet s c w then
      { st with wait := some { w with count := min (w.count + n) (boundClocks w.code + 1) } }
    else st
  | none => st

/-- Every core. -/
def allCores (s : State) : List CoreId := s.tiles.flatMap (fun e => tileCores e.1) ++ s.boxes.map (fun e => CoreId.sbox e.1)

/-- The strands whose counters have exceeded their bounds trap STALL in that clock (R75). -/
def stallAll (s : State) : State := (allCores s).foldl stallCheck s

/-! ### Tile-clocks (R291, R293) -/

/-- Tiles on which tasks run. -/
def busyTiles (s : State) : List (Nat × Task) := s.tiles.filterMap (fun e => e.2.task.map (fun k => (e.1, k)))

/-- Tasks of a partition, its children's included where it is a top-level one. -/
def partTasks (s : State) (p : Nat) : Nat :=
  ((busyTiles s).filter (fun e => (tabFind s.ctxs e.2.ctx).any (fun x => inPart p x.block))).length

/-- Tier-3 tasks of a stack group. -/
def tier3Tasks (s : State) (g : Nat) : Nat := ((busyTiles s).filter (fun e => e.1 / 32 == g && e.2.tier == 3)).length

/-- Clocks that count for the period or the window that runs at the end of a passing of `n` clocks: all of them, or those
since it began. -/
def sinceStart (cycle n start len : Nat) : Nat := if start + len ≤ cycle + n then (cycle + n) % len else n

/-- `n` clocks of accounting, with a new period or window where one begins (R291, R293). -/
def accountOn (s : State) (n : Nat) : State :=
  let s1 := newWindow (newPeriod { s with cycle := s.cycle + n })
  let used := sinceStart s.cycle n s.periodStart 1048576
  let share := sinceStart s.cycle n s.shareStart 2100000
  { s1 with
    parts := s1.parts.map (fun e => (e.1, { e.2 with used := e.2.used + used * partTasks s e.1 }))
    shareUsed := (List.range 8).foldl (fun t g => tabSet 0 t g (tabGet 0 t g + share * tier3Tasks s g)) s1.shareUsed }

/-! ### Ready packets (R293, R321, R364) -/

/-- The queue holds a ready tier-3 packet. -/
def holdsReady (s : State) (q : Nat) : Bool :=
  s.heap.any (fun e => e.2.queue == q && e.2.tier == 3 && mayStart s e.2)

/-- Clocks that a queue's ready tier-3 packets have waited: they run while a packet is ready, and begin again when the
queue has none in a heap (R293, R364). -/
def waitedOn (s : State) (n q : Nat) (h : HwQueue) : HwQueue :=
  if holdsReady s q then { h with waited := h.waited + n }
  else if s.heap.any (fun e => e.2.queue == q && e.2.tier == 3) then h
  else { h with waited := 0 }

/-- Clocks in which a core program has retired no word while its heaps held packets (R321). -/
def idleOn (s : State) (n : Nat) : Tab Nat :=
  s.boxProgs.foldl (fun t e =>
    tabSet 0 t e.1 (if s.heap.any (fun y => y.2.group == e.1) then tabGet 0 t e.1 + n else 0)) s.boxIdle

/-! ### Leases (R110) -/

/-- Lease counts that one passing of clocks adds to: those of 256 tiles and of 64 slices. -/
abbrev leaseCounts : Nat := 320

/-- LEASEREN of every slice after clocks have passed: renewals are timing, so what they add is free (R110, log entry 6). -/
def renewalsOn (s : State) : Tab Word :=
  (List.range 64).foldl (fun t k => tabSet 0 t k (tabGet 0 t k + Config.freeWord (s.fresh + 256 + k))) s.leaseren

/-- A tile in a new clock: what was given or set in the clock before may be taken or cleared (R73, R193). -/
def Tile.newClock (x : Tile) : Tile := { x with given := [], setNow := 0, wasSet := 0, wasSettle := [] }

/-- A semaphore in a new clock: what was posted in the clock before may be taken (R258). -/
def Sem.newClock (x : Sem) : Sem := { x with posted := 0, taken := false }

/-- A new clock: each core may issue again (R70). -/
def newClock (s : State) : State :=
  { s with tiles := s.tiles.map (fun e => (e.1, e.2.newClock)),
           sems := (s.sems.map (fun e => (e.1, e.2.newClock))).filter (fun e => e.2 != Sem.zero), acted := [] }

/-- A pre-emption that has not taken effect, after `n` clocks: those for which X waits for operands count (R178). -/
def preemptOn (n : Nat) (x : Tile) : Option Preempt :=
  x.preempt.map (fun p =>
    if !p.effect ∧ (x.strand 2).run = .waiting ∧ (x.strand 2).wait.any (fun w => w.what == .lineOperands) then
      { p with operands := p.operands + n }
    else p)

/-- A tile after `n` clocks: stall counters have run, and LEASESTALL has grown by a free amount (log entry 6). -/
def tileOn (s : State) (n t : Nat) (x : Tile) : Tile :=
  { x with
    strands := Vector.ofFn (fun q => countOn s n (.tile t q.val) x.strands[q])
    preempt := preemptOn n x
    leasestall := x.leasestall + Config.freeWord (s.fresh + t % 256) }

/-- `n` clocks pass: stall counters run and STALL is taken where one exceeds its bound (R75), LEASEREN grows by free amounts (log entry 6), the clocks are accounted, and the parties of responses act, one per
clock (R356). -/
def tick (s0 : State) (n : Nat) : State :=
  let s := newClock s0
  let s1 := { s with
    tiles := s.tiles.map (fun e => (e.1, tileOn s n e.1 e.2))
    boxes := s.boxes.map (fun e => (e.1, countOn s n (.sbox e.1) e.2))
    hwqs := s.hwqs.map (fun e => (e.1, waitedOn s n e.1 e.2))
    boxIdle := idleOn s n
    leaseren := renewalsOn s
    fresh := s.fresh + leaseCounts }
  answerSome n (stallAll (accountOn s1 n))

end Sys2Proof.Machine
end

