-- ==== Sys2Proof/Machine/Sched.lean ====
section
/-! DEFINITION. A turn of a core, and the turns the device takes when its schedule names none (R41, R69, R70, R177;
log entry 4). -/

namespace Sys2Proof.Machine

/-! ### The turn of a core -/

/-- A handler's first word is there (R313). -/
def entered (s : State) (c : CoreId) : State :=
  if (getStrand s c).entering then modStrand s c (fun st => { st with entering := false }) else s

/-- The word at a core's PC: its block is filled first, a word with a bad field traps, and any other is executed
(R41). -/
def issueNext (ex : Instr → State → Out) (c : CoreId) (s : State) : Out :=
  match wordAt s c (getStrand s c).pc.toNat with
  | none => .next (fillBlock s c (getStrand s c).pc.toNat)
  | some w =>
    let s := entered s c
    match decode w with
    | .error (.badField i) =>
      let s1 := dropRep (judge s c i) c i
      .next (trapCore s1 c { cond := rejectTrap s1 c i })
    | .ok i => markActed c (ex i { s with cur := c })

/-- A pause is looked at. -/
def lookPause (c : CoreId) (s : State) : Out :=
  match (getStrand s c).pause with
  | some (.yield _ _) => execPauseEnd c s
  | some (.wfe _ _) => execWfeWake c s
  | none => .next s

/-- A core's turn. A core that has issued or trapped in this clock does nothing more in it (R70, R314); a word in progress goes on before
anything else is taken. -/
def coreTurn (ex : Instr → State → Out) (c : CoreId) (s : State) : Out :=
  if s.boot ≠ .up ∨ preemptHolds s c ∨ c ∈ s.acted then .next s
  else if (getStrand s c).run = .running ∧ (getStrand s c).pause.isSome then lookPause c s
  else if (getStrand s c).run = .running ∧ (getStrand s c).going.isSome then
    markActed c (ex ((getStrand s c).going.getD .zeroword) { s with cur := c })
  else
    match (getStrand s c).run with
    | .idle | .arrived | .parked => .next (passErrors s c)
    | .waiting => if trapDue s c then .next (takeDue s c) else lookWait c s
    | .running => if trapDue s c then .next (takeDue s c) else issueNext ex c s

/-- A tile drops its cached translations and blocks, and its cluster its translations (R241). -/
def evictTile (s : State) (t : Nat) : State :=
  modTile { s with clusterTlb := tabDel s.clusterTlb (t / 4) } t (fun x => { x with tlb := [], icache := [], fetching := [] })

/-- One word of the block that a core needs is read (R44). -/
def fetchTurn (s : State) (c : CoreId) (k : Nat) : State :=
  match neededPc s c with
  | some pc => fetchOne s c pc k
  | none => s

/-! ### The device's own turns -/

/-- The event by which a command's engine makes its next turn. -/
def kindEvent (id : Nat) (c : Cmd) : Instr :=
  match cmdKind c.raw with
  | 0x01 => .copy id
  | 0x02 => .mcast id
  | 0x03 => .gather id
  | 0x04 => .fill id
  | 0x10 => .mattask id
  | 0x20 => .select id
  | 0x21 => .topk id
  | 0x22 => .attnpart id
  | 0x30 => .collective id
  | _ => .fencerec id

/-- Engines that may take a command: that of its queue, or those of its pool's cluster. -/
def enginesFor (c : Cmd) : List Nat :=
  match c.queue with
  | .pool cl =>
    if cmdClass c.raw = 1 then [2 * cl, 2 * cl + 1]
    else if cmdClass c.raw = 3 then [0x400 + cl]
    else (List.range 4).map (fun k => 0x800 + 4 * cl + k)
  | q => [ownEngine q]

/-- Events of a command. -/
def cmdActs (id : Nat) (c : Cmd) : List Act :=
  if !hasEntry c then [.event (.chainEntryFetch id)]
  else
    match c.state with
    | .queued => (enginesFor c).map (fun e => .event (.commandDispatch id e))
    | .running => if c.withdrawn then [.event (.withdrawnStop id)] else [.event (kindEvent id c)]
    | .parked => if c.withdrawn then [.event (.withdrawnStop id)] else []
    | .written => [.event (.commandRetire id)]

/-- Events of a tile, and the turns of its strands. -/
def tileActs (s : State) (t : Nat) (x : Tile) : List Act :=
  ((tileCores t).filter (fun c => (getStrand s c).run == .running || (getStrand s c).run == .waiting)).map Act.issue
    ++ (if x.grants.isEmpty then [] else [.event (.grant t)])
    ++ (placedOn s t).filterMap (fun p => match p.copy.res with
        | .pushing => some (.event (.push t p.ctx p.name))
        | .recalling => some (.event (.recallMove t p.ctx p.name))
        | .sliding _ _ => some (.event (.shunterMove t p.ctx p.name))
        | _ => none)
    ++ ((slideDue s t).map (fun y => Act.event (.shunterMove t y.1.ctx y.1.name))).toList
    ++ ((List.range 8).filter (fun q => (opQueue x q).lines.any (fun l => !l.filled))).map (fun q => .event (.qrdLineFill t q))
    ++ (if (accsOn s t).any (fun e => match e.2.2.loc with | .filling _ => true | _ => false) then [.event (.accRefill t)] else [])
    ++ (if (accsOn s t).any (fun e => match e.2.2.loc with | .spilling _ => true | _ => false) then [.event (.slotSpill t)] else [])
    ++ (match x.preempt with
        | some p => if p.effect then [.event (.taskSave t)] else [.event (.preemptREffect t), .event (.preemptRFallback t)]
        | none => [])

/-- Events of a launch. Nguka checks it by itself once its code object is loaded; the loading stands in the schedule alone. -/
def launchActs (s : State) (id : Nat) (l : Launch) : List Act :=
  if l.state = .checking then
    (if l.load.isSome || (findBase s l.ctx (packetEntry l.packet)).isSome then [.event (.ngukaLaunchCheck id none)] else [])
  else [.event (.lapEntry id), .event (.launchCompletion id)]

/-- Everything that the device may do by itself. -/
def ownActs (s : State) : List Act :=
  s.tiles.flatMap (fun e => tileActs s e.1 e.2)
    ++ s.boxProgs.map (fun e => Act.issue (.sbox e.1))
    ++ s.cmds.flatMap (fun e => cmdActs e.1 e.2)
    ++ s.enWrites.map (fun q => Act.event (.queueEnable q)) ++ s.tailWrites.map (fun q => Act.event (.tailWrite q.1))
    ++ (s.hwqs.filter (fun e => e.2.en && decide (e.2.head < e.2.tail))).map (fun e => Act.event (.packetRead e.1))
    ++ s.launches.flatMap (fun e => launchActs s e.1 e.2)
    ++ s.boxLoads.map (fun e => Act.boxLoad e.1)
    ++ (List.range 8).flatMap (fun g =>
        if s.heap.any (fun e => e.2.group == g) then
          [Act.event (.dispatch g), .event (.taskResume g), .event (.tier3Promotion g)] else [])
    ++ (s.responses.head?.map (fun r =>
        if r.2.2 = 1 then Act.event (.respRetry r.1 r.2.1) else .event (.respAbort r.1 r.2.1))).toList
    ++ (if s.parkedFaults.isEmpty then [] else [.event .parkedFaultAdmit])
    ++ (s.ctxs.filter (fun e => !e.2.fqDeferred.isEmpty)).map (fun e => Act.event (.faultEntryPost e.1))
    ++ (if s.periodStart + 1048576 ≤ s.cycle then [.event .periodStart] else [])
    ++ (if s.shareStart + 2100000 ≤ s.cycle then [.event .shareWindow] else [])

/-- The turn that follows when the schedule is empty: one clock, and the acts in turn. -/
def ownTurn (s : State) : Turn :=
  let l := ownActs s
  { clocks := 1, act := (l[s.cycle % max 1 l.length]?).getD .idle }

/-- The next turn, and the state without it. -/
def nextTurn (s : State) : Turn × State :=
  match s.schedule with
  | t :: rest => (t, { s with schedule := rest })
  | [] => (ownTurn s, s)

/-- What a part that Fjoig has stopped still answers to: power-good (R339). -/
def wakesPart : Act → Bool
  | .event (.powerGood _) => true
  | _ => false

/-- The walks of an act read no more than so many entries, or as many as they come to (R240). -/
def Out.reading (r : Out) : Out :=
  match r with
  | .next s => .next { s with walkReads := none }
  | o => o

/-- An act is done. -/
def doAct (ex : Instr → State → Out) (s : State) : Act → Out
  | .issue c => coreTurn ex c s
  | .event i => ex i s
  | .evict k => .next (evictTile s k)
  | .walking n a => Out.reading (doAct ex { s with walkReads := some n } a)
  | .fetchWord c k => .next (fetchTurn s c k)
  | .boxLoad g =>
    match tabFind s.boxLoads g with
    | some b => .next (loadBox s g b)
    | none => .next s
  | .bar0Read off n => .next (readBar0 s off n)
  | .windowDown p => .next (downWindow s p)
  | .idle => .next s

/-- A turn: its clocks pass, and its act is done. -/
def takeTurn (ex : Instr → State → Out) (t : Turn) (s0 : State) : Out :=
  if s0.boot = .stopped ∧ !wakesPart t.act then .next s0
  else doAct ex (if t.clocks = 0 then s0 else tick s0 t.clocks) t.act

/-- The core on which a word of the table is placed: the strand that its form is for (R38). -/
def placeCore (op : Nat) : CoreId :=
  .tile 0 (if op == 0x50 then 1 else if op == 0x51 then 3 else if xOnly op then 2 else 0)

/-- A strand about to issue the word at address 0. -/
def readyStrand (op : Nat) : Strand :=
  { Strand.blank with run := .running, mode := if supForm op then .supervisor else .user }

/-- The task that the placed word belongs to. -/
def placeTask : Task :=
  { serial := 0, ctx := 0, launch := 0, index := none, lap := 0, tier := 0, deadline := 0, age := 0, queue := 0, pos := 0,
    pool := false, lapAt := 0, preempted := false }

/-- The leaf entry with which the placed word's block was fetched: V, LEAF, R, W and X. -/
def placeLeaf : Word := 0x1F

/-- A state whose next turn issues words from address 0 of a tile's instruction cache. -/
def placeWords (s : State) (ws : List Word) : State :=
  let op := ((ws.headD 0).extractLsb' 56 8).toNat
  let c := placeCore op
  let q := match c with | .tile _ q => q | .sbox _ => 0
  let x := getTile s 0
  let y := ({ x with task := some placeTask, icache := [⟨0, 0, placeLeaf, ws⟩] }).setStrand q (readyStrand op)
  { setTile s 0 y with boot := .up, schedule := [⟨0, .issue c⟩] }

end Sys2Proof.Machine
end

