-- ==== Sys2Proof/Machine/Step.lean ====
section
/-! DEFINITION. One step of the device: the next turn of its schedule, or of its own when the schedule is empty. -/

namespace Sys2Proof.Machine

/-- One step. -/
def step (s : State) : Host.Outcome State Fault Refusal :=
  takeTurn exec (nextTurn s).1 (nextTurn s).2

/-- The state in which the very next step issues a word of `nbits` bits: the word stands at the PC of a strand that may
issue it, in its tile's instruction cache, and the schedule names that strand. -/
def State.withFetchWord (s : State) (nbits w : Nat) : State :=
  placeWords s (BitVec.ofNat 64 (w % 2 ^ min nbits 64) :: List.replicate 7 0)

end Sys2Proof.Machine
end

