-- ==== Sys2Proof/WellFormed.lean ====
section
/-! DEFINITION. Well-formed instructions: what check 7 of the decode order accepts (R41). -/

namespace Sys2Proof

/-- The instruction's field values are defined and allowed. An `illop` is the word of a reserved slot. -/
def Instr.wf (i : Instr) : Bool := Machine.fieldsOk i

end Sys2Proof
end

