-- ==== Sys2Proof/Safety.lean ====
section
/-! DEFINITION. What counts as a safe run, and the words in which claims are made: a word that takes effect, that
completes, that traps or that waits, and what stays beside it. -/

namespace Sys2Proof.Machine

/-- Every one of the next `n` steps answers a next state. -/
def SafeFor : Nat → State → Prop
  | 0, _ => True
  | n + 1, s => ∃ t, step s = .next t ∧ SafeFor n t

/-- The state in which a word takes effect: its take is done (R27), its give fits (R73), and it is the last word issued
(R75). None when the take waits or the give does not fit. -/
def begun (s : State) (c : CoreId) (i : Instr) : Option State :=
  match takeToken s c i with
  | .error _ => none
  | .ok s1 =>
    if giveOverflows s1 c i then none
    else some (modStrand s1 c (fun st => { st with lastPc := st.pc, run := .running }))

/-- The core whose turn it is stands at the word `i`; no record or sequence is to be judged by it (R87, R149, R176);
and the checks of R41 pass, so that its take is next. -/
abbrev Reaches (s : State) (c : CoreId) (i : Instr) : Prop :=
  s.cur = c ∧ dropRep (judge s c i) c i = s ∧ decodeTrap s c i = none

/-- The word `i` of core `c` takes effect in the state `u`. -/
abbrev Issues (s : State) (c : CoreId) (i : Instr) (u : State) : Prop := Reaches s c i ∧ begun s c i = some u

/-- The word completes with the effect that leads to `v`: it retires, and the word after it follows (R27). -/
def Completes (s : State) (i : Instr) (v : State) : Prop :=
  exec i s = .next (retireWord v s.cur i ((getStrand v s.cur).pc + 8))

/-- The word completes with the effect that leads to `v`, and execution goes on at `pc`. -/
def JumpsTo (s : State) (i : Instr) (pc : Word) (v : State) : Prop := exec i s = .next (retireWord v s.cur i pc)

/-- The word takes a trap with a condition and two details, in the state `v`. -/
def Traps (s : State) (i : Instr) (cond : Nat) (d0 d1 : Word) (v : State) : Prop :=
  exec i s = .next (trapCore v s.cur { cond := cond, d0 := d0, d1 := d1 })

/-- The word does a part of its work, a row or a portion, that leads to `v`, and goes on in the strand's next turn
(R135, R182). -/
def GoesOn (s : State) (i : Instr) (v : State) : Prop :=
  exec i s = .next (modStrand v s.cur (fun st => { st with going := some i, wait := none }))

/-- The core of the word enters a wait `w`, or goes on with it, in the state `v`. -/
def Waits (s : State) (i : Instr) (w : WaitSpec) (v : State) : Prop :=
  exec i s = .next (enterWait (modStrand v s.cur (fun st => { st with lastPc := (getStrand s s.cur).lastPc })) s.cur i w
    (getStrand s s.cur).wait)

/-- The word ends as its effect `r` says: the wait, the trap or the fault of an operand. -/
def EndsAs (s : State) (i : Instr) (r : Res) : Prop :=
  exec i s = finishWord s.cur i (getStrand s s.cur).wait (getStrand s s.cur).lastPc r

/-- The word ends with the results of `v` and raises flags: they are ORed into FPSTAT, and it completes unless one of
them is enabled, which traps FPEXC (28) at the following word (R61, R106), of the matrix engine with the progress record
that stands in DETAIL1 (R174). -/
def EndsWithFlags (s : State) (i : Instr) (v : State) (fl : BitVec 6) (engine : Bool := false) : Prop :=
  let w := modStrand v s.cur (fun st => { st with fpFlags := st.fpFlags ||| fl })
  let st := getStrand w s.cur
  (st.fpEn &&& fl = 0 → Completes s i w) ∧
  (st.fpEn &&& fl ≠ 0 → exec i s = .next (trapAfter (moveOn (giveToken w s.cur i) s.cur (st.pc + 8)) s.cur
    { cond := 28, engine := engine, d0 := fl.setWidth 64, d1 := if engine then ownProgressWord w s.cur else 0 }
    st.wordPc (st.pc + 8)))

/-- The matrix engine of a tile takes a word: it is not frozen, no plane of it is to be reloaded, and no MATTASK occupies
it (R176, R226, R322). -/
abbrev EngineFree (u : State) (t : Nat) : Prop :=
  (getTile u t).mx.frozen = false ∧ reloading u t = false ∧ mattaskOn u t = false

/-- The word traps with source 4 and the engine's progress record in DETAIL1 (R174, R180). -/
def EngineTraps (s : State) (i : Instr) (cond t : Nat) (v : State) : Prop :=
  exec i s = .next (trapCore v s.cur
    { cond := cond, engine := true, d0 := 0, d1 := progressWord (getTile v t).mx.prog })

/-- The progress record with which a word of a kind begins, `p` being the one in force: it goes on from NEXT when the
word is in progress or resumes one that its own mode parked, and else begins at 0 (R176). -/
abbrev begunRecord (p : Progress) (m : Mode) (kind an : Nat) : Progress :=
  if p.kind = kind ∧ p.an = an ∧ (p.state = .active ∨ (p.state = .parked ∧ p.sup = decide (m = .supervisor))) then
    { p with state := .active }
  else { Progress.zero with state := .active, an := an, kind := kind }

/-- The event `i` leads to `t`. -/
def Happens (s : State) (i : Instr) (t : State) : Prop := exec i s = .next t

/-- The event `i` changes nothing: it is not enabled. -/
def Idles (s : State) (i : Instr) : Prop := exec i s = .next s

/-- The command `k` runs in the machine and its engine may make its next turn: it is of a kind, nothing holds it and no
withdrawal has stopped it (R192, R202, R231). -/
abbrev Runs (s : State) (id : Nat) (k : Cmd) (kind : Nat) : Prop :=
  tabFind s.cmds id = some k ∧ k.state = .running ∧ k.held = false ∧ k.withdrawn = false ∧ hasEntry k = true ∧ cmdKind k.raw = kind

/-- The turn `i` of the command `id` leads to `v`; where it has ended an entry of a chain, the entry's STATUS is written at
once, if it can be (R206). -/
def TurnsTo (s : State) (i : Instr) (id : Nat) (v : State) : Prop :=
  exec i s = .next (match tabFind v.cmds id with
    | some d => if d.chain.isSome ∧ !hasEntry d then settleChain v id else v
    | none => v)

/-- Nothing but strands and couplings of one tile, and of it no strand but `c` and what `peer` says, differs between two
states; for a core program, nothing but itself. -/
def OnlyCore (s t : State) (c : CoreId) : Prop :=
  match c with
  | .tile k q =>
    { t with tiles := s.tiles } = s ∧
    (∀ j, j ≠ k → getTile t j = getTile s j) ∧
    { getTile t k with strands := (getTile s k).strands } = getTile s k ∧
    (∀ p, p % 4 ≠ q % 4 → (getTile t k).strand p = (getTile s k).strand p)
  | .sbox g =>
    { t with boxes := s.boxes } = s ∧ ∀ j, j ≠ g → getStrand t (.sbox j) = getStrand s (.sbox j)

/-- The strand `x` holds the frame of a trap taken in the strand `st` (R313): the frame registers are written, the take,
pause and sequence are over, and no other register has changed. -/
def Framed (x st : Strand) (cause : BitVec 9) (d0 d1 tpc rep : Word) (tkd : Bool) : Prop :=
  x.tpc = tpc ∧ x.tcause = cause ∧ x.tdetail0 = d0 ∧ x.tdetail1 = d1 ∧ x.trep = rep ∧ x.tkd = tkd ∧
  x.pm = decide (st.mode = .supervisor) ∧ x.pause = none ∧ x.rep = none ∧ x.takeDone = false ∧
  x.g = st.g ∧ x.a = st.a ∧ x.waitdef = st.waitdef ∧ x.fpFlags = st.fpFlags ∧ x.fpEn = st.fpEn ∧ x.rmdyn = st.rmdyn ∧
  x.tscratch = st.tscratch ∧ x.ss = st.ss ∧ x.errors = st.errors ∧ x.wake = st.wake

/-- The register that RD of F-R or F-I names (R28). -/
def rdOf (i : Instr) : Option (BitVec 6) :=
  match formOf i with
  | some (_, .r f) => some f.rd
  | some (_, .i f) => some f.rd
  | _ => none

end Sys2Proof.Machine
end

