-- ==== Sys2Proof/Certificates/Slice0/Obligations.lean ====
section
/-! DEFINITION. The statements for the provers. -/

open Sys2Proof Sys2Proof.Machine

/-- Right after reset CYCLE and DEVTIME are 0 and LEASECTL is 0x0100 (R108, R110), every strand is idle in user mode with every G and A register, WAITDEF, FPSTAT and RMDYN at 0 (R91, R92), and every coupling is empty (R72). Its device memory is in canonical form. That device memory reads 0 everywhere, and every register value for which the spec gives no reset, are the choices of log entries 2 and 3. (R91, R92, R108, R110, R72, log entry 2, log entry 3.) -/
def Obligations.ResetState : Prop :=
  let s := State.reset
  s.cycle = 0 ∧ devTime s = 0 ∧ s.leasectl = 0x0100 ∧ s.mem.wf = true ∧
  (∀ t q r n, (getStrand s (.tile t q)).run = .idle ∧ (getStrand s (.tile t q)).mode = .user ∧
    (getStrand s (.tile t q)).getG r = 0 ∧ (getStrand s (.tile t q)).getA n = 0 ∧
    (getStrand s (.tile t q)).waitdef = 0 ∧ fpstatWord (getStrand s (.tile t q)) = 0 ∧
    (getStrand s (.tile t q)).rmdyn = 0) ∧
  (∀ t a b, (getTile s t).coupling a b = 0) ∧
  (∀ pa, isTier2 pa = false → paByte s pa = 0)

/-- When the next turn of the schedule issues core c, no clock passes with it, the device is up, no pre-emption holds the core, and the core has issued nothing in this clock and runs with no pause, no word in progress, no error and no PREEMPTED due, then a step is exec of the instruction that the word at its program counter decodes to, with the schedule moved on and c as the core that executes; unless the word waits, the core issues no other in this clock (R41, R42, R70). A word whose fields are refused traps as checks 5 to 7 say, and a word that is not in the instruction cache is fetched first. Turns are the schedule of log entry 4. (R41, R42, R70, R71, log entry 4.) -/
def Obligations.StepRunsDecodedWord : Prop :=
  ∀ (s : State) (c : CoreId) (rest : List Turn),
    let u := { s with schedule := rest }
    let pc := (getStrand s c).pc.toNat
    s.schedule = ⟨0, .issue c⟩ :: rest → s.boot = .up → preemptHolds s c = false →
    c ∉ s.acted → (getStrand s c).run = .running → (getStrand s c).pause = none → (getStrand s c).going = none →
    preemptedDue s c = false → errorDue s c = false →
      (∀ w i, wordAt s c pc = some w → decode w = .ok i → step s = markActed c (exec i { entered u c with cur := c })) ∧
      (∀ w i, wordAt s c pc = some w → decode w = .error (.badField i) →
        let v := dropRep (judge (entered u c) c i) c i
        step s = .next (trapCore v c { cond := rejectTrap v c i })) ∧
      (wordAt s c pc = none → step s = .next (fillBlock u c pc))

/-- Words written out from the format table and the opcode map, the two examples of R84 and R85 among them, decode to the instructions they stand for; the all-zero word decodes to ZEROWORD, a word with OP 0xFE to POOL, one with a reserved opcode to ILLOP, and ADD with a set zero bit is refused. (R28, R36, R37, R84, R85, R94, R96.) -/
def Obligations.SampleWordsDecode : Prop :=
  decode 0x0100000000000003 = .ok (.nop ⟨0, 0, 0, 0, 0, 3⟩) ∧
  decode 0x0D30000500000000 = .ok (.tkgive ⟨3, 0, 0, 5, 0, 0, 0⟩) ∧
  decode 0x100C40C000000000 = .ok (.add ⟨3, 4, 3, 0, 0, 0⟩) ∧
  decode 0x2014500000000110 = .ok (.addi ⟨5, 5, 0x11, 0⟩) ∧
  decode 0x0320830000000010 = .ok (.bcc ⟨2, 2, 3, 1, 0⟩) ∧
  decode 0 = .ok .zeroword ∧
  decode 0xFE00050000000000 = .ok (.pool ⟨5⟩) ∧
  decode 0xE000000000000000 = .ok (.illop 0xE000000000000000) ∧
  decode 0x100C40C000000010 = .error (.badField (.add ⟨3, 4, 3, 0, 0, 0⟩))

/-- For every instruction that has an opcode and a format, with every field at every value that check 7 of R41 admits, decoding its encoding gives it back; so does decoding the all-zero word for ZEROWORD. POOL is read by its opcode alone, and gives back its length. (R28, R36, R41, R94, R133, R153, R180, R210, R257.) -/
def Obligations.EncodedWordsDecodeBack : Prop :=
  (∀ i, (formOf i).isSome = true → i.wf = true → decode (encode i) = .ok i) ∧
  decode (encode .zeroword) = .ok .zeroword ∧
  (∀ w, slotOf (w.extractLsb' 56 8).toNat = none → w ≠ 0 → decode (encode (.illop w)) = .ok (.illop w))

/-- A word that the core whose turn it is stands at: the all-zero word traps ZEROWORD, OP 0xFE traps POOLEXEC (R46, R89) and a reserved slot traps ILLOP (R37), in every state: the next state is that of the trap, with its cause, details of 0 and TPC at the word, at the handler in supervisor mode, or parked where the core is in supervisor mode already or has no handler; of the other words, one whose slot the part does not execute, or on a strand that its form does not permit, traps ILLOP, a supervisor form or an OTHER form of ACCSPILL or ACCFILL (R186) outside supervisor mode traps PRIV, and one whose fields or strand are not allowed traps BADFIELD, in that order (R38, R41). The forms permitted on a tile strand are those of R38. A REP sequence that a word is not, and records that it leaves behind, are judged first. (R37, R38, R41, R46, R89, R186.) -/
def Obligations.DecodeChecksTrapInOrder : Prop :=
  (∀ (s : State), let c := s.cur
    let st := getStrand s c
    let taken := fun (i : Instr) (n : Nat) => ∃ t, Happens s i t ∧ t = trapCore (dropRep (judge s c i) c i) c { cond := n } ∧
      (let x := getStrand t c
      x.tcause = causeOf n (coreSrc c) ∧ x.tpc = st.pc ∧ x.tdetail0 = 0 ∧ x.tdetail1 = 0 ∧ x.g = st.g ∧ x.a = st.a ∧
      (st.mode = .user → tvecOf s c ≠ 0 →
        x.pc = (tvecOf s c).zeroExtend 64 ∧ x.mode = .supervisor ∧ x.run = .running ∧ x.nest = false) ∧
      (st.mode = .supervisor ∨ tvecOf s c = 0 → x.pc = st.pc ∧ x.mode = st.mode ∧ x.run = .parked ∧ x.nest = true))
    taken .zeroword 2 ∧ (∀ w, taken (.illop w) 1) ∧ ∀ f, taken (.pool f) 3) ∧
  (∀ (s : State) (c : CoreId) (i : Instr), s.cur = c → dropRep (judge s c i) c i = s →
    (∀ b, bodyOf i = some b →
      let op := (opOf i).toNat
      let okSlot := s.isaMask.getLsbD op = true ∧ strandOk c op = true
      let sup := supForm op = true ∨ ∃ f : FX, i = .accspillOther f ∨ i = .accfillOther f
      (¬ okSlot → Traps s i 1 0 0 s) ∧
      (okSlot → sup → (getStrand s c).mode = .user → Traps s i 5 0 0 s) ∧
      (okSlot → (sup → (getStrand s c).mode = .supervisor) →
        (fieldsOk i && fieldsAtOk s c i) = false → Traps s i 4 0 0 s))) ∧
  (∀ t q op, op < 256 →
    strandOk (.tile t q) op =
      if op = 0x09 ∨ op = 0x0B then q % 4 = 0
      else if op = 0x50 then q % 4 = 1
      else if op = 0x51 then q % 4 = 3
      else if op = 0x42 ∨ op = 0x43 ∨ (0x53 ≤ op ∧ op ≤ 0x57) ∨ (0x60 ≤ op ∧ op ≤ 0x9F) then q % 4 = 2
      else True) ∧
  (∀ op, op < 256 → supForm op = (decide (op = 0xF1 ∨ (0xF3 ≤ op ∧ op ≤ 0xFA)))) ∧
  (∀ w : Word, let op := (w.extractLsb' 56 8).toNat
    (w = 0 → decode w = .ok .zeroword) ∧ (w ≠ 0 → op = 0 → decode w = .ok (.illop w)) ∧
    (op = 0xFE → ∃ f, decode w = .ok (.pool f)) ∧
    ((0x2C ≤ op ∧ op ≤ 0x2F) ∨ (0x39 ≤ op ∧ op ≤ 0x3F) ∨ (0x4D ≤ op ∧ op ≤ 0x4F) ∨ (0x58 ≤ op ∧ op ≤ 0x5F) ∨
      (0x6E ≤ op ∧ op ≤ 0x6F) ∨ op = 0x7F ∨ (0x89 ≤ op ∧ op ≤ 0x8F) ∨ (0x9D ≤ op ∧ op ≤ 0x9F) ∨ (0xAA ≤ op ∧ op ≤ 0xAF) ∨
      (0xB5 ≤ op ∧ op ≤ 0xBF) ∨ (0xC9 ≤ op ∧ op ≤ 0xCF) ∨ (0xD3 ≤ op ∧ op ≤ 0xEF) ∨ (0xFB ≤ op ∧ op ≤ 0xFD) ∨ op = 0xFF →
      decode w = .ok (.illop w)))

/-- A word that has passed its checks on tile strand q takes one token from the coupling of the peer its TAKE names, unless it names none or the take is done, before it takes effect (R27); while that coupling holds no token that an earlier clock gave it waits with KIND 0; and when its give would raise the coupling to its peer above 63 it traps CPLOVER with the take done and nothing given, and no take of that coupling follows in the clock (R73); a word of the matrix engine, one of group 0x9_ but for the OTHER forms, traps it with source 4 and the progress record that stands in DETAIL1 (R174, R180). A take and a give leave everything else of the machine as it is. (R27, R73, R174, R180.) -/
def Obligations.TakeBeforeIssue : Prop :=
  ∀ (s : State) (t q : Nat) (i : Instr) (b : Body), bodyOf i = some b → Reaches s (.tile t q) i →
    let c := CoreId.tile t q
    let self := q % 4
    let peer := peerOf self (takeOf i)
    let n := (getTile s t).takable peer self
    let took := if takeOf i = 0 ∨ (getStrand s c).takeDone = true then s
      else modStrand (modTile s t (fun x => x.setCoupling peer self (x.coupling peer self - 1))) c
        (fun st => { st with takeDone := true })
    let room := giveOf i = 0 ∨ (getTile took t).coupling self (peerOf self (giveOf i)) + 1 ≤ 63
    (takeOf i ≠ 0 → (getStrand s c).takeDone = false → n = 0 →
      exec i s = .next (enterWait s c i { what := .take, kind := 0, name := 4 * peer + self, psrc := peer, prod := some peer }
        (getStrand s c).wait)) ∧
    ((takeOf i = 0 ∨ (getStrand s c).takeDone = true ∨ 0 < n) → ¬ room →
      let v := modTile took t (fun x => x.overflowed self (peerOf self (giveOf i)))
      let mine := (opOf i).toNat / 16 = 9 ∧ ∀ f : FX, i ≠ .accspillOther f ∧ i ≠ .accfillOther f
      (mine → EngineTraps s i 23 t v) ∧ (¬ mine → Traps s i 23 0 0 v)) ∧
    ((takeOf i = 0 ∨ (getStrand s c).takeDone = true ∨ 0 < n) → room →
      Issues s c i (modStrand took c (fun st => { st with lastPc := st.pc, run := .running })))

/-- When a word of tile strand q retires, single step traps DEBUG at the word after it where it is due (R311), and else its strand stands at the next program counter and runs with no take, wait, sequence, grant or part of a word left over; one token is added to the coupling to the peer its GIVE names, whose wake latch gains the reason of a give, and to no other, and may be taken from the next clock on (R73); and nothing else of the machine changes: no other tile, no other field of its tile, no register, no byte of memory. (R27, R73, R311.) -/
def Obligations.RetiringWordsGiveAndMoveOn : Prop :=
  (∀ (v : State) (t q : Nat) (i : Instr) (pc : Word),
    let c := CoreId.tile t q
    let w := retireWord v c i pc
    (getStrand v c).ss = true → (getStrand v c).mode = .user → (getStrand v c).pause = none → (getTile v t).tvec ≠ 0 →
      Framed (getStrand w c) (getStrand v c) (BitVec.ofNat 9 (43 * 8 + q % 4)) 0 0 pc 0 false ∧
      (getStrand w c).mode = .supervisor ∧ (getStrand w c).pc = (getTile v t).tvec.setWidth 64) ∧
  (∀ (v : State) (t q : Nat) (i : Instr) (pc : Word), stepDue (getStrand v (.tile t q)) = false →
    let c := CoreId.tile t q
    let self := q % 4
    let peer := peerOf self (giveOf i)
    let w := retireWord v c i pc
    { w with tiles := v.tiles } = v ∧
    (∀ k, k ≠ t → getTile w k = getTile v k) ∧
    { getTile w t with strands := (getTile v t).strands, couplings := (getTile v t).couplings, given := (getTile v t).given } =
      getTile v t ∧
    getStrand w c = { getStrand v c with
      pc := pc, takeDone := false, wait := none, rep := none, run := .running, granted := none, dispStep := 0,
      going := none, spawning := none, making := none, staged := none, step := 0, met := false, walk := none, pins := [] } ∧
    (∀ p, p % 4 ≠ self → (getTile w t).strand p =
      if giveOf i ≠ 0 ∧ p % 4 = peer then { (getTile v t).strand p with wake := ((getTile v t).strand p).wake ||| 2 }
      else (getTile v t).strand p) ∧
    (∀ a b, a < 4 → b < 4 → (getTile w t).coupling a b =
      (getTile v t).coupling a b + (if giveOf i ≠ 0 ∧ a = self ∧ b = peer then 1 else 0) ∧
      (getTile w t).takable a b = (getTile v t).takable a b))

/-- ADD, SUB, MUL, MULH, AND, OR, XOR, SHL, SHR, SAR, MIN and MAX complete for every operand, at 64 bits and in the .32 form, signed and with .U where R94 allows it: Gd gets the exact value of the table narrowed to n bits, the .32 forms sign-extended, and nothing else changes beside the take, the give and the retirement. (R94.) -/
def Obligations.AluResults : Prop :=
  ∀ (s u : State) (c : CoreId) (f : FR),
    let n := if f.fn.getLsbD 0 then 32 else 64
    let x : BitVec n := ((getStrand s c).getG f.ra).setWidth n
    let y : BitVec n := ((getStrand s c).getG f.rb).setWidth n
    let uns := f.fn.getLsbD 1
    ∀ e ∈ ([(.add, x + y), (.sub, x - y), (.mul, x * y),
      (.mulh, if uns then (x.zeroExtend (n + n) * y.zeroExtend (n + n)).extractLsb' n n
        else (x.signExtend (n + n) * y.signExtend (n + n)).extractLsb' n n),
      (.and, x &&& y), (.or, x ||| y), (.xor, x ^^^ y),
      (.shl, x <<< (y.toNat % n)), (.shr, x >>> (y.toNat % n)), (.sar, x.sshiftRight (y.toNat % n)),
      (.min, if (if uns then x.ult y else x.slt y) then x else y),
      (.max, if (if uns then x.ult y else x.slt y) then y else x)] : List ((FR → Instr) × BitVec n)),
      Issues s c (e.1 f) u → Completes s (e.1 f) (setGOf u c f.rd (e.2.signExtend 64))

/-- DIV and REM complete for every divisor but zero with the quotient truncated toward zero and its remainder, signed or with .U, at 64 bits or in the .32 form, whose result is sign-extended; a zero divisor traps INTDIV (29) with Gd unchanged and the PC of the word in the frame (the results are those of R94). (R95.) -/
def Obligations.DivisionResultsAndTrap : Prop :=
  ∀ (s u : State) (c : CoreId) (f : FR),
    let n := if f.fn.getLsbD 0 then 32 else 64
    let x : BitVec n := ((getStrand s c).getG f.ra).setWidth n
    let y : BitVec n := ((getStrand s c).getG f.rb).setWidth n
    let uns := f.fn.getLsbD 1
    ∀ e ∈ ([(.div, if uns then x / y else x.sdiv y), (.rem, if uns then x % y else x.srem y)] :
        List ((FR → Instr) × BitVec n)),
      Issues s c (e.1 f) u →
        (y ≠ 0 → Completes s (e.1 f) (setGOf u c f.rd (e.2.signExtend 64))) ∧
        (y = 0 → Traps s (e.1 f) 29 0 0 u ∧
          (getStrand (trapCore u c { cond := 29 }) c).tpc = (getStrand s c).pc)

/-- SETCC and SETCCI write 1 if their condition of R32 holds on full 64-bit operands and 0 otherwise; SEL writes Ga if Gc is not zero and Gb otherwise; CLZ writes the number of leading zero bits, 64 for zero; POPC the number of set bits. Each completes on every operand. (R32, R94, R96, R97.) -/
def Obligations.ConditionAndCountResults : Prop :=
  ∀ (s u : State) (c : CoreId),
    let g := (getStrand s c).getG
    let bit := fun (b : Bool) => if b then (1 : Word) else 0
    let conds := fun (x y : Word) => [decide (x = y), decide (x ≠ y), x.slt y, y.sle x, x.ult y, y.ule x,
      decide (x &&& y ≠ 0), decide (x &&& y = 0)]
    (∀ (f : FR) k b, (conds (g f.ra) (g f.rb))[k]? = some b → f.fn = BitVec.ofNat 8 k →
      Issues s c (.setcc f) u → Completes s (.setcc f) (setGOf u c f.rd (bit b))) ∧
    (∀ (f : FI) k b, (conds (g f.ra) ((f.imm.extractLsb' 0 36).signExtend 64))[k]? = some b →
      f.imm.extractLsb' 36 4 = BitVec.ofNat 4 k →
      Issues s c (.setcci f) u → Completes s (.setcci f) (setGOf u c f.rd (bit b))) ∧
    (∀ f : FR, Issues s c (.sel f) u → Completes s (.sel f) (setGOf u c f.rd (if g f.rc = 0 then g f.rb else g f.ra))) ∧
    (∀ f : FR, Issues s c (.clz f) u → ∃ k, k ≤ 64 ∧ Completes s (.clz f) (setGOf u c f.rd (BitVec.ofNat 64 k)) ∧
      (∀ j, j < k → (g f.ra).getLsbD (63 - j) = false) ∧ (k < 64 → (g f.ra).getLsbD (63 - k) = true)) ∧
    (∀ f : FR, Issues s c (.popc f) u → Completes s (.popc f)
      (setGOf u c f.rd (BitVec.ofNat 64 ((List.range 64).filter (fun j => (g f.ra).getLsbD j)).length)))

/-- ADDI, ANDI, ORI, XORI, SHLI, SHRI, SARI, LIMM and LIMMH complete for every operand with the value of the table of R96, the immediate sign-extended from 40 bits; LIMMH joins its 24-bit immediate to bits 39:0 of Gd as it was before. (R96.) -/
def Obligations.ImmediateResults : Prop :=
  ∀ (s u : State) (c : CoreId) (f : FI),
    let a := (getStrand s c).getG f.ra
    let i : Word := f.imm.signExtend 64
    let k := (f.imm.extractLsb' 0 6).toNat
    ∀ e ∈ ([(.addi, a + i), (.andi, a &&& i), (.ori, a ||| i), (.xori, a ^^^ i), (.shli, a <<< k), (.shri, a >>> k),
      (.sari, a.sshiftRight k), (.limm, i),
      (.limmh, f.imm.extractLsb' 0 24 ++ ((getStrand s c).getG f.rd).extractLsb' 0 40)] : List ((FI → Instr) × Word)),
      Issues s c (e.1 f) u → Completes s (e.1 f) (setGOf u c f.rd e.2)

/-- AMAKE builds an A register from an immediate name and offset, or from a G register whose bits 63:48 are zero and else traps ADDRRANGE (19); AOFF and AOFFI add a shifted G register or a sign-extended immediate to the 32-bit offset, which wraps, and keep the name; AGETS and AGETO write the name and the offset, zero-extended, to a G register. An A register number is its specifier less 32. (R98, R99, R100.) -/
def Obligations.AddressRegisterResults : Prop :=
  ∀ (s u : State) (c : CoreId),
    let g := (getStrand s c).getG
    let a := fun (r : BitVec 6) => (getStrand s c).getA (r.toNat - 32)
    let setA := fun (r : BitVec 6) (v : Word) => modStrand u c (fun st => st.setA (r.toNat - 32) v)
    let join := fun (name : BitVec 16) (off : BitVec 32) => (name ++ off).setWidth 64
    (∀ f : FI, Issues s c (.amake f) u →
      (f.ra = 0 → Completes s (.amake f)
        (setA f.rd (join (f.imm.extractLsb' 24 16) ((f.imm.extractLsb' 0 24).setWidth 32)))) ∧
      (f.ra ≠ 0 → (g f.ra).extractLsb' 48 16 = 0 → Completes s (.amake f) (setA f.rd (g f.ra))) ∧
      (f.ra ≠ 0 → (g f.ra).extractLsb' 48 16 ≠ 0 → Traps s (.amake f) 19 0 0 u)) ∧
    (∀ f : FR, Issues s c (.aoff f) u → Completes s (.aoff f)
      (setA f.rd (join ((a f.ra).extractLsb' 32 16)
        ((a f.ra).extractLsb' 0 32 + (g f.rb <<< (f.fn.toNat % 16)).setWidth 32)))) ∧
    (∀ f : FI, Issues s c (.aoffi f) u → Completes s (.aoffi f)
      (setA f.rd (join ((a f.ra).extractLsb' 32 16) ((a f.ra).extractLsb' 0 32 + f.imm.setWidth 32)))) ∧
    (∀ f : FR, Issues s c (.agets f) u → Completes s (.agets f)
      (setGOf u c f.rd (((a f.ra).extractLsb' 32 16).setWidth 64))) ∧
    (∀ f : FR, Issues s c (.ageto f) u → Completes s (.ageto f)
      (setGOf u c f.rd (((a f.ra).extractLsb' 0 32).setWidth 64)))

/-- G0 reads 0 and a write to it is discarded; an A register keeps bits 63:48 zero. A register word (the arithmetic, logic, compare, select, immediate, count and address instructions of groups 0x1_, 0x2_ and OP 0x30 to 0x34) either traps without an effect of its own, or leaves everything beside its destination as it was when it took effect: every other tile and strand, every other register, flag and special register of its strand, and every byte of memory and of every segment; only the retirement then changes the program counter and the issue state of its strand. (R91.) -/
def Obligations.RegisterWordsFrame : Prop :=
  (∀ (st : Strand) v, st.getG 0 = 0 ∧ st.setG 0 v = st) ∧
  (∀ (st : Strand) n v, (st.setA n v).getA n = (v.extractLsb' 0 48).setWidth 64) ∧
  (∀ (st : Strand) r v, 1 ≤ r.toNat → r.toNat < 32 → (st.setG r v).getG r = v ∧
    (∀ p, p.toNat < 32 → p ≠ r → (st.setG r v).getG p = st.getG p)) ∧
  (∀ (s u t : State) (c : CoreId) (i : Instr), Issues s c i u → stepDue (getStrand s c) = false → exec i s = .next t →
    (0x10 ≤ (opOf i).toNat ∧ (opOf i).toNat ≤ 0x34) →
    (∃ x : TrapInfo, t = trapCore u c x) ∨
    (∃ v pc, t = retireWord v c i pc ∧ pc = (getStrand s c).pc + 8 ∧ OnlyCore u v c ∧
      { getStrand v c with g := (getStrand u c).g, a := (getStrand u c).a } = getStrand u c ∧
      (∀ r, r.toNat < 32 → rdOf i ≠ some r → (getStrand v c).getG r = (getStrand u c).getG r) ∧
      (∀ n, n < 16 → rdOf i ≠ some (BitVec.ofNat 6 (32 + n)) → (getStrand v c).getA n = (getStrand u c).getA n) ∧
      (∀ pa, paByte v pa = paByte u pa) ∧ v.ctxs = u.ctxs))

/-- A number of class 11 traps BADFIELD and one of class 10 in user mode PRIV, defined or not; any other number that is not defined traps BADFIELD. CSRR, and CSRSET and CSRCLR with RA = 0, complete with Gd as the old value. CSRW, and CSRSET and CSRCLR with another RA, attempt a write: of a class-01 CSR it traps BADFIELD; else the new value (Ga, old OR Ga, old AND NOT Ga) is written and Gd gets the old value. (R102.) -/
def Obligations.CsrInstructionRules : Prop :=
  ∀ (s u : State) (c : CoreId) (f : FI),
    let n := (f.imm.extractLsb' 0 12).toNat
    let super := (getStrand s c).mode = .supervisor
    let ga := (getStrand s c).getG f.ra
    (∀ mk ∈ ([.csrr, .csrw, .csrset, .csrclr] : List (FI → Instr)), Issues s c (mk f) u →
      (n / 1024 = 3 → Traps s (mk f) 4 0 0 u) ∧
      (n / 1024 = 2 → ¬ super → Traps s (mk f) 5 0 0 u) ∧
      (n / 1024 ≠ 3 → (n / 1024 = 2 → super) → csrRead u c n = none → Traps s (mk f) 4 0 0 u)) ∧
    (∀ old, n / 1024 ≠ 3 → (n / 1024 = 2 → super) → csrRead u c n = some old →
      (Issues s c (.csrr f) u → Completes s (.csrr f) (setGOf u c f.rd old)) ∧
      (∀ mk ∈ ([.csrset, .csrclr] : List (FI → Instr)), f.ra = 0 → Issues s c (mk f) u →
        Completes s (mk f) (setGOf u c f.rd old)) ∧
      (∀ e ∈ ([(.csrw, ga), (.csrset, old ||| ga), (.csrclr, old &&& ~~~ga)] : List ((FI → Instr) × Word)),
        (e.1 f = .csrw f ∨ f.ra ≠ 0) → Issues s c (e.1 f) u →
        (n / 1024 = 1 → Traps s (e.1 f) 4 0 0 u) ∧
        (n / 1024 ≠ 1 →
          (csrWrite u c n e.2 = none → Traps s (e.1 f) 4 0 0 u) ∧
          (∀ v, csrWrite u c n e.2 = some v → Completes s (e.1 f) (setGOf v c f.rd old)))))

/-- The defined CSR numbers are those of R104 and R311. A written CSR of strand, tile, context or device scope reads back what was written in its writable bits and 0 in the others (WAITDEF, FPSTAT, RMDYN, TVEC, TPC, TCAUSE, TDETAIL0, TDETAIL1, TREP, TSCRATCH, SKEWBOUND, TRACE, LEASECTL); TSTATUS takes SS, TKD and PM and keeps NEST and PEND; LEASECTL stores 1 for 0 and RESQUOTA stores 24,576 for a larger number; a floor is written only while the floors stay within 24,576 granules, and every other write of a CSR of strand, tile or device scope succeeds. (R104, R105, R106, R107, R109, R110, R111, R311.) -/
def Obligations.CsrMaps : Prop :=
  (∀ (s : State) (c : CoreId) n, (csrRead s c n).isSome = decide (n ∈
    [0x000, 0x001, 0x002, 0x400, 0x401, 0x402, 0x403, 0x404, 0x405, 0x406, 0x800, 0x801, 0x802, 0x810, 0x811, 0x812,
     0x813, 0x814, 0x815, 0x816, 0x820, 0x821, 0x822, 0x823, 0x824, 0x825, 0x826, 0x827, 0x828])) ∧
  (∀ (s v : State) (c : CoreId) w, ∀ e ∈ ([(0x000, 0x3FF), (0x001, 0x3F3F), (0x002, 7), (0x820, 0x000FFFFFFFFFFFC0),
      (0x821, 0xFFFFFFFFFFFFFFFF), (0x822, 0x1FF), (0x823, 0xFFFFFFFFFFFFFFFF), (0x824, 0xFFFFFFFFFFFFFFFF),
      (0x825, 0xFFF003FFFFFFFFFF), (0x827, 0xFFFFFFFFFFFFFFFF)] : List (Nat × Word)),
    csrWrite s c e.1 w = some v → csrRead v c e.1 = some (w &&& e.2)) ∧
  (∀ (s : State) (c : CoreId) w, ∀ n ∈ [0x000, 0x001, 0x002, 0x802, 0x820, 0x821, 0x822, 0x823, 0x824, 0x825, 0x826, 0x827],
    (csrWrite s c n w).isSome = true) ∧
  (∀ (s v : State) (c : CoreId) w ctx x, coreCtx s c = some ctx → tabFind s.ctxs ctx = some x →
    (csrWrite s c 0x801 w = some v → csrRead v c 0x801 = some (w &&& 0xFFFFFFFF)) ∧
    (csrWrite s c 0x828 w = some v → csrRead v c 0x828 = some (w &&& 7)) ∧
    (csrWrite s c 0x800 w = some v → csrRead v c 0x800 = some (BitVec.ofNat 64 (min 24576 (w.toNat % 2 ^ 15))))) ∧
  (∀ (s v : State) (c : CoreId) w, csrWrite s c 0x802 w = some v →
    csrRead v c 0x802 = some (if w &&& 0xFFFF = 0 then 1 else w &&& 0xFFFF)) ∧
  (∀ (s v : State) (c : CoreId) w, csrWrite s c 0x826 w = some v →
    csrRead v c 0x826 = (csrRead s c 0x826).map (fun old => (old &&& ~~~7) ||| (w &&& 7))) ∧
  (∀ (s : State) (c : CoreId) k w, k < 7 →
    let sum := (((getTile s (coreTile s c)).floors.toList.map (·.toNat)).set k (w.toNat % 2 ^ 15)).sum
    (24576 < sum → csrWrite s c (0x810 + k) w = none) ∧
    (∀ v, csrWrite s c (0x810 + k) w = some v → csrRead v c (0x810 + k) = some (w &&& 0x7FFF)))

/-- BR, BCC, BCALL and LOOP take their branch under their condition to the block of the branch plus 64 times the signed offset; LOOP decrements its counter mod 2^64 first, BCALL writes the link when taken; a taken target below 0 or from 2^52 on traps ADDRRANGE with no register changed, and a branch not taken moves to the next word. JR and JRL go to the value of Ga, which traps ADDRRANGE above the address space and then ALIGNBR off a block, and JRL writes the link to Gd. NOP has no effect of its own. (R78, R79.) -/
def Obligations.BranchResults : Prop :=
  ∀ (s u : State) (c : CoreId),
    let g := (getStrand s c).getG
    let blk : Word := (getStrand s c).pc &&& 0xFFFFFFFFFFFFFFC0
    (∀ f : FB,
      let target : Int := blk.toNat + f.off.toInt * 64
      let inSpace := 0 ≤ target ∧ target < 2 ^ 52
      let n := g f.ra - 1
      let cond := condHolds f.cond.toNat (g f.ra) (g f.rb)
      ∀ e ∈ ([(.br, true, u, u), (.bcc, cond, u, u), (.bcall, cond, u, setGOf u c 31 (blk + 64)),
          (.loop, decide (n ≠ 0), setGOf u c f.ra n, setGOf u c f.ra n)] : List ((FB → Instr) × Bool × State × State)),
        Issues s c (e.1 f) u →
          (e.2.1 = true → inSpace → JumpsTo s (e.1 f) (BitVec.ofInt 64 target) e.2.2.2) ∧
          (e.2.1 = true → ¬ inSpace → Traps s (e.1 f) 19 0 0 u) ∧
          (e.2.1 = false → Completes s (e.1 f) e.2.2.1)) ∧
    (∀ f : FR, ∀ e ∈ ([(.jr, u), (.jrl, setGOf u c f.rd (blk + 64))] : List ((FR → Instr) × State)),
      Issues s c (e.1 f) u →
        ((g f.ra).toNat < 2 ^ 52 → (g f.ra).toNat % 64 = 0 → JumpsTo s (e.1 f) (g f.ra) e.2) ∧
        (2 ^ 52 ≤ (g f.ra).toNat → Traps s (e.1 f) 19 0 0 u) ∧
        ((g f.ra).toNat < 2 ^ 52 → (g f.ra).toNat % 64 ≠ 0 → Traps s (e.1 f) 6 0 0 u)) ∧
    (∀ f : FR, Issues s c (.nop f) u → Completes s (.nop f) u)

/-- FORK on C starts the idle strand that FN8 names at its target, with G1 to G8, WAITDEF, RMDYN and the FPSTAT enables of C and every other register and flag 0, and nothing else; a target outside the address space traps ADDRRANGE and a strand that is not IDLE RDVMISMATCH (24). RDV on L, X or S makes the strand ARRIVED with its registers kept, and where no strand of the tile waits at its TILE barrier, which the arrival may complete (R266), it changes no other tile, no context and no memory; on C it completes when every other strand is IDLE or ARRIVED, and every ARRIVED strand becomes IDLE; else it waits with KIND 1. (R80, R81, R92.) -/
def Obligations.ForkAndRendezvous : Prop :=
  (∀ (s u : State) (t q : Nat) (f : FS), Issues s (.tile t q) (.fork f) u →
    let c := CoreId.tile t q
    let target : Int := ((getStrand s c).pc &&& 0xFFFFFFFFFFFFFFC0).toNat + f.imm.toInt * 64
    let inSpace := 0 ≤ target ∧ target < 2 ^ 52
    let d := CoreId.tile t f.fn8.toNat
    (¬ inSpace → Traps s (.fork f) 19 0 0 u) ∧
    (inSpace → (getStrand u d).run ≠ .idle → Traps s (.fork f) 24 0 0 u) ∧
    (inSpace → (getStrand u d).run = .idle → ∃ x : Strand, Completes s (.fork f) (setStrand u d x) ∧
      x.run = .running ∧ x.mode = .user ∧ x.pc = BitVec.ofInt 64 target ∧
      (∀ r : BitVec 6, 1 ≤ r.toNat → r.toNat ≤ 8 → x.getG r = (getStrand s c).getG r) ∧
      (∀ r : BitVec 6, 9 ≤ r.toNat → r.toNat < 32 → x.getG r = 0) ∧ (∀ n, x.getA n = 0) ∧
      x.waitdef = (getStrand s c).waitdef ∧ x.rmdyn = (getStrand s c).rmdyn ∧ x.fpEn = (getStrand s c).fpEn ∧
      x.fpFlags = 0)) ∧
  (∀ (s u : State) (t q : Nat) (f : FQ), Issues s (.tile t q) (.rdv f) u →
    let c := CoreId.tile t q
    let others := [1, 2, 3].map (fun p => ((getTile u t).strand p).run)
    (q % 4 ≠ 0 → ∃ v, exec (.rdv f) s = .next v ∧ (getStrand v c).run = .arrived ∧
      (getStrand v c).g = (getStrand s c).g ∧ (getStrand v c).a = (getStrand s c).a ∧
      ((∀ p ∈ [0, 1, 2, 3], atTileBarrier ((getTile u t).strand p) = false) →
        v.ctxs = u.ctxs ∧ v.mem = u.mem ∧ ∀ k, k ≠ t → getTile v k = getTile u k)) ∧
    (q % 4 = 0 → (∀ r ∈ others, r = .idle ∨ r = .arrived) → ∃ x : Tile, Completes s (.rdv f) (setTile u t x) ∧
      { x with strands := (getTile u t).strands } = getTile u t ∧
      ∀ p, x.strand p = if ((getTile u t).strand p).run = .arrived then { (getTile u t).strand p with run := .idle }
        else (getTile u t).strand p) ∧
    (q % 4 = 0 → ¬ (∀ r ∈ others, r = .idle ∨ r = .arrived) → ∃ w, w.what = .rdvJoin ∧ w.kind = 1 ∧ Waits s (.rdv f) w u)) ∧
  (∀ (s u : State) (g : Nat) (f : FQ), Issues s (.sbox g) (.rdv f) u → Completes s (.rdv f) u)

/-- END on C traps RDVMISMATCH when a strand of the tile is not IDLE. Else, with an unretired command of the task, it waits with KIND 10; with none, the task retires: its tile is free, and every register, coupling, event flag and M, P, Q and D content of the tile reads as on a tile without a task, while the other tiles keep theirs. On a tile with a pre-emption under way the words that wait for it are answered 0 after that (R306); where the task is the last of a lap of a launch with a skew bound that its spread exceeds, and no skew event is pending, the launch holds the skew record (R222), and one within its bound holds none. END of a core program waits for its commands and then ends the program, which Nguka reports (R363, R377); that the code of this report is 0 is the model's reading, log entry 31. TASK_RETIRE lets an END that waits retire the task when the last command has retired; where an error of a command is due on C, C takes it instead (R203). (R82, R203, R222, R306, R363, R377, log entry 31.) -/
def Obligations.TaskEnd : Prop :=
  (∀ (s u : State) (t q : Nat) (f : FR), Issues s (.tile t q) (.endTask f) u →
    let idle := ∀ p ∈ [1, 2, 3], ((getTile u t).strand p).run = .idle
    (¬ idle → Traps s (.endTask f) 24 0 0 u) ∧
    (∀ k, idle → (getTile u t).task = some k → taskCmds u t k ≠ [] → Waits s (.endTask f) taskEndWait u) ∧
    (∀ k, idle → (getTile u t).task = some k → taskCmds u t k = [] →
      (∀ l, tabFind u.launches k.launch = some l → l.bound = 0) →
      ∃ v, exec (.endTask f) s = .next (answerPreempt v t (getTile u t).preempt 0) ∧ (getTile v t).task = none ∧ (getTile v t).flags = 0 ∧ (getTile v t).m = [] ∧
        (∀ p, (getTile v t).strand p = Strand.blank) ∧ (∀ a b, (getTile v t).coupling a b = 0) ∧
        (getTile v t).qs = Vector.replicate 8 Queue.empty ∧ (getTile v t).ds = Vector.replicate 4 Queue.empty ∧
        (getTile v t).p = Vector.replicate 8 0 ∧ (getTile v t).floors = (getTile u t).floors ∧
        (∀ j, j ≠ t → getTile v j = getTile u j)) ∧
    (∀ k l i, idle → (getTile u t).task = some k → taskCmds u t k = [] → (getTile u t).preempt = none →
      tabFind u.launches k.launch = some l → k.index = some i → l.left = 1 → l.entries.length ≠ 1 → l.bound ≠ 0 →
      l.skew = 0 → l.outcome = 0 →
      let spread := u.cycle - l.firstEnd
      ∃ v y, exec (.endTask f) s = .next v ∧ (getTile v t).task = none ∧ tabFind v.launches k.launch = some y ∧ y.left = 0 ∧
        y.retired = l.retired + 1 ∧
        (l.bound < spread → y.raised = true ∧ y.skew =
          BitVec.ofNat 64 (2 ^ 63 + (l.lap % 2 ^ 16) * 2 ^ 47 + (i % 2 ^ 16) * 2 ^ 31 + min spread (2 ^ 31 - 1))) ∧
        (spread ≤ l.bound → y.raised = l.raised ∧ y.skew = 0))) ∧
  (∀ (w : State) (t n k q : Nat) (r : Preempt) (d : Nat) (g : FS) (x : Wait) (j : Task),
    let c := CoreId.tile k q
    r.by_ = [(d, c)] → (getTile w k).task = some j → j.ctx = d → (getStrand w c).run = .waiting →
    (getStrand w c).wait = some x → (x.instr = .preemptK g ∨ x.instr = .preemptR g) →
    ((getStrand w c).getG g.ra).toNat % 256 = t →
      answerPreempt w t (some r) n = completeWait (setGOf w c g.rb (BitVec.ofNat 64 n)) c) ∧
  (∀ (s u : State) (g : Nat) (f : FR), Issues s (.sbox g) (.endTask f) u →
    (coreCmds u (.sbox g) ≠ [] → Waits s (.endTask f) taskEndWait u) ∧
    (coreCmds u (.sbox g) = [] → ∃ v, exec (.endTask f) s = .next v ∧ (getStrand v (.sbox g)).run = .idle ∧
      tabFind v.boxProgs g = none ∧ v.reports = u.reports ++ [(g, 0)] ∧ v.tiles = u.tiles ∧ v.ctxs = u.ctxs ∧ v.mem = u.mem ∧
      (∀ j, j ≠ g → tabFind v.boxProgs j = tabFind u.boxProgs j ∧ getStrand v (.sbox j) = getStrand u (.sbox j)))) ∧
  (∀ (s : State) (t : Nat) (w : Wait) (f : FR) (k : Task),
    let c := CoreId.tile t 0
    let s1 := { s with cur := c }
    (getStrand s c).run = .waiting → (getStrand s c).wait = some w → w.what = .taskEnd → w.instr = .endTask f →
    ∀ u, Issues s1 c (.endTask f) u → (∀ p ∈ [1, 2, 3], ((getTile u t).strand p).run = .idle) →
    (getTile u t).task = some k → taskCmds u t k = [] →
    preemptHolds s c = false → preemptedDue s c = false →
      (errorDue s c = false → Happens s (.taskRetire t) (acts (retireTask u t k) c)) ∧
      (errorDue s c = true → Happens s (.taskRetire t) (takeError s c)))

/-- YIELD completes and its strand pauses for max(1, Ga[19:0]) clocks, at whose end PAUSE_END lets it issue again, with the DEBUG that single step has made due first; before then PAUSE_END does nothing. WFE with a set wake latch writes its reason bits to Gd and clears it; else it pauses until WFE_WAKE finds the latch set, which completes it in the same way, or until Ga[31:0] clocks have passed where that is not zero, which writes bit 5. That YIELD completes, gives and moves the PC before its pause, with DEBUG at the end of the pause, is the model's choice of log entry 58, and that its clocks count from the one in which it issues that of log entry 77; what the latch does when WFE begins and ends, and that the timeout counts only where nothing was latched, are the model's reading of log entry 52. (R83, R318, log entry 52, log entry 58, log entry 77.) -/
def Obligations.PausesAndWakes : Prop :=
  (∀ (s u : State) (c : CoreId) (f : FR), Issues s c (.yield f) u →
    Completes s (.yield f) (modStrand u c (fun st => { st with
      pause := some (.yield (u.cycle + max 1 (((getStrand s c).getG f.ra).toNat % 2 ^ 20)) none) }))) ∧
  (∀ (s : State) (c : CoreId) n due, (getStrand s c).pause = some (.yield n due) →
    let v := modStrand s c (fun st => { st with pause := none })
    (n ≤ s.cycle → due = none → Happens s (.pauseEnd c) v) ∧
    (∀ fpc, n ≤ s.cycle → due = some fpc →
      Happens s (.pauseEnd c) (trapAfter v c { cond := 43 } fpc (getStrand s c).pc)) ∧
    (s.cycle < n → Idles s (.pauseEnd c))) ∧
  (∀ (s u : State) (c : CoreId) (f : FS), Issues s c (.wfe f) u →
    let latch := (getStrand u c).wake
    let clocks := ((getStrand s c).getG f.ra).toNat % 2 ^ 32
    (latch ≠ 0 → Completes s (.wfe f) (modStrand u c (fun st =>
      { st.setG f.rb (latch.setWidth 64) with wake := 0, pause := none }))) ∧
    (latch = 0 → Happens s (.wfe f) (modStrand u c (fun st => { st with
      wait := none, pause := some (.wfe (if clocks = 0 then none else some (u.cycle + clocks)) f) })))) ∧
  (∀ (s : State) (c : CoreId) (f : FS) till, (getStrand s c).pause = some (.wfe till f) →
    let done := fun (bits : BitVec 6) => retireWord (modStrand s c (fun st =>
      { st.setG f.rb (bits.setWidth 64) with wake := 0, pause := none })) c (.wfe f) ((getStrand s c).pc + 8)
    ((getStrand s c).wake ≠ 0 → Happens s (.wfeWake c) (done (getStrand s c).wake)) ∧
    (∀ n, (getStrand s c).wake = 0 → till = some n → n ≤ s.cycle → Happens s (.wfeWake c) (done 32)) ∧
    ((getStrand s c).wake = 0 → (∀ n, till = some n → s.cycle < n) → Idles s (.wfeWake c)))

/-- TKGIVE adds n tokens to the coupling to the peer QN names, and traps CPLOVER when they and its own give to that peer would raise it above 63; TKTAKE removes n tokens from the coupling from the peer once that many are there from earlier clocks, and else waits with KIND 0; TKCNT writes the count of the coupling from the peer, or with bit 3 of QN of that to the peer. Each leaves the rest of the machine as it is, but for the wake latch of the peer that TKGIVE adds to and for the note of the clock in which tokens came (R73). (R85.) -/
def Obligations.ExplicitTokens : Prop :=
  ∀ (s u : State) (t q : Nat) (f : FQ),
    let c := CoreId.tile t q
    let self := q % 4
    let peer := (self + f.qn.toNat % 4) % 4
    let out := (getTile u t).coupling self peer
    let inn := (getTile u t).coupling peer self
    let n := f.aux.toNat
    let own := if giveOf (.tkgive f) ≠ 0 ∧ (self + giveOf (.tkgive f)) % 4 = peer then 1 else 0
    (Issues s c (.tkgive f) u →
      (out + n + own ≤ 63 → Completes s (.tkgive f)
        (modStrand (modTile u t (fun x => x.give self peer n)) (.tile t peer)
          (fun st => { st with wake := st.wake ||| 2 }))) ∧
      (63 < out + n + own → Traps s (.tkgive f) 23 0 0 (modTile u t (fun x => x.overflowed self peer)))) ∧
    (Issues s c (.tktake f) u →
      (n ≤ (getTile u t).takable peer self → Completes s (.tktake f) (modTile u t (fun x => x.setCoupling peer self (inn - n)))) ∧
      ((getTile u t).takable peer self < n → Waits s (.tktake f)
        { what := .tokens, kind := 0, name := 4 * peer + self, psrc := peer, prod := some peer } u)) ∧
    (Issues s c (.tkcnt f) u →
      Completes s (.tkcnt f) (setGOf u c f.rc (BitVec.ofNat 64 (if f.qn.getLsbD 3 then out else inn)))) ∧
    ((getTile u t).give self peer n).coupling self peer = out + n ∧
    ((getTile u t).give self peer n).takable self peer = (getTile u t).takable self peer

/-- RDV_JOIN, COUPLING_TAKE, SEGMENT_WAIT_END, QUEUE_SPACE_WAIT_END, EWAIT_COMPLETE, REL_ORDER_WAIT_END, FENCE_COMPLETE, ACQBUF_GRANT, BAR_COMPLETE, QRD_LINE_ISSUE, QWR_LINE_WRITE, LINE_OPERANDS_READY and SEMWAIT_GRANT: when the core the event names waits for what the event brings, no pre-emption holds it and no held error or PREEMPTED is due, and the waiting word takes effect and its effect completes, the event leads to the state in which the word has retired, and the core issues no other word in this clock (R70); a trap that is due is taken instead (R203, R310), and a pre-emption that holds the core leaves everything as it is (R177); when it waits for nothing of the kind, the event changes nothing. (R27, R70, R81, R136, R143, R146, R177, R203, R209, R248, R254, R264.) -/
def Obligations.WaitEndsRunTheWord : Prop :=
  ∀ (s : State) (core : CoreId) (t g m : Nat),
    ∀ e ∈ ([(.rdvJoin t, .tile t 0, [.rdvJoin]), (.couplingTake core, core, [.take, .tokens]),
      (.segmentWaitEnd core, core, [.segment]), (.queueSpaceWaitEnd core, core, [.engineSpace]),
      (.ewaitComplete core, core, [.ewait]), (.relOrderWaitEnd core, core, [.relOrder]),
      (.fenceComplete core, core, [.fence]), (.acqbufGrant core, core, [.buffer]), (.barComplete core, core, [.barrier]),
      (.qrdLineIssue t, .tile t 1, [.queueSpace]), (.qwrLineWrite t, .tile t 3, [.drainLine]),
      (.lineOperandsReady t, .tile t 2, [.lineOperands])] ++
      ((getSem s (semKey g m)).queue.head?.map (fun c => (Instr.semwaitGrant g m, c, [WaitFor.semaphore]))).toList :
      List (Instr × CoreId × List WaitFor)),
      let c := e.2.1
      (∀ w, (getStrand s c).run = .waiting → (getStrand s c).wait = some w → w.what ∈ e.2.2 →
        (preemptHolds s c = true → Idles s e.1) ∧
        (preemptHolds s c = false → preemptedDue s c = true → Happens s e.1 (takePreempted s (coreTile s c))) ∧
        (preemptHolds s c = false → preemptedDue s c = false → errorDue s c = true → Happens s e.1 (takeError s c)) ∧
        (preemptHolds s c = false → preemptedDue s c = false → errorDue s c = false →
          ∀ u v b, bodyOf w.instr = some b → Issues { s with cur := c } c w.instr u → b c u = .retire v →
            let r := retireWord v c w.instr ((getStrand v c).pc + 8)
            (getStrand r c).run ≠ .waiting → Happens s e.1 (acts r c))) ∧
      (((getStrand s c).run ≠ .waiting ∨ ∀ w, (getStrand s c).wait = some w → w.what ∉ e.2.2) → Idles s e.1)

/-- A wait is bounded by its code: (64 + c[5:0]) times 2 to the c[9:6] clocks, 64 for code 0. When the count of a wait exceeds the bound, STALL traps condition 21 with KIND, the waiting sequencer, the source of the party that would end the wait, whether it is a strand of the task, the name, the code and the clocks counted in DETAIL0, and the last program counter of that strand, or 0, in DETAIL1; the word has consumed nothing. What is awaited is what the word, looked at when it traps, lacks then (R75): a look that finds it waiting on the same condition gives the name and the party of that look. That PV is 1 with a program counter of 0 for a strand that has issued no word is the model's choice, log entry 78. While the count is within its bound, or the strand does not wait, STALL changes nothing. (R74, R75, log entry 78.) -/
def Obligations.StallTrap : Prop :=
  (∀ c : BitVec 10, boundClocks c =
    if c = 0 then 64 else (64 + c.toNat % 64) * 2 ^ (c.toNat / 64)) ∧
  (∀ (s : State) (core : CoreId),
    ((getStrand s core).run ≠ .waiting ∨
      ((getStrand s core).wait.all (fun w => !w.bounded || decide (w.count ≤ boundClocks w.code))) = true) → Idles s (.stall core)) ∧
  (∀ (s : State) (t q : Nat) (w : Wait),
    let c := CoreId.tile t q
    (getStrand s c).run = .waiting → (getStrand s c).wait = some w → w.bounded = true → boundClocks w.code < w.count →
    w.count < 2 ^ 32 →
      let y := (lookedWait s c w).getD w
      let d0 := y.kind.toNat * 2 ^ 60 + (q % 4) * 2 ^ 58 + y.psrc.toNat * 2 ^ 55 + (if y.prod.isSome then 2 ^ 54 else 0)
        + y.name.toNat * 2 ^ 42 + w.code.toNat * 2 ^ 32 + w.count
      Happens s (.stall c) (trapCore s c
        { cond := 21, d0 := BitVec.ofNat 64 d0,
          d1 := match y.prod with | some p => (getStrand s (.tile t p)).lastPc | none => 0 })) ∧
  (∀ (s u v : State) (c : CoreId) (w : Wait) (x : WaitSpec) (b : Body), (getStrand s c).wait = some w → bodyOf w.instr = some b →
    Issues { s with cur := c } c w.instr u → b c u = .wait x v → w.what = x.what → w.kind.toNat = x.kind →
    (w.what = .lineOperands → w.name.toNat = x.name) →
      lookedWait s c w = some { w with name := BitVec.ofNat 12 x.name, psrc := BitVec.ofNat 3 x.psrc, prod := x.prod })

/-- Taking a trap of a word on strand q of a tile writes TPC with the PC of the word (the REP in a sequence), TCAUSE with the condition times 8 plus q, or plus 4 for the matrix engine, the two details, TREP, TKD and PM, and changes no G, A, M, P or other register. In user mode with a handler the strand goes on in supervisor mode at TVEC with NEST 0; in supervisor mode, or with TVEC = 0, it is PARKED with NEST 1 where it stands, and an entry of its context's fault queue is posted; a strand that waited keeps its wait, with its stall counter, unless the trap is STALL (R74), and at a semaphore with a fresh counter (R256). No context changes before that entry, but for the copies that an SALLOC in progress has made (R136). The strand does no more in that clock (R314). (R7, R74, R136, R256, R312, R313, R314.) -/
def Obligations.TrapEntry : Prop :=
  ∀ (s : State) (t q : Nat) (x : TrapInfo),
    let c := CoreId.tile t q
    let st := getStrand s c
    let tvec := (getTile s t).tvec
    let cause := BitVec.ofNat 9 (x.cond * 8 + (if x.engine then 4 else q % 4))
    let pc := if st.rep.any (fun r => r.word.isSome) then st.pc + 8 else st.pc
    let rest := fun (v : State) => v.mem = s.mem ∧ (st.making = none → v.ctxs = s.ctxs) ∧ (getTile v t).m = (getTile s t).m ∧
      (getTile v t).p = (getTile s t).p ∧ (getTile v t).flags = (getTile s t).flags ∧
      (getTile v t).couplings = (getTile s t).couplings ∧ (getTile v t).task = (getTile s t).task ∧
      (getTile v t).mx.active = (getTile s t).mx.active ∧ (getTile v t).mx.shadow = (getTile s t).mx.shadow ∧
      (∀ p, p % 4 ≠ q % 4 → (getTile v t).strand p = (getTile s t).strand p) ∧
      (∀ k, k ≠ t → (getTile v k).strands = (getTile s k).strands) ∧ ∀ d, d ∈ v.acted ↔ d ∈ s.acted ∨ d = c
    (st.mode = .user → tvec ≠ 0 →
      let v := trapCore s c x
      Framed (getStrand v c) st cause x.d0 x.d1 st.pc (repState st.rep) st.takeDone ∧
      (getStrand v c).mode = .supervisor ∧ (getStrand v c).pc = tvec.setWidth 64 ∧ (getStrand v c).nest = false ∧
      (getStrand v c).run = .running ∧ (getStrand v c).wait = none ∧ rest v) ∧
    ((st.mode = .supervisor ∨ tvec = 0) → ∃ v,
      Framed (getStrand v c) st cause x.d0 x.d1 st.pc (repState st.rep) st.takeDone ∧
      (getStrand v c).mode = st.mode ∧ (getStrand v c).pc = st.pc ∧ (getStrand v c).nest = true ∧
      (getStrand v c).run = .parked ∧ (getStrand v c).park = some .trapped ∧
      (getStrand v c).wait = (if st.run = .waiting ∧ cause.toNat / 8 ≠ 21 then
        st.wait.map (fun w => if w.what = .semaphore then { w with count := 0 } else w) else none) ∧ rest v ∧
      (∀ k, (getTile s t).task = some k → trapCore s c x = fqPark v k.ctx c cause 0 pc) ∧
      ((getTile s t).task = none → trapCore s c x = v))

/-- Outside a sequence REPSTATE is 0. In a sequence V is 1, REM holds the passes left, from 1 to 1,024, and OFFD, OFFA and OFFB hold the three step sums as signed 14-bit numbers; reading the word back gives the sequence. (R87.) -/
def Obligations.RepStateLayout : Prop :=
  repState none = 0 ∧ repOfState 0 = none ∧
  (∀ r : Rep, 1 ≤ r.rem → r.rem ≤ 1024 →
    (repState (some r)).getLsbD 63 = true ∧
    ((repState (some r)).extractLsb' 52 11).toNat = r.rem ∧
    (repState (some r)).extractLsb' 42 10 = 0 ∧
    (repState (some r)).extractLsb' 28 14 = BitVec.ofInt 14 r.offd ∧
    (repState (some r)).extractLsb' 14 14 = BitVec.ofInt 14 r.offa ∧
    (repState (some r)).extractLsb' 0 14 = BitVec.ofInt 14 r.offb) ∧
  (∀ r : Rep, 1 ≤ r.rem → r.rem ≤ 1024 → (∀ x ∈ [r.offd, r.offa, r.offb], -8192 ≤ x ∧ x ≤ 8191) →
    repOfState (repState (some r)) = some { r with word := none })

/-- TRAP retires, its give made, and takes SWTRAP with TPC at the word after it, IMM32 zero-extended in TDETAIL0 and 0 in TDETAIL1; in supervisor mode, or without a handler, it parks there (R313). ERET traps ADDRRANGE when TPC bits 63:52 are not zero and then ALIGNBR when bits 2:0 are not, with the frame unchanged; else the strand goes on in the mode of PM (a core program in supervisor mode, R308) at TPC, with the take done if TKD is set and the sequence of TREP, and TKD is cleared; nothing else of the strand changes, G, A, WAITDEF, FPSTAT, RMDYN and the other frame registers among it, and nothing of the rest of the machine: not the M, P, Q and D files, the couplings (but for the give), the other strands (but for the wake latch of the peer that the give reaches), the other tiles, memory or contexts. (R43, R308, R313, R317.) -/
def Obligations.TrapAndReturn : Prop :=
  (∀ (s u : State) (t q : Nat) (f : FS), Issues s (.tile t q) (.trap f) u →
    let c := CoreId.tile t q
    let st := getStrand s c
    ∃ v, exec (.trap f) s = .next v ∧
      ((st.mode = .supervisor ∨ (getTile s t).tvec = 0) → (getStrand v c).run = .parked ∧ (getStrand v c).park = some .trapped ∧
        (getStrand v c).nest = true ∧ (getStrand v c).mode = st.mode ∧ (getStrand v c).pc = st.pc + 8 ∧
        (getStrand v c).tpc = st.pc + 8 ∧ (getStrand v c).tcause = BitVec.ofNat 9 (q % 4) ∧
        (getStrand v c).tdetail0 = f.imm.setWidth 64 ∧ (getStrand v c).tdetail1 = 0) ∧
      (st.mode = .user → (getTile s t).tvec ≠ 0 →
      Framed (getStrand v c) (getStrand u c) (BitVec.ofNat 9 (q % 4)) (f.imm.setWidth 64) 0 (st.pc + 8) 0 false ∧
      (getStrand v c).mode = .supervisor ∧ (getStrand v c).pc = (getTile s t).tvec.setWidth 64 ∧
      (getStrand v c).run = .running ∧ (getStrand v c).wait = none ∧
      (∀ a b, a < 4 → b < 4 → (getTile v t).coupling a b = (getTile u t).coupling a b +
        (if giveOf (.trap f) ≠ 0 ∧ a = q % 4 ∧ b = peerOf (q % 4) (giveOf (.trap f)) then 1 else 0)))) ∧
  (∀ (s u : State) (c : CoreId) (f : FS), Issues s c (.eret f) u →
    let st := getStrand u c
    (2 ^ 52 ≤ st.tpc.toNat → Traps s (.eret f) 19 0 0 u) ∧
    (st.tpc.toNat < 2 ^ 52 → st.tpc.toNat % 8 ≠ 0 → Traps s (.eret f) 6 0 0 u) ∧
    (st.tpc.toNat < 2 ^ 52 → st.tpc.toNat % 8 = 0 → ∃ v, exec (.eret f) s = .next v ∧
      getStrand v c = { st with
        mode := (if st.pm = true ∨ isBox c = true then .supervisor else .user), pc := st.tpc, takeDone := st.tkd, tkd := false,
        rep := repOfState st.trep, run := .running, wait := none, pause := none, park := none } ∧
      (match c with
       | .sbox g => { v with boxes := u.boxes, boxIdle := u.boxIdle } = u ∧
           ∀ j, j ≠ g → getStrand v (.sbox j) = getStrand u (.sbox j)
       | .tile t q =>
         let n := giveOf (.eret f)
         let peer := peerOf (q % 4) n
         { v with tiles := u.tiles } = u ∧ (∀ k, k ≠ t → getTile v k = getTile u k) ∧
         { getTile v t with strands := (getTile u t).strands, couplings := (getTile u t).couplings,
                            given := (getTile u t).given } = getTile u t ∧
         (∀ a b, a < 4 → b < 4 → (getTile v t).coupling a b = (getTile u t).coupling a b +
           (if n ≠ 0 ∧ a = q % 4 ∧ b = peer then 1 else 0)) ∧
         (∀ p, p % 4 ≠ q % 4 → (getTile v t).strand p =
           if n ≠ 0 ∧ p % 4 = peer then { (getTile u t).strand p with wake := ((getTile u t).strand p).wake ||| 2 }
           else (getTile u t).strand p))))

/-- HELD_ERROR_TAKE and ENGINE_ERROR_TRAP: on a tile strand in user mode that is to issue its next word, or waits, without a pause, that has done nothing in this clock and has no row of an MSTREAM in the array, the oldest held error is taken as a trap at the word of the PC with its condition, source and details, and the later ones stay held; REPSTATE is that of a sequence in force, and 0 where ERET has restored one and the word is no REP (R87); errors held on an ARRIVED or IDLE L, X or S pass to C in their order; in supervisor mode, inside a word in progress, and in a clock in which the strand has issued or trapped already, nothing changes. (R87, R175, R203, R314, R315.) -/
def Obligations.EngineErrorsTaken : Prop :=
  ∀ (s : State) (t q : Nat), ∀ ev ∈ ([.heldErrorTake (.tile t q), .engineErrorTrap (.tile t q)] : List Instr),
    let c := CoreId.tile t q
    let st := getStrand s c
    let rep := st.rep.bind (fun r => if r.word.isSome || (peekWord s c st.pc.toNat).any isRep then some r else none)
    (∀ e rest, st.errors = e :: rest → st.mode = .user → st.pause = none →
      ((st.run = .running ∧ st.going = none) ∨ st.run = .waiting) → c ∉ s.acted → (q % 4 = 2 → (getTile s t).mx.wave = none) →
      (getTile s t).tvec ≠ 0 → ∃ v, Happens s ev v ∧
        Framed (getStrand v c) { st with errors := rest } (BitVec.ofNat 9 (e.cond * 8 + e.src)) e.d0 e.d1 st.pc (repState rep)
          st.takeDone ∧ (getStrand v c).wait = none ∧
        (getStrand v c).mode = .supervisor ∧ (getStrand v c).pc = (getTile s t).tvec.setWidth 64) ∧
    (st.mode = .supervisor ∨ c ∈ s.acted ∨ (st.run = .running ∧ st.going ≠ none) → st.run ≠ .arrived → st.run ≠ .idle →
      Idles s ev) ∧
    (q % 4 ≠ 0 → st.errors ≠ [] → (st.run = .arrived ∨ st.run = .idle) → ∃ v, Happens s ev v ∧
      (getStrand v c).errors = [] ∧ (getStrand v (.tile t 0)).errors = (getStrand s (.tile t 0)).errors ++ st.errors)

/-- REP with CNT10 runs that many passes, 1,024 for 0. It checks the word after it, takes its take once, and each pass that retires leaves one fewer, with the steps added; a word of group 0x0_ or 0xF_ there traps BADFIELD. The last pass makes the give once and moves behind the governed word. A pass executes the word with the INDEX of each line operand stepped mod 64, of every F-L form and of LDL and STL, and with its DISP18 moved by 64 bytes for each unit of OFFA. (R39, R40, R86.) -/
def Obligations.RepSequences : Prop :=
  (∀ (s : State) (c : CoreId) (f : FP) (g : Instr),
    s.cur = c → decodeTrap s c (.rep f) = none →
    let pass := fun (s2 : State) (r : Rep) => ∀ b v, bodyOf (stepWord r g) = some b →
      b c (modStrand s2 c (fun st => { st with lastPc := st.pc + 8, run := .running, dispStep := 64 * r.offa })) = .retire v →
      stepDue (getStrand v c) = false →
      exec (.rep f) s = .next (if r.rem ≤ 1 then moveOn (giveToken v c g) c ((getStrand v c).pc + 16)
        else modStrand v c (fun st => { st with
          wait := none, run := .running, granted := none, going := none,
          spawning := none, making := none, staged := none, step := 0, met := false, walk := none, pins := [], rep := some { r with
          rem := r.rem - 1, offd := r.offd + f.sd.toInt, offa := r.offa + f.sa.toInt, offb := r.offb + f.sb.toInt } }))
    let r0 : Rep := { rem := if f.cnt = 0 then 1024 else f.cnt.toNat, offd := 0, offa := 0, offb := 0, word := none }
    let s1 := modStrand s c (fun st => { st with rep := some r0 })
    let at8 := (getStrand s c).pc.toNat + 8
    ((getStrand s c).rep = none → ∀ w s2, wordAt s1 c at8 = some w → governedWord s1 c f w = .ok g →
      takeToken (judge s1 c g) c g = .ok s2 → giveOverflows s2 c g = false →
      pass (modStrand s2 c (fun st => { st with rep := some { r0 with word := some g } })) { r0 with word := some g }) ∧
    (∀ r, (getStrand s c).rep = some r → r.word = some g → pass (modStrand s c (fun st => { st with rep := some r })) r) ∧
    ((getStrand s c).rep = none → ∀ w, wordAt s1 c at8 = some w → decode w = .ok g → decodeTrap s1 c g = none →
      ((opOf g).toNat / 16 = 0 ∨ (opOf g).toNat / 16 = 15) → exec (.rep f) s = .next (trapCore s1 c { cond := 4 }))) ∧
  (∀ (r : Rep) (i : Instr) (op : BitVec 8) (f : FL), formOf i = some (op, .l f) →
    let step := fun (used : Bool) (l : BitVec 12) (n : Int) =>
      if used = false ∨ l.extractLsb' 6 2 = 3 then l else l.extractLsb' 6 6 ++ (l.extractLsb' 0 6 + BitVec.ofInt 6 n)
    let d := op ∉ ([0x55, 0x7B, 0x7C, 0x7D] : List (BitVec 8))
    let a := op ∉ ([0x57, 0x7D, 0x87] : List (BitVec 8))
    let b := (0x60 ≤ op ∧ op ≤ 0x65) ∨ op = 0x6D ∨ (0x70 ≤ op ∧ op ≤ 0x7C) ∨ op = 0x7E ∨ op = 0x84
    formOf (stepWord r i) = some (op, .l { f with
      ld := step (decide d) f.ld r.offd, la := step (decide a) f.la r.offa, lb := step (decide b) f.lb r.offb })) ∧
  (∀ (r : Rep) (h : FQ),
    let moved := { h with aux := h.aux.extractLsb' 6 4 ++ (h.aux.extractLsb' 0 6 + BitVec.ofInt 6 r.offd) }
    stepWord r (.ldl h) = .ldl moved ∧ stepWord r (.stl h) = .stl moved) ∧
  (∀ (r : Rep) (i : Instr), (∀ op f, formOf i ≠ some (op, .l f)) → (∀ h, i ≠ .ldl h ∧ i ≠ .stl h) → stepWord r i = i) ∧
  (∀ (st : Strand) (n : Int) (f : FM) (g : FG) (h : FQ),
    let moved := { st with dispStep := n }
    let still := { st with dispStep := 0 }
    offFM moved f = offFM still f + n ∧ addrFG moved g = addrFG still g + n ∧
      offFQ moved h = offFQ still h + n ∧ offFQ0 moved h = offFQ0 still h + n)

/-- An operand of n bytes at an exact offset in the segment that an A value names: NAME 0 traps SEGNULL (8); a name above 4,095 or unallocated or the name of an SALLOC that has not taken its place (R137), or a copy homed in another stack group, SEGNAME (9); a range outside the segment SEGBOUND (10); an offset off its alignment ALIGNDATA (7); a write to an RO segment SEGPROT (14), each with the A value and the exact offset as details and nothing changed; else it gives the copy of the replica on the own tile, or the copy on the home tile. (R114, R118, R119, R132, R137.) -/
def Obligations.SegmentOperandChecks : Prop :=
  ∀ (s : State) (ctx tile : Nat) (a : Word) (off : Int) (n align : Nat) (write : Bool),
    let res := segCheck s ctx tile a off n align write
    let bad := fun (cond : Nat) => res = .error (.trap { cond := cond, d0 := a, d1 := BitVec.ofInt 64 off } s)
    let name := (a.extractLsb' 32 16).toNat
    (name = 0 → bad 8) ∧
    (name ≠ 0 → 4095 < name ∨ findSeg s ctx name = none → bad 9) ∧
    (∀ g, name ≠ 0 → name ≤ 4095 → findSeg s ctx name = some g →
      let t := if attrReplica g.attr = true ∧ (tabFind g.copies tile).isSome then tile else g.home
      let inside := 0 ≤ off ∧ off + n ≤ g.bytes
      (g.making = true ∨ t / 32 ≠ tile / 32 → bad 9) ∧
      (g.making = false → t / 32 = tile / 32 → ¬ inside → bad 10) ∧
      (g.making = false → t / 32 = tile / 32 → inside → off.toNat % align ≠ 0 → bad 7) ∧
      (g.making = false → t / 32 = tile / 32 → inside → off.toNat % align = 0 → write = true → attrRo g.attr = true → bad 14) ∧
      (g.making = false → t / 32 = tile / 32 → inside → off.toNat % align = 0 → (write = true → attrRo g.attr = false) →
        res = .ok (⟨name, t, g⟩, off.toNat)))

/-- A word asks for the grant of one segment. A request that does not wait in the tile's queue already and asks for more granules than its client's floor traps FOOTPRINT (15) with nothing changed. With the copy RESIDENT, its client's pins within the floor, its quota large enough and no request ahead in the tile's queue it is granted at once: of the whole machine only the order of touches changes, and every byte of every segment reads as before. An absent copy puts the request into the queue of its tile, and the word waits without a bound. A queued request that comes to be admitted traps FOOTPRINT where its client's floor has been lowered below it, which is the model's choice of log entry 73, and QUOTA (12) where its quota can never give it; one that has been admitted is judged under the quota and the floor of its admission (R112). That DETAIL0 names the first segment of a footprint of several is log entry 12, and that Nguka asks as a client of its own log entry 20. (R112, R121, R125, R126, R127, R353, log entry 12, log entry 20, log entry 73.) -/
def Obligations.GrantInTheAskingStep : Prop :=
  (∀ (s : State) (c : CoreId) (ctx : Nat) (r : SegRef) (cp : SegCopy),
    let n := granOf r.seg.bytes
    let k := coreClient c
    let res := grantRefs s c k ctx [r]
    let floor := floorOf s r.tile k
    let quota := resQuota s ctx r.tile
    let possible := n + nopushGran s r.tile (some ctx) [r.name] ≤ quota
    findSeg s ctx r.name = some r.seg → tabFind r.seg.copies r.tile = some cp → (getStrand s c).granted = none →
      (floor < n → isQueued s r.tile (.core c) [(r.name, n)] = false →
        res = .error (.trap { cond := 15, d0 := mkA r.name 0, d1 := BitVec.ofNat 64 (n * 2 ^ 32 + floor) } s)) ∧
      (possible → (getTile s r.tile).grants = [] → cp.res = .resident → clientPinned s r.tile k + n ≤ floor →
        ∃ v, res = .ok v ∧ { v with ctxs := s.ctxs, touches := s.touches } = s ∧
          ∀ x m t i, segBytes v x m t i 1 = segBytes s x m t i 1) ∧
      (n ≤ floor → (getTile s r.tile).grants = [] → cp.res ≠ .resident →
        res = .error (.wait { what := .grant, kind := 11, name := 0, bounded := false }
          (modTile s r.tile (fun x => { x with
            grants := [{ party := some (.core c), from_ := coreTile s c, ctx := ctx, client := k, items := [(r.name, n)],
                         alloc := false, since := s.cycle, recalled := true, quota := quota, terms := none,
                         gathers := false }] }))))) ∧
  (∀ (s : State) (ctx tile k : Nat) (items : List (Nat × Nat)), k < 7 →
    let n := reqGran items
    let quota := resQuota s ctx tile
    (floorOf s tile k < n → lookGrant s ctx tile k items none =
      .traps { cond := 15, d0 := reqName items, d1 := BitVec.ofNat 64 (n * 2 ^ 32 + floorOf s tile k) }) ∧
    (n ≤ floorOf s tile k → quota < n + nopushGran s tile (some ctx) (items.map (·.1)) →
      lookGrant s ctx tile k items none =
        .traps { cond := 12, d0 := reqName items, d1 := BitVec.ofNat 64 (n * 2 ^ 32 + quota) }) ∧
    (∀ q m g, lookGrant s ctx tile k items (some (q, m)) g = lookUnder s ctx tile k items g q m)) ∧
  (∀ it rest, reqName (it :: rest) = mkA it.1 0)

/-- LD completes, once its operand passes its checks and is granted, with Gd set to the zero-extended little-endian bytes at the offset that the A register, the scaled index and the displacement give exactly. LDL writes 64 elements of the width of the segment's format to the M line that QN and AUX10 name. A failed check traps as it says, a segment without an element width traps FMTMISMATCH (27) on LDL, and a poisoned sector ECCUNC (40). Nothing else changes but the order of touches. (R3, R52, R133, R134, R320.) -/
def Obligations.LoadResults : Prop :=
  ∀ (s u : State) (c : CoreId),
    let st := getStrand u c
    let ctx := ctxNo u c
    let t := coreTile u c
    (∀ f : FM, Issues s c (.ld f) u →
      let a := st.getA f.ar.toNat
      let n := 2 ^ f.sz.toNat
      let off : Int := (a.extractLsb' 0 32).toNat + (st.getG f.rx).toInt * 2 ^ f.sh.toNat + f.disp.toInt + st.dispStep
      (∀ x v, segCheck u ctx t a off n n false = .error (.trap x v) → exec (.ld f) s = .next (trapCore v c x)) ∧
      (∀ r o v, segCheck u ctx t a off n n false = .ok (r, o) → grantRefs u c (coreClient c) ctx [r] = .ok v →
        (segPoisoned v ctx r.name r.tile o n = true → Traps s (.ld f) 40 0 0 v) ∧
        (segPoisoned v ctx r.name r.tile o n = false → Completes s (.ld f)
          (setGOf v c f.rd (BitVec.ofNat 64 (leNat (segBytes v ctx r.name r.tile o n))))))) ∧
    (∀ f : FQ, Issues s c (.ldl f) u →
      let a := st.getA f.ar.toNat
      let off : Int := (a.extractLsb' 0 32).toNat + (st.getG f.rc).toInt + f.disp.toInt + st.dispStep
      (∀ x v, segName u ctx t a off = .error (.trap x v) → exec (.ldl f) s = .next (trapCore v c x)) ∧
      (∀ r, segName u ctx t a off = .ok r → fmtWidth (attrFmt r.seg.attr) = none → Traps s (.ldl f) 27 0 0 u) ∧
      (∀ r w x v, segName u ctx t a off = .ok r → fmtWidth (attrFmt r.seg.attr) = some w →
        segRange u r a off (64 * w) w false = .error (.trap x v) → exec (.ldl f) s = .next (trapCore v c x)) ∧
      (∀ r w o v, segName u ctx t a off = .ok r → fmtWidth (attrFmt r.seg.attr) = some w →
        segRange u r a off (64 * w) w false = .ok o → grantRefs u c (coreClient c) ctx [r] = .ok v →
        segPoisoned v ctx r.name r.tile o (64 * w) = true → Traps s (.ldl f) 40 0 0 v) ∧
      (∀ r w o v, segName u ctx t a off = .ok r → fmtWidth (attrFmt r.seg.attr) = some w →
        segRange u r a off (64 * w) w false = .ok o → grantRefs u c (coreClient c) ctx [r] = .ok v →
        segPoisoned v ctx r.name r.tile o (64 * w) = false →
        Completes s (.ldl f) (modTile v t (fun x =>
          writeM x ⟨f.qn.toNat, (f.aux.extractLsb' 6 2).toNat, (f.aux.extractLsb' 0 6).toNat⟩
            (lineOfBytes w (segBytes v ctx r.name r.tile o (64 * w)))))))

/-- ST completes, once its operand passes its checks and is granted, with the low bytes of Gd at the exact offset of its A register, scaled index and displacement; STL stores the elements of its M line. A rel store waits with KIND 11 and NAME 0x041 while earlier commands of the strand are not retired. A store changes exactly its bytes: they read back, every other byte of every segment reads as before, and nothing of the machine beside the segments has changed. (R3, R133, R134, R248, R320.) -/
def Obligations.StoreResultsAndFrame : Prop :=
  (∀ (s u : State) (c : CoreId),
    let st := getStrand u c
    let ctx := ctxNo u c
    let t := coreTile u c
    (∀ f : FM, Issues s c (.st f) u →
      let a := st.getA f.ar.toNat
      let n := 2 ^ f.sz.toNat
      let off : Int := (a.extractLsb' 0 32).toNat + (st.getG f.rx).toInt * 2 ^ f.sh.toNat + f.disp.toInt + st.dispStep
      let order := relOrd f.ord = true → coreCmds u c = []
      (¬ order → Waits s (.st f) { what := .relOrder, kind := 11, name := 0x041 } u) ∧
      (∀ x v, order → segCheck u ctx t a off n n true = .error (.trap x v) → exec (.st f) s = .next (trapCore v c x)) ∧
      (∀ r o v, order → segCheck u ctx t a off n n true = .ok (r, o) → grantRefs u c (coreClient c) ctx [r] = .ok v →
        Completes s (.st f) (segWrite v ctx r.name r.tile o (leBytes n (st.getG f.rd).toNat)))) ∧
    (∀ f : FQ, Issues s c (.stl f) u →
      let a := st.getA f.ar.toNat
      let off : Int := (a.extractLsb' 0 32).toNat + (st.getG f.rc).toInt + f.disp.toInt + st.dispStep
      let line : MRef := ⟨f.qn.toNat, (f.aux.extractLsb' 6 2).toNat, (f.aux.extractLsb' 0 6).toNat⟩
      ∀ r w o v, segName u ctx t a off = .ok r → fmtWidth (attrFmt r.seg.attr) = some w →
        segRange u r a off (64 * w) w true = .ok o → grantRefs u c (coreClient c) ctx [r] = .ok v →
        (mPoisoned (getTile v t) line = true → Traps s (.stl f) 40 0 0 v) ∧
        (mPoisoned (getTile v t) line = false → Completes s (.stl f)
          (segWrite v ctx r.name r.tile o (bytesOfLine w (readM (getTile v t) line)))))) ∧
  (∀ (v : State) (ctx name tile o : Nat) (bs : List Byte) (g : Segment) (cp : SegCopy),
    findSeg v ctx name = some g → tabFind g.copies tile = some cp → cp.data.wf = true →
    let w := segWrite v ctx name tile o bs
    { w with ctxs := v.ctxs } = v ∧
    (∀ i, i < bs.length → segBytes w ctx name tile (o + i) 1 = [bs.getD i 0]) ∧
    (∀ x m t k, (x, m, t) ≠ (ctx, name, tile) ∨ k < o ∨ o + bs.length ≤ k →
      segBytes w x m t k 1 = segBytes v x m t k 1))

/-- A count above 2^20 traps SEGBOUND. Once the ranges pass their checks (for SCOPY, those of one segment do not overlap unless Ad = Aa), a count of 0 completes with nothing done. Else each turn makes one access of a portion, which reaches to the next 64-byte boundary of the destination: SZERO writes that many zero bytes under its grant; SCOPY reads them under its grant, with the pins of both copies where they share a home, and in a later turn writes them; under those pins it waits for a destination that the Shunter moves (R120, R124). The write adds the bytes to the offsets in Ad and Aa, takes them from Gb, and releases the pins; the word completes when Gb is 0, and goes on before that. (R120, R124, R125, R128, R135.) -/
def Obligations.CopyAndZero : Prop :=
  (∀ (s u : State) (c : CoreId) (f : FR),
    let st := getStrand u c
    let ctx := ctxNo u c
    let t := coreTile u c
    let n := (st.getG f.rb).toNat
    let ad := st.getA (aNum f.rd)
    let aa := st.getA (aNum f.ra)
    let ends := fun (i : Instr) (v : State) =>
      ((getStrand v c).getG f.rb = 0 → Completes s i v) ∧ ((getStrand v c).getG f.rb ≠ 0 → GoesOn s i v)
    (Issues s c (.szero f) u →
      (2 ^ 20 < n → Traps s (.szero f) 10 ad (BitVec.ofNat 64 (aOff ad)) u) ∧
      (∀ d o, n ≤ 2 ^ 20 → segCheck u ctx t ad (aOff ad) n 1 (decide (n ≠ 0)) = .ok (d, o) →
        (n = 0 → Completes s (.szero f) u) ∧
        (∀ v, n ≠ 0 → segPortion c f false d none u = .ok v → ends (.szero f) v))) ∧
    (Issues s c (.scopy f) u →
      (2 ^ 20 < n → Traps s (.scopy f) 10 ad (BitVec.ofNat 64 (aOff ad)) u) ∧
      (∀ d o r k, n ≤ 2 ^ 20 → segCheck u ctx t ad (aOff ad) n 1 (decide (n ≠ 0)) = .ok (d, o) →
        segCheck u ctx t aa (aOff aa) n 1 false = .ok (r, k) →
        let clash := r.name = d.name ∧ r.tile = d.tile ∧ ad ≠ aa ∧ o < k + n ∧ k < o + n
        (clash → Traps s (.scopy f) 10 ad (BitVec.ofNat 64 (aOff ad)) u) ∧
        (n = 0 → Completes s (.scopy f) u) ∧
        (∀ v, ¬ clash → n ≠ 0 → segPortion c f true d (some r) u = .ok v → ends (.scopy f) v)))) ∧
  (∀ (c : CoreId) (f : FR) (d r : SegRef) (u : State),
    let ctx := ctxNo u c
    let st := getStrand u c
    let k := coreClient c
    let ad := st.getA (aNum f.rd)
    let aa := st.getA (aNum f.ra)
    let n := min (st.getG f.rb).toNat (64 - aOff ad % 64)
    let done := fun (copy : Bool) (w : State) (bs : List Byte) =>
      modStrand (segWrite w ctx d.name d.tile (aOff ad) bs) c (fun x =>
        let x1 := x.setA (aNum f.rd) (mkA (aName (x.getA (aNum f.rd))) (aOff (x.getA (aNum f.rd)) + n))
        let x2 := if copy then x1.setA (aNum f.ra) (mkA (aName (x.getA (aNum f.ra))) (aOff (x.getA (aNum f.ra)) + n)) else x1
        { x2.setG f.rb (x.getG f.rb - BitVec.ofNat 64 n) with staged := none, pins := [] })
    let read := fun (w : State) (pins : List Pin) => segPoisoned w ctx r.name r.tile (aOff aa) n = false →
      segPortion c f true d (some r) u = .ok (modStrand w c (fun x =>
        { x with staged := some (segBytes w ctx r.name r.tile (aOff aa) n), pins := pins }))
    (∀ v, grantRefs u c k ctx [d] = .ok v →
      segPortion c f false d none u = .ok (done false v (List.replicate n 0))) ∧
    (st.staged = none →
      (∀ v, r.tile = d.tile → grantRefs u c k ctx [r, d] = .ok v → read v (strandPins v c k [r, d])) ∧
      (∀ v, r.tile ≠ d.tile → grantRefs u c k ctx [r] = .ok v → read v [])) ∧
    (∀ bs, st.staged = some bs →
      (r.tile = d.tile → allResident u ctx [d] = true → st.met = false →
        segPortion c f true d (some r) u = .ok (done true (touchSeg u ctx d.name d.tile) bs)) ∧
      (r.tile = d.tile → allResident u ctx [d] = false →
        segPortion c f true d (some r) u = .error (.more (modStrand u c (fun x => { x with met := true })))) ∧
      (∀ v, r.tile ≠ d.tile → grantRefs u c k ctx [d] = .ok v → segPortion c f true d (some r) u = .ok (done true v bs))))

/-- RA holds a name of 16 bits; more bits trap SEGNAME with the low 16 as the name in DETAIL0 (log entry 12). SALLOC on a free name from 1 to 4,095 with a legal length and attribute word asks for the granules of each copy through its tile's queue, in order; with the grant of the last copy that is not made, and a run of granules that is free still, it completes: the segment exists with that length and word on its home tile, or on each tile of its replica set, and a copy that is made is RESIDENT and reads zero; until then no access finds the name (R137), and another SALLOC of it waits. That QUOTA of R129's bound comes before FOOTPRINT is the model's choice of log entry 72. SFREE frees the name; SGROW sets the longer length under its grant; SATTR replaces the word; each waits or traps as R136 says, and the three trap QUOTA where NOPUSH would break the bound of R129 (log entry 12 for SATTR). SQUERY reads the descriptor, 0 for a free name; SRECALL queues a recall without pins and retires, and with a name that is not found retires with nothing queued, which is the model's reading of log entry 11; SPUSH retires on a PUSHED segment and else begins its push and waits. (R115, R118, R119, R126, R129, R132, R136, R137, log entry 11, log entry 12, log entry 72.) -/
def Obligations.SegmentManagement : Prop :=
  (∀ (s u : State) (c : CoreId) (f : FR),
    let st := getStrand u c
    let ctx := ctxNo u c
    let me := coreTile u c
    let ga := st.getG f.ra
    let gb := (st.getG f.rb).toNat
    let gc := st.getG f.rc
    let sup := st.mode = .supervisor
    let name := ga.toNat
    let busy := fun (r : SegRef) => namedByCmd u ctx r.name = true ∨
      (∃ e ∈ r.seg.copies, isPinned u ctx r.name e.1 = true ∨ isMoving e.2 = true)
    let found := fun (r : SegRef) => name < 2 ^ 16 ∧ segName u ctx me (mkA name 0) 0 = .ok r
    let await := fun (i : Instr) (r : SegRef) (v : State) => Waits s i { what := .segment, kind := 11, name := r.name } v
    let req := fun (tile n k : Nat) (alloc : Bool) => newReq u (some (.core c)) me ctx (coreClient c) tile [(n, k)] alloc
    let waitGrant := fun (i : Instr) (tile n k : Nat) (alloc : Bool) =>
      Waits s i { what := .grant, kind := 11, name := 0, bounded := false } (queueGrant u tile (req tile n k alloc))
    (∀ mk ∈ ([.salloc, .sfree, .sgrow, .sattr, .squery, .srecall, .spush] : List (FR → Instr)), 2 ^ 16 ≤ name →
      Issues s c (mk f) u → Traps s (mk f) 9 ((ga.extractLsb' 0 16 ++ (0 : BitVec 32)).setWidth 64) 0 u) ∧
    (Issues s c (.salloc f) u →
      let home := if gc.getLsbD 56 = true then (gc.extractLsb' 48 8).toNat else me
      (name = 0 → Traps s (.salloc f) 8 0 0 u) ∧
      (name ≠ 0 → name < 2 ^ 16 → 4095 < name ∨ (∃ g, findSeg u ctx name = some g ∧ g.making = false) →
        Traps s (.salloc f) 9 (mkA name 0) 0 u) ∧
      (name ≠ 0 → name ≤ 4095 → (∀ g, findSeg u ctx name = some g → g.making = true) →
        (gb % 64 ≠ 0 ∨ gb < 64 ∨ 2 ^ 20 < gb → Traps s (.salloc f) 10 (mkA name 0) (BitVec.ofNat 64 gb) u) ∧
        (gb % 64 = 0 → 64 ≤ gb → gb ≤ 2 ^ 20 →
          (attrValid gc = false → Traps s (.salloc f) 27 0 0 u) ∧
          (attrValid gc = true → attrNopush gc = true → ¬ sup → Traps s (.salloc f) 5 0 0 u) ∧
          (attrValid gc = true → (attrNopush gc = true → sup) →
            (home / 32 ≠ me / 32 ∨ (gc.getLsbD 56 = true ∧ attrReplica gc = true) →
              Traps s (.salloc f) 14 (mkA name 0) 0 u) ∧
            (home / 32 = me / 32 → ¬ (gc.getLsbD 56 = true ∧ attrReplica gc = true) →
              ((findSeg u ctx name).isSome → st.making ≠ some name →
                Waits s (.salloc f) { what := .grant, kind := 11, name := 0, bounded := false } u) ∧
              (findSeg u ctx name = none ∨ st.making = some name →
              let kept := gc &&& 0x0000FFFFFFFFFFFF
              let tiles := if attrReplica gc = true then replicaSet u c else [home]
              let n := gb / 64
              (∀ t ∈ tiles, (∀ k ∈ tiles, k ≠ t → (copyOn u ctx name k).isSome) → copyOn u ctx name t = none →
                let breaks := attrNopush gc = true ∧ nopushBreaks u t n = true
                (breaks → Traps s (.salloc f) 12 (mkA name 0) (BitVec.ofNat 64 (n * 2 ^ 32 + resQuota u ctx t)) u) ∧
                (¬ breaks → st.granted = none → floorOf u t (coreClient c) < n →
                  isQueued u t (.core c) [(name, n)] = false →
                  Traps s (.salloc f) 15 (mkA name 0) (BitVec.ofNat 64 (n * 2 ^ 32 + floorOf u t (coreClient c))) u) ∧
                (¬ breaks → st.granted = none → n ≤ floorOf u t (coreClient c) → waitGrant (.salloc f) t name n true) ∧
                (¬ breaks → st.granted = some ⟨t, [(name, n)], none⟩ → (findRun u t n none).isSome →
                  ∃ v, allocCopies c ctx name gb home kept tiles u = .ok v)) ∧
              (∀ v, allocCopies c ctx name gb home kept tiles u = .ok v →
                let w := nameMade v ctx name
                Completes s (.salloc f) w ∧
                ((tabFind u.ctxs ctx).isSome →
                  (findSeg u ctx name = none → ∃ g, findSeg w ctx name = some g ∧ g.bytes = gb ∧ g.home = home ∧ g.attr = kept ∧
                    g.making = false) ∧
                  ∀ t ∈ tiles, ∃ cp, copyOn w ctx name t = some cp ∧ (copyOn u ctx name t = none →
                    cp.res = .resident ∧ ∀ i, segBytes w ctx name t i 1 = [0])))))))))  ∧
    (∀ r, found r →
      (Issues s c (.sfree f) u →
        (attrNopush r.seg.attr = true → ¬ sup → Traps s (.sfree f) 5 0 0 u) ∧
        ((attrNopush r.seg.attr = true → sup) →
          (busy r → await (.sfree f) r u) ∧
          (¬ busy r → Completes s (.sfree f) (freeSeg u ctx r.name) ∧ findSeg (freeSeg u ctx r.name) ctx r.name = none))) ∧
      (Issues s c (.sgrow f) u →
        (gb % 64 ≠ 0 ∨ gb < r.seg.bytes ∨ 2 ^ 20 < gb → Traps s (.sgrow f) 10 (mkA r.name 0) (BitVec.ofNat 64 gb) u) ∧
        (gb % 64 = 0 → r.seg.bytes ≤ gb → gb ≤ 2 ^ 20 →
          (attrReplica r.seg.attr = true → Traps s (.sgrow f) 14 (mkA r.name 0) 0 u) ∧
          (attrReplica r.seg.attr = false →
            (gb = r.seg.bytes → Completes s (.sgrow f) u) ∧
            (gb ≠ r.seg.bytes →
              let n := gb / 64
              let breaks := attrNopush r.seg.attr = true ∧ nopushBreaks u r.tile (n - granOf r.seg.bytes) = true
              (breaks → Traps s (.sgrow f) 12 (mkA r.name 0) (BitVec.ofNat 64 (n * 2 ^ 32 + resQuota u ctx r.tile)) u) ∧
              (¬ breaks → st.granted = none → n ≤ floorOf u r.tile (coreClient c) → granOf r.seg.bytes < n →
                waitGrant (.sgrow f) r.tile r.name n false) ∧
              (¬ breaks → st.granted = some ⟨r.tile, [(r.name, n)], none⟩ → reqResident u ctx r.tile [(r.name, n)] = true →
                Completes s (.sgrow f) (touchSeg (modSeg (modStrand u c (fun x => { x with granted := none })) ctx r.name
                  (fun g => { g with bytes := gb })) ctx r.name r.tile)))))) ∧
      (Issues s c (.sattr f) u →
        let new := st.getG f.rb
        (attrValid new = false → Traps s (.sattr f) 27 0 0 u) ∧
        (attrValid new = true → attrReplica new ≠ attrReplica r.seg.attr → Traps s (.sattr f) 14 (mkA r.name 0) 0 u) ∧
        (attrValid new = true → attrReplica new = attrReplica r.seg.attr →
          (attrNopush new ≠ attrNopush r.seg.attr → ¬ sup → Traps s (.sattr f) 5 0 0 u) ∧
          (attrNopush new = attrNopush r.seg.attr ∨ sup →
            (busy r → await (.sattr f) r u) ∧
            let full := nopushTile u r.seg
            (∀ t, ¬ busy r → attrNopush new = true → attrNopush r.seg.attr = false → full = some t →
              Traps s (.sattr f) 12 (mkA r.name 0)
                (BitVec.ofNat 64 (granOf r.seg.bytes * 2 ^ 32 + resQuota u ctx t)) u) ∧
            (¬ busy r → (attrNopush new = false ∨ attrNopush r.seg.attr = true ∨ full = none) → Completes s (.sattr f)
              (modSeg u ctx r.name (fun g => { g with attr := new &&& 0x0000FFFFFFFFFFFF })))))) ∧
      (Issues s c (.srecall f) u →
        ((getCopy r.seg r.tile).res = .pushed → Completes s (.srecall f) (modTile u r.tile (fun x =>
          { x with grants := insertGrant {
              party := none, from_ := me, ctx := ctx, client := coreClient c,
              items := [(r.name, granOf r.seg.bytes)], alloc := false, since := u.cycle, recalled := false,
              quota := resQuota u ctx r.tile, terms := none, gathers := false } x.grants }))) ∧
        ((getCopy r.seg r.tile).res ≠ .pushed → Completes s (.srecall f) u)) ∧
      (Issues s c (.spush f) u →
        let n := granOf r.seg.bytes
        let cp := getCopy r.seg r.tile
        (attrNopush r.seg.attr = true → Traps s (.spush f) 14 (mkA r.name 0) 0 u) ∧
        (attrNopush r.seg.attr = false →
          (cp.res = .pushed → Completes s (.spush f) u) ∧
          (cp.res ≠ .pushed → busy r → await (.spush f) r u) ∧
          (cp.res ≠ .pushed → ¬ busy r → sidingRoom u ctx (64 * n) = false →
            Traps s (.spush f) 13 (mkA r.name 0) (BitVec.ofNat 64 (n * 2 ^ 32 + ctx % 512)) u) ∧
          (cp.res ≠ .pushed → ¬ busy r → sidingRoom u ctx (64 * n) = true →
            await (.spush f) r (startPush u ⟨ctx, r.name, n, r.seg.attr, false, cp⟩ r.tile))))) ∧
    (Issues s c (.srecall f) u → name < 2 ^ 16 → (∀ r, ¬ found r) → Completes s (.srecall f) u) ∧
    (Issues s c (.squery f) u →
      (name ≠ 0 → name ≤ 4095 → (∀ g, findSeg u ctx name = some g → g.making = true) →
        Completes s (.squery f) (setGOf u c f.rd 0)) ∧
      (∀ r, found r →
        let cp := getCopy r.seg r.tile
        let code := match cp.res with | .resident => 1 | .pushed => 2 | _ => 3
        let base := if cp.res = .resident then cp.base else 0
        (f.fn = 0 → Completes s (.squery f) (setGOf u c f.rd (if attrReplica r.seg.attr = true then r.seg.attr
          else r.seg.attr ||| BitVec.ofNat 64 (2 ^ 56 + r.seg.home % 256 * 2 ^ 48)))) ∧
        (f.fn = 1 → Completes s (.squery f) (setGOf u c f.rd (BitVec.ofNat 64 r.seg.bytes))) ∧
        (f.fn = 2 → Completes s (.squery f) (setGOf u c f.rd
          (BitVec.ofNat 64 (code * 2 ^ 30 + r.tile % 256 * 2 ^ 22 + base))))))) ∧
  (∀ (r : GrantReq) (l : List GrantReq), (∀ y ∈ l, y.since ≠ r.since) → insertGrant r l = l ++ [r])

/-- PUSH ends a push under way: the copy's bytes are written to its blocks of the sidings, the copy is PUSHED and holds no granules. RECALL ends a recall: the copy is RESIDENT with the bytes that its blocks hold, and its sidings space is free. SHUNTER_MOVE slides a segment by one granule: the one under way, or the next that is due, which rests after the last. GRANT examines the head of the tile's queue from the clock after it joined: a strand's word whose segments are RESIDENT goes on as granted, unless a trap is due or a pre-emption holds it, and the request is gone, and a background recall that is granted leaves the queue; a movement the request needs is begun, and the request then completes under the quota and floor of its admission. A slide changes no byte that can be read, and an event that is not due changes nothing. Which blocks an image takes is log entry 16. (R112, R120, R122, R123, R124, R126, R353, log entry 16.) -/
def Obligations.ResidencyMovements : Prop :=
  (∀ (s : State) (tile ctx name : Nat) (g : Segment) (cp : SegCopy),
    findSeg s ctx name = some g → tabFind g.copies tile = some cp →
    let now := fun (t : State) => copyOn t ctx name tile
    let same := fun (t : State) => { t with ctxs := s.ctxs } = s ∧ ∀ x m k i, segBytes t x m k i 1 = segBytes s x m k i 1
    let slid := fun (n dest moved : Nat) => if n ≤ moved + 1 then { cp with res := .resident, base := dest }
      else { cp with res := .sliding dest (moved + 1) }
    let pushed := modCopy s ctx name tile (fun c => { c with res := .pushed, base := 0 })
    (cp.res = .pushing →
      Happens s (.push tile ctx name) (sidePut pushed ctx cp.side (Memory.readBytes cp.data 0 (64 * cp.side.length)) cp.poison) ∧
      same pushed ∧ now pushed = some { cp with res := .pushed, base := 0 }) ∧
    (cp.res ≠ .pushing → Idles s (.push tile ctx name)) ∧
    (cp.res = .recalling → ∃ t, Happens s (.recallMove tile ctx name) t ∧ { t with ctxs := s.ctxs } = s ∧
      (∀ x m k i, (x, m, k) ≠ (ctx, name, tile) → segBytes t x m k i 1 = segBytes s x m k i 1) ∧
      (∃ c2, now t = some c2 ∧ c2.res = .resident ∧ c2.base = cp.base ∧ c2.side = []) ∧
      (∀ i, i < 64 * cp.side.length → segBytes t ctx name tile i 1 = [(sideGet s ctx cp.side).getD i 0]) ∧
      (tabFind t.ctxs ctx).map (·.sidings) = (tabFind s.ctxs ctx).map (fun x => x.sidings - 64 * granOf g.bytes)) ∧
    (cp.res ≠ .recalling → Idles s (.recallMove tile ctx name)) ∧
    (∀ dest moved, cp.res = .sliding dest moved →
      ∃ t, Happens s (.shunterMove tile ctx name) t ∧ same t ∧ now t = some (slid (granOf g.bytes) dest moved)) ∧
    ((∀ dest moved, cp.res ≠ .sliding dest moved) →
      (∀ p pos, slideDue s tile = some (p, pos) → p.ctx = ctx → p.name = name →
        ∃ t, Happens s (.shunterMove tile ctx name) t ∧ same t ∧ now t = some (slid p.gran pos 0)) ∧
      ((∀ p pos, slideDue s tile = some (p, pos) → p.ctx ≠ ctx ∨ p.name ≠ name) → Idles s (.shunterMove tile ctx name)))) ∧
  (∀ (s : State) (ctx b n : Nat) (bs : List Byte), 0 < n → bs.length = 64 * n →
    sidePut s ctx (List.range' b n) bs [] = paWrite s (sideAddr s ctx b) bs) ∧
  (∀ (s : State) (tile : Nat) (r : GrantReq) (rest : List GrantReq),
    (getTile s tile).grants = r :: rest → (∀ y ∈ r :: rest, quotaLowered s tile y = false) →
    let gone := modTile s tile (fun x => { x with grants := rest })
    let r1 := { r with recalled := r.recalled || (r.party.isSome && !r.alloc && touchesAbsent s r.ctx tile r.items) }
    let s1 := modTile s tile (fun x => { x with grants := r1 :: rest })
    let look := lookGrant s1 r.ctx tile r.client r.items r.terms r.gathers
    (s.cycle ≤ r.since → Idles s (.grant tile)) ∧
    (r.since < s.cycle → grantLives s r = false → Happens s (.grant tile) gone) ∧
    (r.since < s.cycle → grantLives s r = true → nameGone s tile r = false →
      (∀ v, look = .moved v ∨ look = .recalling v → Happens s (.grant tile) (admitHead v tile r1)) ∧
      (∀ own, look = .slides own → Happens s (.grant tile)
        (modHead (admitHead s1 tile r1) tile (fun y => { y with gathers := true }))) ∧
      (look = .waits → Happens s (.grant tile) s1) ∧
      (look = .granted → r.party = none → Happens s (.grant tile) gone) ∧
      (∀ c w b, look = .granted → r.party = some (.core c) → (r1.recalled && traceAbs s r.ctx) = false →
        (getStrand gone c).run = .waiting → (getStrand gone c).wait = some w → w.what = .grant → bodyOf w.instr = some b →
        let s2 := { modStrand gone c (fun st => { st with granted := some ⟨tile, r.items, none⟩ }) with cur := c }
        preemptHolds (modStrand gone c (fun st => { st with granted := some ⟨tile, r.items, none⟩ })) c = false →
        trapDue (modStrand gone c (fun st => { st with granted := some ⟨tile, r.items, none⟩ })) c = false →
        ∀ u v, Issues s2 c w.instr u → b c u = .retire v →
          let t := retireWord v c w.instr ((getStrand v c).pc + 8)
          (getStrand t c).run ≠ .waiting → Happens s (.grant tile) (acts t c)))) ∧
  (∀ (tile : Nat) (v : State) (r : GrantReq) (rest : List GrantReq), (getTile v tile).grants = r :: rest →
    (getTile (admitHead v tile r) tile).grants = (if r.terms.isSome = true then r
      else { r with terms := some (resQuota v r.ctx tile, clientFloor v tile r.client) }) :: rest) ∧
  (∀ (s : State) (tile : Nat), (getTile s tile).grants = [] → Idles s (.grant tile))

/-- Element i of a row line of an M register is its slot (d, i), of a column line slot (i, d), of a diagonal line slot (i, (i + d) mod 64). A merged write gives each enabled element its new value and leaves the others; every slot of every M register that is no element of the line stays, and nothing else of the tile changes but poison marks of the M file. (R139, R140, R141.) -/
def Obligations.LineMapping : Prop :=
  ∀ (x : Tile) (r : MRef) (l : Line) (en : Word), r.reg < 16 → r.dir ≤ 2 → r.idx < 64 →
    let cell := fun (i : Nat) =>
      if r.dir = 0 then (r.idx, i) else if r.dir = 1 then (i, r.idx) else (i, (i + r.idx) % 64)
    let y := mergeM x r l en
    (∀ i, i < 64 → lineGet (readM x r) i = mSlot x r.reg (cell i).1 (cell i).2) ∧
    (∀ i, i < 64 → lineGet (readM y r) i = if en.getLsbD i = true then lineGet l i else lineGet (readM x r) i) ∧
    (∀ d row col, d < 16 → row < 64 → col < 64 → (d ≠ r.reg ∨ ∀ i, i < 64 → (row, col) ≠ cell i) →
      mSlot y d row col = mSlot x d row col) ∧
    { y with m := x.m, mBad := x.mBad } = x

/-- A source is a line of an M register, a G register's low 32 bits in every lane, the head line of an operand queue, which is popped, or a constant-table line. DYN rounds by RMDYN, whose values 6 and 7 trap BADFIELD. A pop waits with KIND 2 until the head line is filled, and traps QPOISON (22) on a POISONED queue that holds no line; a push waits with KIND 3 while the drain queue holds 16 lines. Two pops from one queue need two filled lines, of which LA takes the first. A word with several waits waits on LA's queue, then on LB's, and last for room in its drain queue, and QPOISON is judged in the same order: this order is the model's choice of log entry 61. Lanes are enabled by PE, PRED and PN. A pushed line holds 0 in disabled lanes; an M line keeps them. (R30, R33, R107, R140, R141, R142, R143, R149, R320, log entry 61.) -/
def Obligations.LineOperands : Prop :=
  ∀ (c : CoreId) (u : State) (f : FL),
    let t := coreTile u c
    let x := getTile u t
    let lineOf := fun (l : BitVec 12) =>
      if lineDir l ≠ 3 then readM x (mRef l)
      else if lineKind l = 0 then lineGen (fun _ => ((getStrand u c).getG ((l.extractLsb' 0 5).setWidth 6)).setWidth 32)
      else lineGen (constSlot (l.extractLsb' 0 4).toNat)
    let plain := fun (l : BitVec 12) => popOf l = none ∧ (lineDir l ≠ 3 → mPoisoned x (mRef l) = false)
    let p := predReg x f.pred.toNat
    let en : Word := if f.pe = 1 then (if f.pn = 1 then p ^^^ BitVec.allOnes 64 else p) else BitVec.allOnes 64
    let dyn := (getStrand u c).rmdyn.toNat
    let rm := if f.rm = 6 then dyn else f.rm.toNat
    let opq := fun (q : Nat) => opQueue x q
    (f.rm = 6 → 6 ≤ dyn → ∀ srcs d w, lineIn c f srcs d w u = .error (.trap { cond := 4 } u)) ∧
    ((f.rm = 6 → dyn < 6) →
      (pushOf f.ld = none → plain f.la → lineIn c f [f.la] false true u = .ok ⟨lineOf f.la, Line.zero, Line.zero, en, rm, u⟩) ∧
      (pushOf f.ld = none → plain f.la → plain f.lb →
        lineIn c f [f.la, f.lb] false true u = .ok ⟨lineOf f.la, lineOf f.lb, Line.zero, en, rm, u⟩ ∧
        (plain f.ld → lineIn c f [f.la, f.lb] true true u = .ok ⟨lineOf f.la, lineOf f.lb, lineOf f.ld, en, rm, u⟩)) ∧
      (∀ q h rest, pushOf f.ld = none → popOf f.la = some q → (opq q).lines = h :: rest →
        h.filled = true → h.bad = false → lineIn c f [f.la] false true u =
          .ok ⟨h.data, Line.zero, Line.zero, en, rm, modTile u t (fun y => setOpQueue y q { opQueue y q with lines := rest })⟩) ∧
      (∀ q, popOf f.la = some q → (opq q).lines.head?.any (·.filled) = false →
        ((opq q).state ≠ .poisoned ∨ (opq q).lines ≠ [] → lineIn c f [f.la] false true u =
          .error (.wait { what := .lineOperands, kind := 2, name := q, psrc := 1, prod := some 1 } u)) ∧
        ((opq q).state = .poisoned → (opq q).lines = [] → ∃ v, lineIn c f [f.la] false true u =
          .error (.trap { cond := 22, d0 := (opq q).cause.setWidth 64 } v) ∧ (opQueue (getTile v t) q).state = .idle)) ∧
      (∀ q h1 h2 rest, pushOf f.ld = none → popOf f.la = some q → popOf f.lb = some q → (opq q).lines = h1 :: h2 :: rest →
        h1.filled = true → h2.filled = true → h1.bad = false → h2.bad = false → lineIn c f [f.la, f.lb] false true u =
          .ok ⟨h1.data, h2.data, Line.zero, en, rm, modTile u t (fun y => setOpQueue y q { opQueue y q with lines := rest })⟩) ∧
      (let lacks := fun (q n : Nat) => (opq q).lines.length < n ∨ ((opq q).lines.take n).all (·.filled) = false
       let sound := fun (q : Nat) => (opq q).state = .poisoned → (opq q).lines.all (·.filled) = false
       let waitsOn := fun (q : Nat) => lineIn c f [f.la, f.lb] false true u =
         .error (.wait { what := .lineOperands, kind := 2, name := q, psrc := 1, prod := some 1 } u)
       (∀ q, popOf f.la = some q → popOf f.lb = some q → lacks q 2 → sound q → waitsOn q) ∧
       (∀ q p, popOf f.la = some q → popOf f.lb = some p → q ≠ p →
         (lacks q 1 → sound q → waitsOn q) ∧ (¬ lacks q 1 → lacks p 1 → sound p → waitsOn p))) ∧
      (∀ d, popOf f.la = none → pushOf f.ld = some d → (drQueue x d).lines.length = 16 →
        lineIn c f [f.la] false true u =
          .error (.wait { what := .lineOperands, kind := 3, name := d, psrc := 3, prod := some 3 } u))) ∧
    (∀ r m, (pushOf f.ld = none → putLine u t f.ld r m = modTile u t (fun y => mergeM y (mRef f.ld) r m)) ∧
      (∀ d, pushOf f.ld = some d → ∃ l : QLine,
        putLine u t f.ld r m = modTile u t (fun y => setDrQueue y d { drQueue y d with lines := (drQueue y d).lines ++ [l] }) ∧
        ∀ i, i < 64 → lineGet l.data i = if m.getLsbD i = true then lineGet r i else 0))

/-- QRD appends lines of its segment to an operand queue, one a turn, each reserved unfilled when the queue holds fewer than 16 and its grant is given, waiting with KIND 11 else; QWR stores the head lines of a drain queue, waiting while it is empty. Each goes on from NEXT of an ACTIVE record, or of one that a word of its own mode left PARKED, keeps NEXT and REM there line by line, goes on while lines are left, and completes with the record IDLE. QRD_LINE_FILL fills the first unfilled line; one that a pre-emption discarded is read again, at once when its segment is RESIDENT and its request has not been admitted to the tile's queue. QCNT reads the number of filled lines or the record. (R144, R145, R146, R148, R149, R150, R320.) -/
def Obligations.QueueWords : Prop :=
  (∀ (s u : State) (c : CoreId) (f : FQ),
    let t := coreTile u c
    let q := f.qn.toNat
    let n := f.aux.toNat
    let sup := decide ((getStrand u c).mode = .supervisor)
    let start := fun (y : Queue) => if y.state = .active ∨ (y.state = .parked ∧ y.sup = sup) then y.next else 0
    let opened := fun (y : Queue) (k : Nat) => { y with state := .active, next := k, rem := n - k }
    let runs := fun (i : Instr) (k : Nat) (u1 : State) (line : Ex State) (idle : State → State) =>
      (n ≤ k → Completes s i (idle u1)) ∧
      (k < n → (∀ x, line = .error x → EndsAs s i x) ∧
        ∀ v, line = .ok v → (k + 1 < n → GoesOn s i v) ∧ (n ≤ k + 1 → Completes s i (idle v)))
    (Issues s c (.qrd f) u →
      (∀ x, lineAccess u c f n false = .error x → EndsAs s (.qrd f) x) ∧
      (∀ r off w, lineAccess u c f n false = .ok (r, off, w) →
        let k := start (opQueue (getTile u t) q)
        let u1 := modTile u t (fun x => setOpQueue x q (opened (opQueue x q) k))
        ((opQueue (getTile u t) q).state = .poisoned →
          Waits s (.qrd f) { what := .queueSpace, kind := 11, name := q, psrc := 2, prod := some 2 } u) ∧
        ((opQueue (getTile u t) q).state ≠ .poisoned → runs (.qrd f) k u1 (qrdLine c f r off w n k u1)
          (fun v => modTile v t (fun x => setOpQueue x q { opQueue x q with state := .idle }))))) ∧
    (Issues s c (.qwr f) u →
      (∀ x, lineAccess u c f n true = .error x → EndsAs s (.qwr f) x) ∧
      (∀ r off w, lineAccess u c f n true = .ok (r, off, w) →
        let k := start (drQueue (getTile u t) q)
        let u1 := modTile u t (fun x => setDrQueue x q (opened (drQueue x q) k))
        runs (.qwr f) k u1 (qwrLine c f r off w n k u1)
          (fun v => modTile v t (fun x => setDrQueue x q { drQueue x q with state := .idle })))) ∧
    (Issues s c (.qcnt f) u →
      let y := if f.qn.getLsbD 3 then drQueue (getTile u t) (q % 4) else opQueue (getTile u t) (q % 8)
      let full := (y.lines.filter (·.filled)).length
      let code := match y.state with | .idle => 0 | .active => 1 | .parked => 2 | .poisoned => 3
      Completes s (.qcnt f) (setGOf u c f.rc (BitVec.ofNat 64 (if f.aux = 0 then full
        else code * 2 ^ 62 + y.next % 1024 * 2 ^ 52 + y.rem % 1024 * 2 ^ 42 + full * 2 ^ 37
          + (y.lines.length - full) * 2 ^ 32))))) ∧
  (∀ (u : State) (c : CoreId) (f : FQ) (r : SegRef) (off w n k : Nat),
    let t := coreTile u c
    let q := f.qn.toNat
    let o := off + 64 * w * k
    let held := (opQueue (getTile u t) q).lines
    let space := fun (bounded : Bool) => qrdLine c f r off w n k u =
      .error (.wait { what := .queueSpace, kind := 11, name := q, psrc := 2, prod := some 2, bounded := bounded } u)
    (held.any (·.again) = true → space false) ∧
    (held.any (·.again) = false → 16 ≤ held.length → space true) ∧
    (∀ v, held.any (·.again) = false → held.length < 16 → grantRefs u c (coreClient c) (ctxNo u c) [r] = .ok v →
      segPoisoned v (ctxNo u c) r.name r.tile o (64 * w) = false →
      qrdLine c f r off w n k u = .ok (modTile v t (fun x => setOpQueue x q { opQueue x q with
        state := .active, next := k + 1, rem := n - (k + 1), lines := (opQueue x q).lines ++
          [{ filled := false, again := false, data := lineOfBytes w (segBytes v (ctxNo u c) r.name r.tile o (64 * w)),
             ctx := ctxNo u c, name := r.name, tile := r.tile, off := o, width := w, bad := false }] }))) ∧
    ((drQueue (getTile u t) q).lines = [] → qwrLine c f r off w n k u =
      .error (.wait { what := .drainLine, kind := 11, name := 0x100 + q, psrc := 2, prod := some 2 } u)) ∧
    (∀ h rest v, (drQueue (getTile u t) q).lines = h :: rest →
      grantRefs u c (coreClient c) (ctxNo u c) [r] = .ok v → h.bad = false →
      qwrLine c f r off w n k u =
        .ok (modTile (segWrite v (ctxNo u c) r.name r.tile o (bytesOfLine w h.data)) t (fun x =>
          setDrQueue x q { drQueue x q with state := .active, next := k + 1, rem := n - (k + 1), lines := rest })))) ∧
  (∀ (s : State) (t q : Nat),
    let y := opQueue (getTile s t) q
    (y.lines.all (·.filled) = true → Idles s (.qrdLineFill t q)) ∧
    (∀ pre l post, y.lines = pre ++ l :: post → pre.all (·.filled) = true → l.filled = false →
      (l.again = false → Happens s (.qrdLineFill t q)
        (modTile s t (fun x => setOpQueue x q { y with lines := pre ++ { l with filled := true } :: post }))) ∧
      (∀ r, l.again = true → lookupSeg s l.ctx t l.name = .ok r → l.off + 64 * l.width ≤ r.seg.bytes →
        granOf r.seg.bytes ≤ floorOf s r.tile 1 → grantFits s l.ctx r.tile 1 (footprint [r]) = true →
        mayPass s r.tile (.refetch t q) = true → isAdmitted s r.tile (.refetch t q) (footprint [r]) = false → segPoisoned s l.ctx r.name r.tile l.off (64 * l.width) = false →
          ∃ v, Happens s (.qrdLineFill t q) v ∧ (opQueue (getTile v t) q).lines = pre ++
            { l with tile := r.tile, filled := true, again := false,
                     data := lineOfBytes l.width (segBytes s l.ctx r.name r.tile l.off (64 * l.width)), bad := false } :: post)))

/-- Each completes once its lines are there, for every value: MOVL copies slots, BCAST slot j, PERM the slots that LB names, LIMML its immediate by FN, INS one element, PSEL every lane from LA or LB, BPUNP the j-plane values of a packed line; EXTR writes an element to Gd, sign-extended for TY 5 to 7; PSET writes a predicate or a G register as FN says; OSMINIT writes minus infinity and 0 to the enabled lanes of two lines. An operand that waits or traps ends the word so. (R140, R141, R152, R157, R158, R160, R161.) -/
def Obligations.LineMoves : Prop :=
  ∀ (s u : State) (c : CoreId) (f : FL),
    let t := coreTile u c
    let x := getTile u t
    let done := fun (i : LineIn) (g : Nat → Slot) (en : Word) => putLine i.s t f.ld (lineGen g) en
    let imm : BitVec 24 := f.la ++ f.lb
    let j := f.lb.toNat
    (∀ e ∈ ([(.movl, [f.la], fun i k => lineGet i.a k, false), (.bcast, [f.la], fun i _ => lineGet i.a j, false),
        (.perm, [f.la, f.lb], fun i k => lineGet i.a ((lineGet i.b k).toNat % 64), false),
        (.limml, [], fun _ _ => if f.fn = 0 then imm.setWidth 32 <<< 8 else if f.fn = 1 then imm.setWidth 32
          else imm.signExtend 32, false),
        (.psel, [f.la, f.lb], fun i k => if i.en.getLsbD k then lineGet i.a k else lineGet i.b k, true),
        (.bpunp, [f.la], fun i k => BitVec.ofInt 32 (planeValue i.a j k), false)] :
        List ((FL → Instr) × List (BitVec 12) × (LineIn → Nat → Slot) × Bool)),
      Issues s c (e.1 f) u →
        (∀ r, lineIn c f e.2.1 false true u = .error r → EndsAs s (e.1 f) r) ∧
        (∀ i, lineIn c f e.2.1 false true u = .ok i →
          Completes s (e.1 f) (done i (e.2.2.1 i) (if e.2.2.2 then BitVec.allOnes 64 else i.en)))) ∧
    (Issues s c (.ins f) u →
      (∀ r, lineIn c f [f.la] false true u = .error r → EndsAs s (.ins f) r) ∧
      (∀ i, lineIn c f [f.la] false true u = .ok i → Completes s (.ins f) (putLine i.s t f.ld i.a (1#64 <<< j)))) ∧
    (Issues s c (.extr f) u →
      (∀ r, lineIn c f [f.la] false false u = .error r → EndsAs s (.extr f) r) ∧
      (∀ i, lineIn c f [f.la] false false u = .ok i →
        let slot := lineGet i.a j
        let word : Word := match f.ty.toNat with
          | 0 => slot.setWidth 64
          | 1 | 2 => (slot.setWidth 16).setWidth 64
          | 5 => slot.signExtend 64
          | 6 => (slot.setWidth 16).signExtend 64
          | 7 => (slot.setWidth 8).signExtend 64
          | _ => (slot.setWidth 8).setWidth 64
        Completes s (.extr f) (setGOf i.s c (BitVec.ofNat 6 (f.ld.toNat % 32)) word))) ∧
    (Issues s c (.pset f) u →
      let d := f.ld.toNat % 8
      let a := predReg x (f.la.toNat % 8)
      let b := predReg x (f.lb.toNat % 8)
      let g := (getStrand u c).getG (BitVec.ofNat 6 (f.la.toNat % 32))
      (∀ k v, ([0, BitVec.allOnes 64, a &&& b, a ||| b, a ^^^ b, a &&& ~~~ b, ~~~ a,
          BitVec.ofNat 64 (2 ^ f.la.toNat - 1), g] : List Word)[k]? = some v → f.fn = BitVec.ofNat 4 k →
        Completes s (.pset f) (modTile u t (fun y => setPred y d v))) ∧
      (f.fn = 9 → Completes s (.pset f) (setGOf u c (BitVec.ofNat 6 (f.la.toNat % 32)) (predReg x d)))) ∧
    (Issues s c (.osminit f) u → Completes s (.osminit f) (modTile u t (fun y =>
      let en := laneEnable x f
      let r := mRef f.ld
      mergeM (mergeM y r (lineGen (fun _ => 0xFF800000)) en) { r with idx := (r.idx + 1) % 64 } Line.zero en)))

/-- Once its lines are there, a floating-point word gives every enabled lane the exact result of its operation on the values of its elements, rounded once to TY in the rounding mode; FMAX and FMIN the larger or smaller code, the other operand of a NaN; FABS and FNEG the code with its sign bit cleared or inverted. The flags of the enabled lanes are ORed into FPSTAT, and the word completes, or traps FPEXC after its results when one of them is enabled. (R56, R57, R58, R61, R62, R64, R106, R140, R141, R153, R154.) -/
def Obligations.FloatLineResults : Prop :=
  ∀ (s u : State) (c : CoreId) (f : FL),
    let ty := f.ty.toNat
    let lanes := fun {α : Type} (g : Nat → α) => (List.range 64).map g
    let ends := fun (i : Instr) (x : LineIn) (r : Lanes) => EndsWithFlags s i
      (putLine x.s (coreTile x.s c) f.ld (lineGen (fun k => BitVec.ofNat 32 (r.getD k (0, 0)).1)) x.en) (lanesFlags r x.en)
    let num := fun (l : Line) (k : Nat) => readElem ty (elemOf ty l k)
    let two := [f.la, f.lb]
    (∀ e ∈ ([(.fadd, two, false, fun i k => addNums i.rm (num i.a k) (num i.b k)),
        (.fsub, two, false, fun i k => subNums i.rm (num i.a k) (num i.b k)),
        (.fmul, two, false, fun i k => mulNums (num i.a k) (num i.b k)),
        (.fma, two, true, fun i k => fmaNums i.rm (num i.a k) (num i.b k) (num i.d k)),
        (.fexp2, [f.la], false, fun i k => funNum exp2Val (num i.a k)),
        (.flog2, [f.la], false, fun i k => funNum log2Val (num i.a k)),
        (.frcp, [f.la], false, fun i k => funNum recipVal (num i.a k)),
        (.frsq, [f.la], false, fun i k => funNum rsqrtVal (num i.a k)),
        (.fscale, two, false, fun i k => scaleNum (num i.a k) (lineGet i.b k).toInt)] :
        List ((FL → Instr) × List (BitVec 12) × Bool × (LineIn → Nat → FOut))),
      Issues s c (e.1 f) u →
        (∀ r, lineIn c f e.2.1 e.2.2.1 true u = .error r → EndsAs s (e.1 f) r) ∧
        (∀ i, lineIn c f e.2.1 e.2.2.1 true u = .ok i →
          ends (e.1 f) i (roundLanes ty i.rm false
            (lanes (fun k => if i.en.getLsbD k then some (e.2.2.2 i k) else none))))) ∧
    (Issues s c (.fcvt f) u →
      let src := f.fn.toNat
      (∀ r, lineIn c f [f.la] false true u = .error r → EndsAs s (.fcvt f) r) ∧
      (∀ i, lineIn c f [f.la] false true u = .ok i →
        ends (.fcvt f) i (roundLanes ty i.rm (decide (5 ≤ src ∧ src ≤ 8))
          (lanes (fun k => if i.en.getLsbD k then some (numRes (readElem src (elemOf src i.a k))) else none))))) ∧
    (∀ e ∈ ([(.fmax, two, fun i k => floatPick ty true (elemOf ty i.a k) (elemOf ty i.b k)),
        (.fmin, two, fun i k => floatPick ty false (elemOf ty i.a k) (elemOf ty i.b k)),
        (.fabs, [f.la], fun i k => (elemOf ty i.a k % 2 ^ (fmtBits ty - 1), 0)),
        (.fneg, [f.la], fun i k => (elemOf ty i.a k ^^^ 2 ^ (fmtBits ty - 1), 0))] :
        List ((FL → Instr) × List (BitVec 12) × (LineIn → Nat → Nat × BitVec 6))),
      Issues s c (e.1 f) u →
        (∀ r, lineIn c f e.2.1 false true u = .error r → EndsAs s (e.1 f) r) ∧
        (∀ i, lineIn c f e.2.1 false true u = .ok i → ends (e.1 f) i (lanes (e.2.2 i))))

/-- Every code of E4M3 and of E5M2 that is not a NaN, read as its exact value and rounded back to its format in any of the five rounding modes without random bits, gives the same code and no flag. (R48, R51, R56, R57.) -/
def Obligations.ExactValuesKeepTheirCodes : Prop :=
  ∀ ty ∈ [3, 4], ∀ rm ∈ [0, 1, 2, 3, 4], ∀ code, code < 256 →
    firstNan [readElem ty code] = none → roundRes ty rm 0 (numRes (readElem ty code)) = (code, 0)

/-- Once its lines are there, an integer word gives every enabled lane the exact result on the elements read in its format, modulo 2 to the width, or with SAT clamped to the format's range with flag SAT where that changes it; shifts take their count mod 32 from LB, and ISHR rounds down. IAND, IOR and IXOR work on the codes. The word completes, or traps FPEXC after its results when SAT is raised and enabled. (R34, R35, R52, R106, R141, R155.) -/
def Obligations.IntegerLineResults : Prop :=
  ∀ (s u : State) (c : CoreId) (f : FL),
    let ty := f.ty.toNat
    let bits := if ty = 5 then 32 else if ty = 6 then 16 else 8
    let lo : Int := if ty = 8 then 0 else -(2 ^ (bits - 1))
    let hi : Int := if ty = 8 then 255 else 2 ^ (bits - 1) - 1
    let code : Line → Nat → Nat := fun l k => (lineGet l k).toNat % 2 ^ bits
    let int : Line → Nat → Int := fun l k =>
      if ty ≠ 8 ∧ 2 ^ (bits - 1) ≤ code l k then (code l k : Int) - 2 ^ bits else code l k
    let narrow : Int → Nat × BitVec 6 := fun r =>
      let v := if f.fn.getLsbD 0 then (if r < lo then lo else if hi < r then hi else r) else r
      ((v % 2 ^ bits).toNat, if f.fn.getLsbD 0 ∧ v ≠ r then (32 : BitVec 6) else 0)
    let count : LineIn → Nat → Nat := fun i k => code i.b k % 32
    ∀ e ∈ ([(.iadd, false, fun i k => narrow (int i.a k + int i.b k)), (.isub, false, fun i k => narrow (int i.a k - int i.b k)),
      (.imul, false, fun i k => narrow (int i.a k * int i.b k)),
      (.imad, true, fun i k => narrow (int i.a k * int i.b k + int i.d k)),
      (.ishl, false, fun i k => narrow (int i.a k * 2 ^ count i k)),
      (.ishr, false, fun i k => narrow (int i.a k / 2 ^ count i k)),
      (.imin, false, fun i k => narrow (min (int i.a k) (int i.b k))),
      (.imax, false, fun i k => narrow (max (int i.a k) (int i.b k))),
      (.iand, false, fun i k => (code i.a k &&& code i.b k, 0)), (.ior, false, fun i k => (code i.a k ||| code i.b k, 0)),
      (.ixor, false, fun i k => (code i.a k ^^^ code i.b k, 0))] :
      List ((FL → Instr) × Bool × (LineIn → Nat → Nat × BitVec 6))),
      Issues s c (e.1 f) u →
        (∀ r, lineIn c f [f.la, f.lb] e.2.1 true u = .error r → EndsAs s (e.1 f) r) ∧
        (∀ i, lineIn c f [f.la, f.lb] e.2.1 true u = .ok i →
          let r := (List.range 64).map (e.2.2 i)
          EndsWithFlags s (e.1 f) (putLine i.s (coreTile i.s c) f.ld
            (lineGen (fun k => BitVec.ofNat 32 (r.getD k (0, 0)).1)) i.en) (lanesFlags r i.en))

/-- Once its lines are there: ICMP and FCMP write the enabled bits of a predicate with the condition of FN and keep the others; REDSUM, REDMAX and REDMIN write element 0 with the pairwise tree over the enabled elements, an INT32 sum exactly and then narrowed; SCANADD writes running sums; BPPACK packs the elements clamped to FN planes; OSMX writes its three lines. Flags go to FPSTAT, and the word completes or traps FPEXC. (R66, R106, R141, R156, R159, R160, R161.) -/
def Obligations.CompareReduceAndScan : Prop :=
  ∀ (s u : State) (c : CoreId) (f : FL),
    let ty := f.ty.toNat
    let t := coreTile u c
    let d := f.ld.toNat % 8
    let lanes := fun {α : Type} (g : Nat → α) => (List.range 64).map g
    let put := fun (i : LineIn) (g : Nat → Slot) (en : Word) => putLine i.s (coreTile i.s c) f.ld (lineGen g) en
    let elem := fun (i : LineIn) (k : Nat) (out : Nat) => if i.en.getLsbD k then elemOf ty i.a k else out
    let needs := fun (i : Instr) (readD : Bool) => ∀ r, lineIn c f [f.la] readD true u = .error r → EndsAs s i r
    (∀ e ∈ ([(.icmp, fun a b => (match f.fn.toNat with
          | 0 => decide (readInt ty a = readInt ty b) | 1 => decide (readInt ty a ≠ readInt ty b)
          | 2 => decide (readInt ty a < readInt ty b) | 3 => decide (readInt ty a ≤ readInt ty b)
          | 4 => decide (readInt ty b < readInt ty a) | _ => decide (readInt ty b ≤ readInt ty a), 0)),
        (.fcmp, fun a b => floatCmp f.fn.toNat (readElem ty a) (readElem ty b))] :
        List ((FL → Instr) × (Nat → Nat → Bool × BitVec 6))),
      Issues s c (e.1 f) u →
        (∀ r, lineIn c f [f.la, f.lb] false false u = .error r → EndsAs s (e.1 f) r) ∧
        (∀ i, lineIn c f [f.la, f.lb] false false u = .ok i →
          let res := fun (k : Nat) => e.2 (elemOf ty i.a k) (elemOf ty i.b k)
          ∃ p : Word, EndsWithFlags s (e.1 f) (modTile i.s t (fun x => setPred x d p))
              (lanesFlags (lanes (fun k => (if (res k).1 then 1 else 0, (res k).2))) i.en) ∧
            ∀ k, k < 64 → p.getLsbD k =
              if i.en.getLsbD k then (res k).1 else (predReg (getTile i.s t) d).getLsbD k)) ∧
    (Issues s c (.redsum f) u → needs (.redsum f) false ∧
      ∀ i, lineIn c f [f.la] false true u = .ok i →
        let r := if ty = 5 then intNarrow 5 (f.fn.getLsbD 0)
            ((lanes (fun k => if i.en.getLsbD k then readInt 5 (elemOf 5 i.a k) else 0)).sum)
          else treeOf (sumCode ty i.rm) (0, 0) (lanes (fun k => (elem i k (signBit ty), 0)))
        EndsWithFlags s (.redsum f) (put i (fun _ => BitVec.ofNat 32 r.1) 1) r.2) ∧
    (∀ e ∈ ([(.redmax, true), (.redmin, false)] : List ((FL → Instr) × Bool)), Issues s c (e.1 f) u → needs (e.1 f) false ∧
      ∀ i, lineIn c f [f.la] false true u = .ok i →
        let r := treeOf (extremeNode ty e.2) (0, 0) (lanes (fun k => (elem i k (extremeIdent ty e.2), 0)))
        EndsWithFlags s (e.1 f) (put i (fun _ => BitVec.ofNat 32 r.1) 1) r.2) ∧
    (Issues s c (.scanadd f) u → needs (.scanadd f) false ∧
      ∀ i, lineIn c f [f.la] false true u = .ok i →
        (ty = 5 →
          let r := (scanInt 0 (lanes (fun k => if i.en.getLsbD k then readInt 5 (elemOf 5 i.a k) else 0))).map
            (intNarrow 5 (f.fn.getLsbD 0))
          EndsWithFlags s (.scanadd f) (put i (fun k => BitVec.ofNat 32 (r.getD k (0, 0)).1) i.en) (lanesFlags r i.en)) ∧
        (ty ≠ 5 →
          let vs := lanes (fun k => elem i k (signBit ty))
          let first := sameCode ty (vs.getD 0 0)
          let r := first :: scanFloat ty i.rm first (vs.drop 1)
          EndsWithFlags s (.scanadd f) (putLine i.s t f.ld (lineGen (fun k => BitVec.ofNat 32 (r.getD k (0, 0)).1)) i.en)
            (lanesFlags r (BitVec.allOnes 64)))) ∧
    (Issues s c (.bppack f) u → needs (.bppack f) false ∧
      ∀ i, lineIn c f [f.la] false true u = .ok i →
        let v := fun (n : Nat) => if i.en.getLsbD n then (lineGet i.a n).toInt else 0
        let q := fun (n : Nat) => clampInt (-(2 ^ (f.fn.toNat - 1))) (2 ^ (f.fn.toNat - 1) - 1) (v n)
        EndsWithFlags s (.bppack f) (putLine i.s t f.ld (lineGen (planeSlot q f.fn.toNat)) (BitVec.allOnes 64))
          (if (List.range 64).any (fun n => decide (q n ≠ v n)) then 32 else 0)) ∧
    (Issues s c (.osmx f) u → needs (.osmx f) true ∧
      ∀ i, lineIn c f [f.la] true true u = .ok i →
        let r := mRef f.ld
        let next := fun (n : Nat) => { r with idx := (r.idx + n) % 64 }
        let lane := fun (k : Nat) => osmLane i.rm (lineGet i.d k).toNat (lineGet (readM (getTile u t) (next 1)) k).toNat
          (lineGet i.a k).toNat
        let code := fun (y : Lanes) => lineGen (fun k => BitVec.ofNat 32 (y.getD k (0, 0)).1)
        let ls := roundLanes 0 i.rm false (lanes (fun k => if i.en.getLsbD k then some (lane k).2.1 else none))
        let cs := roundLanes 0 i.rm false (lanes (fun k => if i.en.getLsbD k then some (lane k).2.2 else none))
        let ms : Lanes := lanes (fun k => (if i.en.getLsbD k then (lane k).1 else 0, 0))
        (mPoisoned (getTile u t) (next 1) = true → Traps s (.osmx f) 40 0 0 u) ∧
        (mPoisoned (getTile u t) (next 1) = false → EndsWithFlags s (.osmx f)
          (modTile i.s t (fun y => mergeM (mergeM (mergeM y r (code ms) i.en) (next 1) (code ls) i.en) (next 2) (code cs) i.en))
          (lanesFlags ls i.en ||| lanesFlags cs i.en)))

/-- A matrix word waits while the engine is frozen, while its planes are reloaded, and while a MATTASK occupies it. Else MLDW, its sources checked and granted, writes the shadow plane and its load record; MSWAP exchanges the planes; ACCZERO binds the name with every element +0.0, VROWS 128, closed and clean; ACCPIN sets PIN, or traps ACCOWNER (25) with three other names pinned; ACCUNPIN clears it; MRANK1 adds the rounded fused products u_i times v_j to every row and sets VROWS to 128. No other binding of the tile changes. (R163, R164, R167, R170, R171, R174, R180, R181, R183, R184, R226, R322.) -/
def Obligations.PlanesAndBindings : Prop :=
  (∀ (s u : State) (t q : Nat) (f : FX),
    let c := CoreId.tile t q
    let st := getStrand u c
    let ctx := ctxNo u c
    let an := f.an.toNat
    let x := getTile u t
    (∀ con ∈ ([.mldw, .mswap, .mrank1, .acczero, .accpin, .accunpin] : List (FX → Instr)), Issues s c (con f) u →
      (x.mx.frozen = true ∨ reloading u t = true →
        Waits s (con f) { what := .frozen, kind := 11, name := 0x010, bounded := false } u) ∧
      (x.mx.frozen = false → reloading u t = false → mattaskOn u t = true →
        Waits s (con f) { what := .frozen, kind := 11, name := 0x010 } u)) ∧
    (EngineFree u t →
      (Issues s c (.mldw f) u →
        let sp := f.flags.getLsbD 0
        let r : LoadRec := ⟨st.getA f.ar1.toNat, f.tw.toNat, 0, (f.flags.extractLsb' 1 4).toNat, sp,
          if sp then st.getA f.ar2.toNat else 0, if f.tw = 9 then st.getG f.rk else 0⟩
        ∀ p v pl, planeRefs u ctx t r = .ok p → grantRefs u c 4 ctx p.segs true = .ok v → readPlane v ctx r p = .ok pl →
          Completes s (.mldw f) (modTile v t (fun y => { y with mx := { y.mx with shadow := pl } })) ∧
          pl.load = { r with planes := p.planes, jp := p.jp } ∧ pl.unloaded = none ∧ pl.pending = false) ∧
      (Issues s c (.mswap f) u → Completes s (.mswap f) (modTile u t (fun y =>
        { y with mx := { y.mx with active := y.mx.shadow, shadow := y.mx.active } }))) ∧
      (Issues s c (.acczero f) u → ∀ v, readyAcc u ctx t an = .ok v → ∃ w, Completes s (.acczero f) w ∧
        ((tabFind v.ctxs ctx).isSome → ∃ a, getAcc w ctx t an = some a ∧ a.rows = [] ∧ a.bad = [] ∧ a.vrows = 128 ∧
          a.poison = false ∧ a.opened = false ∧ (∀ r, accRow a r = AccRow.zero) ∧
          ∀ cx k n, n < 8 → (cx, k, n) ≠ (ctx, t, an) → getAcc w cx k n = getAcc v cx k n)) ∧
      (Issues s c (.accpin f) u →
        (3 ≤ pinCount u ctx t an → EngineTraps s (.accpin f) 25 t u) ∧
        (∀ v, pinCount u ctx t an < 3 → readyAcc u ctx t an = .ok v → ∃ w, Completes s (.accpin f) w ∧
          ((tabFind v.ctxs ctx).isSome → ∃ a, getAcc w ctx t an = some a ∧ a.pin = true ∧ a.opened = false ∧
            ∀ b, getAcc v ctx t an = some b → a = { b with pin := true, opened := false, touch := a.touch, entry := true, dir := [] }))) ∧
      (Issues s c (.accunpin f) u → ∃ w, Completes s (.accunpin f) w ∧
        getAcc w ctx t an = (getAcc u ctx t an).map (fun a => { a with pin := false })) ∧
      (Issues s c (.mrank1 f) u →
        let ta := f.ta.toNat
        let tw := f.tw.toNat
        ∀ nu nv v w, (∀ a, getAcc u ctx t an = some a → a.poison = false ∧ a.bad = []) → readyAcc u ctx t an = .ok v →
          (if qsrc f then awaitLines u t (List.replicate 4 (srcQueue f)) none = .ok () ∧
              ∃ ls, popMany v t (srcQueue f) 4 v = .ok (ls, w) ∧
                nu = numsOfLines ta (ls.take 2) ∧ nv = numsOfLines tw (ls.drop 2)
            else ∃ x y, mxPair u c (st.getA f.ar1.toNat) (128 * (fmtBits ta / 8)) (fmtBits ta / 8) ta
                (st.getA f.ar2.toNat) (128 * (fmtBits tw / 8)) (fmtBits tw / 8) tw false = .ok (x, y) ∧
              grantRefs v c 4 ctx [x.1, y.1] true = .ok w ∧
              segPoisoned w ctx x.1.name x.1.tile x.2 (128 * (fmtBits ta / 8)) = false ∧
              segPoisoned w ctx y.1.name y.1.tile y.2 (128 * (fmtBits tw / 8)) = false ∧
              nu = numsOfBytes ta (segBytes w ctx x.1.name x.1.tile x.2 (128 * (fmtBits ta / 8))) ∧
              nv = numsOfBytes tw (segBytes w ctx y.1.name y.1.tile y.2 (128 * (fmtBits tw / 8)))) →
          let w1 := bindAcc w ctx t an
          let p := mapRows ((getAcc w1 ctx t an).getD (Acc.fresh 0)) (fun i row => rankRow (nu.getD i Machine.Num.zero) nv row)
          EndsWithFlags s (.mrank1 f) (setAcc w1 ctx t an { p.1 with vrows := 128, opened := !p.1.pin }) p.2 true))) ∧
  (∀ (a : Acc) (g : Nat → AccRow → AccRow × BitVec 6) (r : Nat), r < 128 →
    accRow (mapRows a g).1 r = (g r (accRow a r)).1)

/-- Each works row by row from its progress record, a row in each turn of its strand: it begins at NEXT when it goes on or resumes, else at row 0, and completes with the last row, its record IDLE. A row count out of range traps ACCSTATE (26) with the record PARKED and in DETAIL1. A row of MSTREAM enters the array, its activations read or popped, in one turn, and in the next it leaves: activations times the active plane are added to its accumulator row, with the same result at whatever depth its wavefront has stood meanwhile (R179). ACCRD stores rows rounded to TW, ACCWR writes rows; each row is recorded in NEXT as it is done, and its flags go to FPSTAT. A row that cannot be read leaves an UNBOUND name unbound (R7). A count of 0 performs the checks and the grant and completes. (R7, R64, R167, R171, R174, R175, R176, R179, R180, R182, R185.) -/
def Obligations.MatrixStreams : Prop :=
  (∀ (s u : State) (t q : Nat) (f : FX),
    let c := CoreId.tile t q
    let st := getStrand u c
    let ctx := ctxNo u c
    let an := f.an.toNat
    let act := (getTile u t).mx.active
    let width := fun (b : BitVec 4) => fmtBits b.toNat / 8
    let gk := st.getG f.rk
    let n := (gk.extractLsb' 0 8).toNat
    let row0 := (gk.extractLsb' 8 8).toNat
    let legal := gk.extractLsb' 16 48 = 0 ∧ n ≤ 128 ∧ row0 ≤ 127 ∧ row0 + n ≤ 128
    let rec_ := fun (kind : Nat) => begunRecord (getTile u t).mx.prog st.mode kind an
    let u1 := fun (kind : Nat) => setProg u t (rec_ kind)
    let parked := fun (kind : Nat) => modTile (u1 kind) t (fun y => { y with mx := y.mx.park (decide (st.mode = .supervisor)) })
    let empty := fun (i : Instr) (kind : Nat) (segs : List SegRef) =>
      ∀ v, n = 0 → operandGrant (u1 kind) c segs = .ok v → Completes s i (setProg v t Progress.zero)
    let ends := fun (i : Instr) (kind : Nat) (z : State) (last : State → State) =>
      ((rec_ kind).next + 1 < n → GoesOn s i z) ∧
      (n ≤ (rec_ kind).next + 1 → EndsWithFlags s i (setProg (last z) t Progress.zero) (progFlags z t) true)
    let row := fun (i : Instr) (kind : Nat) (segs : List SegRef) (step : State → Ex State) (last : State → State) =>
      ∀ v w z, n ≠ 0 → readyAcc (u1 kind) ctx t an = .ok v → operandGrant v c segs = .ok w → step w = .ok z → ends i kind z last
    EngineFree u t →
      (Issues s c (.mstream f) u → ∀ wv, (getTile u t).mx.wave = some wv →
        ends (.mstream f) 0 (rowLeaves c f row0 (rec_ 0).next wv (u1 0)) id) ∧
      (Issues s c (.mstream f) u → (getTile u t).mx.wave = none →
        let L := if act.load.sp then 256 else 128
        (f.ta ≠ 1 → act.load.tw = 1 → EngineTraps s (.mstream f) 27 t (parked 0)) ∧
        ((f.ta = 1 ∨ act.load.tw ≠ 1) →
          (¬ legal → EngineTraps s (.mstream f) 26 t (parked 0)) ∧
          (∀ r, legal → (if qsrc f then r = none else ∃ x, r = some x ∧
              mxSeg (u1 0) c (st.getA f.ar1.toNat) (n * L * width f.ta) (width f.ta) f.ta.toNat false = .ok x) →
            let segs := (r.map (·.1)).toList
            (∀ k d0 d1, act.unloaded = some (k, d0, d1) → exec (.mstream f) s = .next (trapCore (parked 0) c
              ⟨k, true, d0, if ownDetail k then d1 else progressWord (getTile (parked 0) t).mx.prog⟩)) ∧
            (act.unloaded = none → empty (.mstream f) 0 segs ∧
              ∀ v w z, n ≠ 0 → readyAcc (u1 0) ctx t an = .ok v → operandGrant v c segs = .ok w →
                rowEnters c f r L row0 (rec_ 0).next w = .ok z → GoesOn s (.mstream f) z)))) ∧
      (Issues s c (.accrd f) u → ∀ rm, roundMode (u1 1) c (f.flags.extractLsb' 0 3) = .ok rm →
        (¬ legal → EngineTraps s (.accrd f) 26 t (parked 1)) ∧
        (legal → getAcc u ctx t an = none → EngineTraps s (.accrd f) 26 t (parked 1)) ∧
        (∀ x, legal → (getAcc u ctx t an).isSome →
          mxSeg (u1 1) c (st.getA f.ar1.toNat) (n * 128 * width f.tw) (width f.tw) f.tw.toNat true = .ok x →
          empty (.accrd f) 1 [x.1] ∧ row (.accrd f) 1 [x.1] (fun w => readStep c f x.1 x.2 rm row0 (rec_ 1).next (bindAcc w ctx t an))
            (fun z => modAcc z ctx t an (fun a => { a with opened := false })))) ∧
      (Issues s c (.accwr f) u →
        (¬ legal → EngineTraps s (.accwr f) 26 t (parked 2)) ∧
        (∀ x, legal → mxSeg (u1 2) c (st.getA f.ar1.toNat) (n * 128 * width f.ta) (width f.ta) f.ta.toNat false = .ok x →
          empty (.accwr f) 2 [x.1] ∧ row (.accwr f) 2 [x.1] (writeStep c f x.1 x.2 row0 (rec_ 2).next) id))) ∧
  (∀ (t q : Nat) (f : FX) (u : State) (r : SegRef) (o L row0 m rm : Nat) (wv : Wave),
    let c := CoreId.tile t q
    let ctx := ctxNo u c
    let an := f.an.toNat
    let wa := fmtBits f.ta.toNat / 8
    let ww := fmtBits f.tw.toNat / 8
    (∀ a, getAcc u ctx t an = some a → a.poison = false ∧ (row0 + m) ∉ a.bad) →
      let entered := fun (acts : List Machine.Num) (v : State) => setWave (bindAcc v ctx t an) t (some (Wave.enter acts))
      (segPoisoned u ctx r.name r.tile (o + m * L * wa) (L * wa) = false →
        rowEnters c f (some (r, o)) L row0 m u =
          .ok (entered (numsOfBytes f.ta.toNat (segBytes u ctx r.name r.tile (o + m * L * wa) (L * wa))) u)) ∧
      (∀ ls v, awaitLines u t (List.replicate (L / 64) (srcQueue f)) none = .ok () →
        popMany u t (srcQueue f) (L / 64) u = .ok (ls, v) →
        rowEnters c f none L row0 m u = .ok (entered (numsOfLines f.ta.toNat ls) v)) ∧
      (∀ a, getAcc u ctx t an = some a →
        let y := waveRow (getTile u t).mx.active wv (accRow a (row0 + m))
        rowLeaves c f row0 m wv u = progNext (setAcc (setWave u t none) ctx t an { setAccRow a (row0 + m) y.1 with
          vrows := max a.vrows (row0 + m + 1), opened := !a.pin, load := (getTile u t).mx.active.load }) c t (m + 1) y.2) ∧
      (∀ a, getAcc u ctx t an = some a →
        let row := roundRow f.tw.toNat rm (accRow a (row0 + m))
        readStep c f r o rm row0 m u =
          .ok (progNext (segWrite u ctx r.name r.tile (o + 128 * m * ww) (bytesOfCodes f.tw.toNat row)) c t (m + 1)
            (row.foldl (fun x v => x ||| v.2) 0))) ∧
      (segPoisoned u ctx r.name r.tile (o + 128 * m * wa) (128 * wa) = false →
        let out := (numsOfBytes f.ta.toNat (segBytes u ctx r.name r.tile (o + 128 * m * wa) (128 * wa))).map
          (fun x => convTo 0 0 0 false (numRes x))
        writeStep c f r o row0 m u =
          .ok (progNext (modAcc (bindAcc u ctx t an) ctx t an (fun b => { setAccRow b (row0 + m) (out.map (fun v => BitVec.ofNat 32 v.1)) with
            vrows := max b.vrows (row0 + m + 1), opened := !b.pin })) c t (m + 1) (out.foldl (fun x v => x ||| v.2) 0)))) ∧
  (∀ (p : Plane) (acts : List Machine.Num) (row : AccRow), acts.length ≤ 128 * rowActs p →
    waveRow p (Wave.enter acts) row = streamRow ((List.range 128).map (planeColumn p)) acts row) ∧
  (∀ (p : Plane) (d : Nat) (w : Wave) (row : AccRow), waveRow p (w.advance p d) row = waveRow p w row) ∧
  (∀ (c : CoreId) (t n : Nat) (fl : BitVec 6) (u : State),
    (getTile (progNext u c t n fl) t).mx.prog.next = n ∧ progFlags (progNext u c t n fl) t = progFlags u t ||| fl)

/-- Each works token by token from its progress record as KIND 5 and 6, a token in each turn of its strand. GDREAD of an UNBOUND name and a bad token count trap ACCSTATE (26). An UNBOUND name of GDELTA is bound once the record of its token is read (R7). The order of two NaNs in a dot product is the model's choice of log entry 76, and that of the four-operand step log entry 63. A token of GDELTA pops its record before its grant, or reads it after, updates every row of the state by the delta rule and, with EMIT, writes or pushes the read of the updated state; GDREAD writes or pushes the read of the state for its query. Each token is recorded in NEXT as it is done; with the last the word completes, its record IDLE, and traps FPEXC after it when a raised flag is enabled. (R7, R174, R176, R180, R187, R188, log entry 63, log entry 76.) -/
def Obligations.DeltaWords : Prop :=
  (∀ (s u : State) (t q : Nat) (f : FX),
    let c := CoreId.tile t q
    let st := getStrand u c
    let ctx := ctxNo u c
    let an := f.an.toNat
    let gt := st.getG f.rk
    let T := (gt.extractLsb' 0 8).toNat
    let legal := gt.extractLsb' 8 56 = 0 ∧ T ≤ 128
    let a1 := st.getA f.ar1.toNat
    let a2 := st.getA f.ar2.toNat
    ∀ e ∈ ([(.gdelta, 5, true, f.flags.getLsbD 7, if f.flags.getLsbD 7 then 7 else 5), (.gdread, 6, false, true, 2)] :
        List ((FX → Instr) × Nat × Bool × Bool × Nat)),
      let p := begunRecord (getTile u t).mx.prog st.mode e.2.1 an
      let u1 := setProg u t p
      let upd := e.2.2.1
      let emit := e.2.2.2.1
      let R := e.2.2.2.2
      let toSeg := emit && (qdst f).isNone
      let parked := modTile u1 t (fun y => { y with mx := y.mx.park (decide (st.mode = .supervisor)) })
      Issues s c (e.1 f) u → EngineFree u t →
        (¬ legal → EngineTraps s (e.1 f) 26 t parked) ∧
        (legal → upd = false → getAcc u ctx t an = none → EngineTraps s (e.1 f) 26 t parked) ∧
        (∀ (src dst : Option (SegRef × Nat)), legal → (upd = true ∨ (getAcc u ctx t an).isSome) →
          (match src, dst with
            | some x, some y => qsrc f = false ∧ toSeg = true ∧
                mxPair u1 c a1 (256 * R * T) 4 0 a2 (512 * T) 4 0 true = .ok (x, y)
            | some x, none => qsrc f = false ∧ toSeg = false ∧ mxSeg u1 c a1 (256 * R * T) 4 0 false = .ok x
            | none, some y => qsrc f = true ∧ toSeg = true ∧ mxSeg u1 c a2 (512 * T) 4 0 true = .ok y
            | none, none => qsrc f = true ∧ toSeg = false) →
          let segs := (src.map (·.1)).toList ++ (dst.map (·.1)).toList
          let queues := src.isNone || (emit && dst.isNone)
          (∀ v, T = 0 → operandGrant u1 c (if queues then [] else segs) = .ok v →
            Completes s (e.1 f) (setProg v t Progress.zero)) ∧
          (∀ v w y z, T ≠ 0 → readyAcc u1 ctx t an = .ok v → tokenPops c f emit src dst R v = .ok w →
            operandGrant w c segs = .ok y → tokenStep c f upd emit src dst R p.next y = .ok z →
            let z1 := rowPins z c queues
            (p.next + 1 < T → GoesOn s (e.1 f) z1) ∧
            (T ≤ p.next + 1 → EndsWithFlags s (e.1 f) (setProg z1 t Progress.zero) (progFlags z1 t) true)))) ∧
  (∀ (t q : Nat) (f : FX) (upd emit : Bool) (src dst : Option (SegRef × Nat)) (u : State) (R m : Nat) (r : List Machine.Num),
    let c := CoreId.tile t q
    let ctx := ctxNo u c
    let an := f.an.toNat
    (∀ a, getAcc u ctx t an = some a → a.poison = false ∧ a.bad = []) → tokenRecord c src R m u = .ok r →
      let s0 := bindAcc u ctx t an
      let a := (getAcc s0 ctx t an).getD (Acc.fresh 0)
      let g := r.drop (64 * (R - 1))
      let b := if upd then mapRows a (fun i row => deltaRow (g.getD 0 Machine.Num.zero) (g.getD 1 Machine.Num.zero) (r.take 128)
        (r.getD (128 + i) Machine.Num.zero) row) else (a, 0)
      let out := if emit then emitRead b.1 (if upd then (r.drop 256).take 128 else r.take 128) else []
      let u1 := if upd then setAcc s0 ctx t an { b.1 with vrows := 128, opened := !b.1.pin } else s0
      tokenStep c f upd emit src dst R m u =
        .ok (progNext (setHeld (if emit then tokenOut c f dst m out u1 else u1) t []) c t (m + 1)
          (out.foldl (fun z v => z ||| v.2) b.2))) ∧
  (∀ (c : CoreId) (f : FX) (x : SegRef × Nat) (R m : Nat) (u : State) (out : List CodeFl),
    let ctx := ctxNo u c
    let o := x.2 + 256 * R * m
    (segPoisoned u ctx x.1.name x.1.tile o (256 * R) = false →
      tokenRecord c (some x) R m u = .ok (numsOfBytes 0 (segBytes u ctx x.1.name x.1.tile o (256 * R)))) ∧
    tokenRecord c none R m u = .ok (numsOfLines 0 (getTile u (coreTile u c)).mx.prog.held) ∧
    tokenOut c f (some x) m out u = segWrite u ctx x.1.name x.1.tile (x.2 + 512 * m) (bytesOfCodes 0 out) ∧
    (∀ d, qdst f = some d → tokenOut c f none m out u =
      pushLine (pushLine u (coreTile u c) d (lanesLine (out.take 64))) (coreTile u c) d (lanesLine (out.drop 64)))) ∧
  (∀ (t q : Nat) (f : FX) (emit : Bool) (dst : Option (SegRef × Nat)) (R : Nat) (u v : State) (ls : List QLine),
    let c := CoreId.tile t q
    (getTile u t).mx.prog.held = [] →
    awaitLines u t (List.replicate R (srcQueue f)) (if emit ∧ dst.isNone then (qdst f).map (·, 2) else none) = .ok () →
    popMany u t (srcQueue f) R u = .ok (ls, v) →
    ∃ w, tokenPops c f emit none dst R u = .ok w ∧ (getTile w t).mx.prog.held = ls)

/-- ACCSPILL of a bound name writes the header of its image and then its rows, an access in each turn, and with the last, unless KEEP keeps it closed, releases the name; ACCFILL reads the header, which traps ACCSTATE or ACCOWNER as the image says, and then the rows. The OTHER forms do so for a name of a context not running on the tile, in supervisor mode only, while no other OTHER form is in the middle of that binding (R189). That ACCSPILL.OTHER leaves a binding with a bad row POISON is the model's choice of log entry 80; that ACCFILL.OTHER of an UNBOUND name takes a free slot and entry, or else the sidings, is its reading of log entry 13, and which blocks of the sidings an image takes log entry 16. An image gives back the rows and attributes it was made from. ACC_REFILL ends a refill, the binding LIVE with the content of its image and its sidings free; SLOT_SPILL ends a spill, the image in its blocks of the sidings. (R7, R167, R168, R169, R171, R172, R173, R186, R189, log entry 13, log entry 16, log entry 80.) -/
def Obligations.SpillAndFill : Prop :=
  (∀ (s u : State) (t q : Nat) (f : FX),
    let c := CoreId.tile t q
    let st := getStrand u c
    let ctx := ctxNo u c
    let an := f.an.toNat
    let a1 := st.getA f.ar1.toNat
    let keep := f.flags.getLsbD 0
    let p := fun (kind : Nat) => begunRecord (getTile u t).mx.prog st.mode kind an
    let rec_ := fun (kind : Nat) => setProg u t (p kind)
    let idle := fun (v : State) => setProg v t Progress.zero
    let parked := fun (v : State) => modTile v t (fun y => { y with mx := y.mx.park (decide (st.mode = .supervisor)) })
    let left := fun (v : State) (cx k : Nat) =>
      if keep then modAcc v cx k an (fun b => { b with opened := false }) else freeAcc v cx k an
    EngineFree u t →
      (Issues s c (.accspill f) u →
        let m := (p 3).next
        (getAcc u ctx t an = none → EngineTraps s (.accspill f) 26 t (parked (rec_ 3))) ∧
        (∀ x v w a, (getAcc u ctx t an).isSome → mxSeg (rec_ 3) c a1 65600 64 0 true = .ok x →
          readyAcc (rec_ 3) ctx t an = .ok v → operandGrant v c [x.1] = .ok w → getAcc w ctx t an = some a →
          let put := fun (o : Nat) (bs : List Byte) => segWrite (bindAcc w ctx t an) ctx x.1.name x.1.tile o bs
          (a.poison = true → EngineTraps s (.accspill f) 40 t (parked w)) ∧
          (a.poison = false → (p 3).head = none →
            GoesOn s (.accspill f) (headDone (put x.2 (accHeader a ctx an)) t [])) ∧
          (a.poison = false → (p 3).head ≠ none → m ∈ a.bad →
            EngineTraps s (.accspill f) 40 t (parked (setAcc w ctx t an { a with poison := true }))) ∧
          (a.poison = false → (p 3).head ≠ none → m ∉ a.bad →
            let z := progNext (put (x.2 + 64 + 512 * m) (rowBytes (accRow a m))) c t (m + 1) 0
            (m + 1 < 128 → GoesOn s (.accspill f) z) ∧ (128 ≤ m + 1 → Completes s (.accspill f) (idle (left z ctx t)))))) ∧
      (Issues s c (.accfill f) u →
        let m := (p 4).next
        ∀ x v w bs, mxSeg (rec_ 4) c a1 65600 64 0 false = .ok x → readyAcc (rec_ 4) ctx t an = .ok v →
          operandGrant v c [x.1] = .ok w →
          ((p 4).head = some bs ∨ ((p 4).head = none ∧ segPoisoned w ctx x.1.name x.1.tile x.2 64 = false ∧
            bs = segBytes w ctx x.1.name x.1.tile x.2 64)) →
          let o := x.2 + 64 + 512 * m
          (∀ k, imageHead ctx bs = .error k → EngineTraps s (.accfill f) k t (parked w)) ∧
          (∀ a, imageHead ctx bs = .ok a → a.pin = true → 3 ≤ pinCount w ctx t an →
            EngineTraps s (.accfill f) 25 t (parked w)) ∧
          (∀ a, imageHead ctx bs = .ok a → (a.pin = true → pinCount w ctx t an < 3) →
            ((p 4).head = none → GoesOn s (.accfill f) (headDone w t bs)) ∧
            ((p 4).head ≠ none → segPoisoned w ctx x.1.name x.1.tile o 512 = false →
              let z := progNext (modAcc (bindAcc w ctx t an) ctx t an (fun b =>
                setAccRow b m (rowOfBytes (segBytes w ctx x.1.name x.1.tile o 512)))) c t (m + 1) 0
              (m + 1 < 128 → GoesOn s (.accfill f) z) ∧
              (128 ≤ m + 1 → Completes s (.accfill f) (idle (modAcc z ctx t an (fun b =>
                { a with loc := b.loc, touch := b.touch, entry := b.entry, side := b.side, dir := b.dir, rows := b.rows }))))))) ∧
      (
        let cx := ((st.getG f.rk).extractLsb' 0 9).toNat
        let k := ((st.getG f.rk).extractLsb' 9 8).toNat
        let j := st.step
        let there := (st.getG f.rk).extractLsb' 17 47 = 0 ∧ k / 32 = t / 32 ∧ tilePresent u k = true ∧
          (tabFind u.ctxs cx).isSome ∧ runningOn u cx k = false ∧ (∀ b, getAcc u cx k an = some b → accMoves b = false) ∧
          otherHolds u cx k (some (an % 8)) (some c) = false
        (∀ con ∈ ([.accspillOther, .accfillOther] : List (FX → Instr)), Issues s c (con f) u →
          (getStrand s c).mode = .supervisor) ∧
        (Issues s c (.accspillOther f) u → there →
          (getAcc u cx k an = none → Traps s (.accspillOther f) 26 0 0 u) ∧
          (∀ b x w, getAcc u cx k an = some b → mxSeg u c a1 65600 64 0 true = .ok x →
            holdGrant u c 4 ctx [x.1] false = .ok w →
            let a := accNow w cx b
            let z := segWrite w ctx x.1.name x.1.tile (x.2 + 64 + 512 * (j - 1)) (rowBytes (accRow a (j - 1)))
            (a.poison = true → Traps s (.accspillOther f) 40 0 0 w) ∧
            (a.poison = false → j = 0 →
              GoesOn s (.accspillOther f) (stepOn (segWrite w ctx x.1.name x.1.tile x.2 (accHeader a cx an)) c)) ∧
            (a.poison = false → j ≠ 0 → j - 1 ∈ a.bad →
              Traps s (.accspillOther f) 40 0 0 (setAcc w cx k an { b with poison := true })) ∧
            (a.poison = false → j ≠ 0 → j - 1 ∉ a.bad → (j < 128 → GoesOn s (.accspillOther f) (stepOn z c)) ∧
              (128 ≤ j → Completes s (.accspillOther f) (left z cx k))))) ∧
        (Issues s c (.accfillOther f) u → there →
          ∀ x w, mxSeg u c a1 65600 64 0 false = .ok x → holdGrant u c 4 ctx [x.1] false = .ok w →
            let got := st.staged.getD []
            let len := if j = 0 then 64 else 512
            segPoisoned w ctx x.1.name x.1.tile (x.2 + got.length) len = false →
            let bs := got ++ segBytes w ctx x.1.name x.1.tile (x.2 + got.length) len
            (∀ e, imageHead cx bs = .error e → Traps s (.accfillOther f) e 0 0 w) ∧
            (∀ a, imageHead cx bs = .ok a → (a.pin = true → pinCount w cx k an < 3) →
              (j < 128 → GoesOn s (.accfillOther f) (modStrand (stepOn w c) c (fun y => { y with staged := some bs }))) ∧
              (∀ old, 128 ≤ j → getAcc w cx k an = some old →
                Completes s (.accfillOther f) (otherFill w cx k an old { a with rows := imageRows bs })) ∧
              (∀ z, 128 ≤ j → getAcc w cx k an = none → otherPlace w cx k an { a with rows := imageRows bs } = some z →
                Completes s (.accfillOther f) (claimEntries z k)))))) ∧
  (∀ (w : State) (cx k an n : Nat) (a : Acc), freeSlot w k = some n → ((accsOn w k).filter (fun e => e.2.2.entry)).length < 8 →
    (tabFind w.ctxs cx).isSome → ∃ z, otherPlace w cx k an a = some z ∧
      getAcc z cx k an = some { a with loc := .live n, entry := true }) ∧
  (∀ (a : Acc) (ctx name : Nat), ctx < 512 → a.vrows ≤ 128 → a.pin = false ∨ a.opened = false →
    a.load.tw < 16 → a.load.planes < 16 → a.load.jp < 16 → (∀ r, (accRow a r).length = 128) →
    ∃ b, imageHead ctx (accHeader a ctx name) = .ok b ∧ b.pin = a.pin ∧ b.opened = a.opened ∧ b.vrows = a.vrows ∧
      b.load.src = a.load.src ∧ b.load.tw = a.load.tw ∧ b.load.sp = a.load.sp ∧
      (a.load.tw = 9 → b.load.planes = a.load.planes ∧ b.load.jp = a.load.jp) ∧
      ∀ r, r < 128 → tabGet AccRow.zero (imageRows (accImage a ctx name)) r = accRow a r) ∧
  (∀ (s : State) (t ctx name n : Nat) (a : Acc),
    ((accsOn s t).find? (fun e => match e.2.2.loc with | .filling _ => true | _ => false) = some (ctx, name, a) →
      a.loc = .filling n → accWaiters s t = [] → ∃ v, Happens s (.accRefill t) v ∧
        (name < 8 → getAcc s ctx t name = some a →
          getAcc v ctx t name = some { accNow s ctx { a with loc := .spilled } with loc := .live n, side := [] } ∧
          (tabFind v.ctxs ctx).map (·.sidings) = (tabFind s.ctxs ctx).map (fun x => x.sidings - 65600))) ∧
    ((accsOn s t).find? (fun e => match e.2.2.loc with | .spilling _ => true | _ => false) = some (ctx, name, a) →
      getAcc s ctx t name = some a →
        let v := sidePut (setAcc s ctx t name { a with loc := .spilled }) ctx a.side (accImage a ctx name) []
        accWaiters (claimEntries v t) t = [] → Happens s (.slotSpill t) (claimEntries v t)))

/-- ECMD checks its 128 bytes, waits with KIND 9 for room (QFULL with NB), goes on for a clock when a higher sequencer has queued a command in this one, and completes with a copy of a well-formed command queued, or traps CMDFORMAT with the lowest failing byte; an operand in SPACE 3 that names this device is one in SPACE 1. EKICK queues a chain in the same way. EWAIT completes when every awaited flag is set, clearing exactly those with CLR, and else waits with KIND 4; EPOLL reads all flags; a clear comes before the sets of its clock, does not see them and leaves them standing. ELINK writes LINK and the header bits of an entry. EQSTAT reads the state of a queue. WITHDRAW sends a withdrawal to each producer and never waits. (R191, R193, R198, R205, R210, R211, R212, R213, R214, R215, R231, R233.) -/
def Obligations.EngineWords : Prop :=
  (∀ (s u : State) (c : CoreId) (f : FQ),
    let st := getStrand u c
    let ctx := ctxNo u c
    let t := coreTile u c
    let a := st.getA f.ar.toNat
    let off0 : Int := (a.extractLsb' 0 32).toNat + f.disp.toInt + st.dispStep
    let off : Int := (a.extractLsb' 0 32).toNat + (st.getG f.rc).toInt + f.disp.toInt + st.dispStep
    let q := queueOfQn t f.qn
    let q1 := queueOfQn t (f.qn &&& 1)
    let full := fun (i : Instr) (nb : Bool) (p : EngQueue) => queueRoom u p t = false →
      (nb = true → Traps s i 31 0 0 u) ∧
      (nb = false → Waits s i { what := .engineSpace, kind := 9, name := engineName p, psrc := spaceSrc u p t } u)
    (Issues s c (.ecmd f) u →
      (∀ x v, segCheck u ctx t a off 128 64 false = .error (.trap x v) → exec (.ecmd f) s = .next (trapCore v c x)) ∧
      (∀ r o, segCheck u ctx t a off 128 64 false = .ok (r, o) →
        full (.ecmd f) (f.aux.getLsbD 0) q ∧
        (queueRoom u q t = true → enteredLater u c = true → GoesOn s (.ecmd f) u) ∧
        (∀ v, queueRoom u q t = true → enteredLater u c = false → grantRefs u c (coreClient c) ctx [r] = .ok v →
          segPoisoned v ctx r.name r.tile o 128 = false →
          let raw := ownRaw v (BitVec.ofNat 1024 (leNat (segBytes v ctx r.name r.tile o 128)))
          let fails := cmdFailByte v ctx (domainSize v (coreLaunch v c)) (queueServes q) false (isBox c) raw
          (∀ b, fails = some b → Traps s (.ecmd f) 30 (BitVec.ofNat 64 b) (mkA r.name o) v) ∧
          (fails = none → let z := takeInstance v (coreLaunch v c) raw
            Completes s (.ecmd f) (enqueueCmd z.2 { newCmd z.2 c q (mkA r.name o) raw none with inst := z.1 }))))) ∧
    (Issues s c (.ekick f) u →
      (∀ x v, segCheck u ctx t a off0 128 64 false = .error (.trap x v) → exec (.ekick f) s = .next (trapCore v c x)) ∧
      (∀ r o, segCheck u ctx t a off0 128 64 false = .ok (r, o) →
        full (.ekick f) (f.qn.getLsbD 3) q1 ∧
        (queueRoom u q1 t = true → Completes s (.ekick f) (enqueueChain u (newCmd u c q1 (mkA r.name o) 0
          (some ⟨mkA r.name o, 0, f.aux.toNat, false, none⟩)))))) ∧
    (Issues s c (.elink f) u → ∀ r o v, segCheck u ctx t a off0 128 64 true = .ok (r, o) →
      grantRefs u c (coreClient c) ctx [r] = .ok v → segPoisoned v ctx r.name r.tile o 8 = false →
      let g := st.getG f.rc
      let h : Word := BitVec.ofNat 64 (leNat (segBytes v ctx r.name r.tile o 8))
      let h1 := (h &&& 0x0000FFFFFFFFFEFF) ||| 0x200
      let wrote := fun (link : Word) => Completes s (.elink f)
        (segWrite (segWrite v ctx r.name r.tile o (leBytes 8 h1.toNat)) ctx r.name r.tile (o + 24) (leBytes 8 link.toNat))
      (isA f.rc = true → wrote (st.getA (aNum f.rc))) ∧
      (f.rc = 0 → wrote 0) ∧
      (isA f.rc = false → f.rc ≠ 0 → g.toNat < 2 ^ 52 → wrote (g ||| 0x8000000000000000)) ∧
      (isA f.rc = false → f.rc ≠ 0 → 2 ^ 52 ≤ g.toNat → Traps s (.elink f) 19 0 0 u)) ∧
    (Issues s c (.eqstat f) u →
      let l := u.cmds.filter (fun e => e.2.queue == q)
      let mine := (l.filter (fun e => e.2.tile == t)).length
      let last := (tabGet 0 u.lastStatus (16 * t + qnOfQueue q)).toNat
      let prog := match l.head? with | some e => if e.2.tile = t then e.2.progress % 2 ^ 32 else 0 | none => 0
      Completes s (.eqstat f) (setGOf u c f.rc
        (BitVec.ofNat 64 (queueState l.head? * 2 ^ 62 + mine * 2 ^ 55 + last * 2 ^ 32 + prog))))) ∧
  (∀ (s u : State) (t p : Nat) (f : FQ),
    let c := CoreId.tile t p
    let flags := (getTile u t).flags
    let one : Word := 1 <<< (f.aux.extractLsb' 0 6).toNat
    let m := if f.rc = 0 then one else (getStrand u c).getG f.rc
    let clr := f.aux.getLsbD 6
    let now := (getTile u t).setNow
    let before := (flags &&& ~~~ now) ||| ((getTile u t).wasSet &&& now)
    let seen := if clr then before else flags
    let clear := fun (v : State) (x : Word) => modTile v t (fun y =>
      { y with flags := y.flags &&& ~~~ (x &&& ~~~ y.setNow), wasSet := y.wasSet &&& ~~~ x })
    (Issues s c (.ewait f) u →
      (m &&& ~~~ seen = 0 → Completes s (.ewait f) (if clr then clear u m else u)) ∧
      (m &&& ~~~ seen ≠ 0 → ∃ n, n < 64 ∧ Waits s (.ewait f) { what := .ewait, kind := 4, name := n } u ∧
        m.getLsbD n = true ∧ seen.getLsbD n = false ∧ ∀ k, k < n → ¬ (m.getLsbD k = true ∧ seen.getLsbD k = false))) ∧
    (Issues s c (.epoll f) u → Completes s (.epoll f)
      (if clr then clear (setGOf u c f.rc ((flags &&& ~~~ one) ||| (before &&& one))) one else setGOf u c f.rc flags)) ∧
    (Issues s c (.withdraw f) u →
      let serial := ((getTile u t).task.map (·.serial)).getD 0
      Completes s (.withdraw f) (sendWithdrawals u t serial m) ∧
      (producers u t serial m = [] → sendWithdrawals u t serial m = u))) ∧
  (∀ (s : State) (x : Cmd), (usedOpds x.raw).any (agRangeBad s x.ctx) = false → cmdNonstrict x.raw = false →
    let v := enqueueCmd s x
    v.nextCmd = s.nextCmd + 1 ∧ (∀ id, id ≠ s.nextCmd → tabFind v.cmds id = tabFind s.cmds id) ∧
    ∃ y, tabFind v.cmds s.nextCmd = some y ∧ y.raw = x.raw ∧ y.queue = x.queue ∧ y.tile = x.tile ∧ y.entered = s.nextCmd ∧ y.clock = s.cycle ∧
      { v with cmds := s.cmds, nextCmd := s.nextCmd } = s) ∧
  (∀ (s : State) (id : Nat) (x : Cmd), tabFind s.cmds id = some x →
    (x.demand = 0 → withdrawOne (s, []) id = (s, [])) ∧
    (1 < x.demand → withdrawOne (s, []) id = ({ s with cmds := tabPut s.cmds id { x with
      demand := x.demand - 1, withdrawals := x.withdrawals + 1 } }, [])))

/-- SPAWN reads its task packet, traps CMDFORMAT on a bad one, SPAWNDEST outside the partition, and waits with the packet it has read (QFULL with NB) on a full heap; else it completes with the packet in the heap, bound to the home tile of a segment or to the cluster that homes an address. TTREAD reads the task's values and SKEWACK the skew record, clearing it. That the DETAIL1 of that CMDFORMAT is 0 and that SPAWN.VA translates its address as a read of one byte is the model's reading of log entry 24; that SKEWACK answers, of the running launches of the queue with an event pending, the one that stands first, that of log entry 27. AGSET writes a valid descriptor once no command names the register, AGGET reads a doubleword, SLRES the valid mask, the sticky word (clearing it with CLR) or the sector count. (R217, R223, R234, R235, R273, R275, R276, log entry 24, log entry 27.) -/
def Obligations.TaskAndGeneratorWords : Prop :=
  ∀ (s u : State) (c : CoreId),
    let st := getStrand u c
    let ctx := ctxNo u c
    let t := coreTile u c
    let out := fun (v : State) (r : BitVec 6) (n : Nat) => setGOf v c r (BitVec.ofNat 64 n)
    (∀ f : FQ,
      let a := st.getA f.ar.toNat
      let off0 : Int := (a.extractLsb' 0 32).toNat + f.disp.toInt + st.dispStep
      let enter := fun (i : Instr) (v : State) (tile : Option Nat) (cl : Nat) (pk : BitVec 512) =>
        let tier := ctxTier v ctx
        ((partClusters v (ctxPart v ctx)).getLsbD cl = false → Traps s i 36 0 0 v) ∧
        ((partClusters v (ctxPart v ctx)).getLsbD cl = true → heapRoom v (cl / 8) tier = false →
          (f.aux.getLsbD 0 = true → Traps s i 31 0 0 v) ∧
          (f.aux.getLsbD 0 = false → Waits s i { what := .engineSpace, kind := 11, name := 0x001 }
            (modStrand v c (fun y => { y with spawning := some (pk, tile, cl) })))) ∧
        (∀ k, (partClusters v (ctxPart v ctx)).getLsbD cl = true → heapRoom v (cl / 8) tier = true →
          (getTile v (coreTile v c)).task = some k → Completes s i (noteFull { v with
            heap := tabPut v.heap v.nextHeap ⟨cl / 8, tier, (pk.extractLsb' 64 64).toNat, v.cycle, k.queue, k.pos, ctx, k.launch,
              v.cycle, false, .spawn tile cl (coreTile v c) k.lap k.lapAt pk⟩
            nextHeap := v.nextHeap + 1 } (cl / 8) tier))
      (∀ tile cl pk, st.spawning = some (pk, tile, cl) →
        (Issues s c (.spawnSeg f) u → enter (.spawnSeg f) u tile cl pk) ∧
        (Issues s c (.spawnVa f) u → enter (.spawnVa f) u tile cl pk)) ∧
      ∀ r o v, st.spawning = none → segCheck u ctx t a off0 64 64 false = .ok (r, o) →
        grantRefs u c (coreClient c) ctx [r] = .ok v → segPoisoned v ctx r.name r.tile o 64 = false →
        let pk := BitVec.ofNat 512 (leNat (segBytes v ctx r.name r.tile o 64))
        let bad := (spawnBad pk).min?
        let x := (getStrand v c).getA (aNum f.rc)
        let g := ((getStrand v c).getG f.rc).toNat
        (Issues s c (.spawnSeg f) u →
          (∀ b, bad = some b → Traps s (.spawnSeg f) 30 (BitVec.ofNat 64 b) 0 v) ∧
          (∀ y, bad = none → segName v (ctxNo v c) (coreTile v c) x (aOff x) = .ok y → ctxNo v c = ctx →
            enter (.spawnSeg f) v (some y.seg.home) (y.seg.home / 4) pk)) ∧
        (Issues s c (.spawnVa f) u →
          (∀ b, bad = some b → Traps s (.spawnVa f) 30 (BitVec.ofNat 64 b) 0 v) ∧
          (bad = none → 2 ^ 52 ≤ g → Traps s (.spawnVa f) 19 0 0 v) ∧
          (∀ y w, bad = none → g < 2 ^ 52 → devXlat v c g 1 .read = .ok (y, w) → ctxNo w c = ctx →
            enter (.spawnVa f) w none (homeSlice w y.pa y.leaf) pk))) ∧
    (∀ (f : FR) (tt q : Nat) k l, c = .tile tt q → Issues s c (.ttread f) u → (getTile u tt).task = some k →
      tabFind u.launches k.launch = some l →
      let i := (st.getG f.ra).toNat
      (f.fn = 0 → Completes s (.ttread f) (out u f.rd (k.index.getD (2 ^ 64 - 1)))) ∧
      (f.fn = 1 → Completes s (.ttread f) (out u f.rd (packetTasks l.packet))) ∧
      (f.fn = 2 → Completes s (.ttread f) (out u f.rd k.lap)) ∧
      (f.fn = 3 → Completes s (.ttread f) (out u f.rd l.laps)) ∧
      (f.fn = 4 → packetTasks l.packet ≤ i → Traps s (.ttread f) 19 0 0 u) ∧
      (f.fn = 4 → i < packetTasks l.packet → packetTtab l.packet = 0 →
        Completes s (.ttread f) (out u f.rd ((partTiles u (ctxPart u k.ctx)).getD i 0))) ∧
      (∀ va r v n, f.fn = 4 → i < packetTasks l.packet → packetTtab l.packet ≠ 0 →
        devAddr u (packetTtab l.packet + 64 + 4 * i : Nat) 4 = .ok va → devXlat u c va 4 .read = .ok (r, v) →
        devRead v r.pa 4 = .ok n → Completes s (.ttread f) (out v f.rd n)) ∧
      (f.fn = 5 → Completes s (.ttread f) (out u f.rd k.lapAt))) ∧
    (∀ f : FR, Issues s c (.skewack f) u →
      let g := (st.getG f.ra).toNat
      (1024 ≤ g → Traps s (.skewack f) 4 0 0 u) ∧
      (g < 1024 → g ≠ ctxQueue u ctx → st.mode = .user → Traps s (.skewack f) 5 0 0 u) ∧
      (g < 1024 → (g = ctxQueue u ctx ∨ st.mode = .supervisor) →
        (skewLaunch u g = none → Completes s (.skewack f) (setGOf u c f.rd 0)) ∧
        (∀ id l, skewLaunch u g = some (id, l) → Completes s (.skewack f)
          (setGOf (modLaunch u id (fun y => { y with skew := 0 })) c f.rd l.skew)))) ∧
    (∀ f : FQ,
      let a := st.getA f.ar.toNat
      let n := f.qn.toNat
      (Issues s c (.agset f) u → ∀ r o v, segCheck u ctx t a (offFQ st f) 64 64 false = .ok (r, o) →
        grantRefs u c (coreClient c) ctx [r] = .ok v → segPoisoned v ctx r.name r.tile o 64 = false →
        let d := BitVec.ofNat 512 (leNat (segBytes v ctx r.name r.tile o 64))
        (∀ b, d ≠ 0 → (agBad d).min? = some b → Traps s (.agset f) 30 (BitVec.ofNat 64 b) a v) ∧
        (d = 0 ∨ agBad d = [] →
          (agNamed v ctx n = true → Waits s (.agset f) { what := .segment, kind := 11, name := 0x200 + n } v) ∧
          (agNamed v ctx n = false → Completes s (.agset f) (modCtx v ctx (fun x => { x with ags := tabSet 0 x.ags n d }))))) ∧
      (Issues s c (.agget f) u → Completes s (.agget f)
        (setGOf u c f.rc ((agReg u ctx n).extractLsb' (64 * (f.aux.extractLsb' 0 3).toNat) 64))) ∧
      (Issues s c (.slres f) u → ∀ x, tabFind u.ctxs ctx = some x →
        let sel := f.aux.extractLsb' 0 2
        let old := setGOf u c f.rc ((tabGet 0 x.sticky (t / 4)).setWidth 64)
        (sel = 0 → ∃ m : Word, Completes s (.slres f) (setGOf u c f.rc m) ∧
          ∀ k, k < 64 → m.getLsbD k = decide (k < 16 ∧ agReg u ctx k ≠ 0)) ∧
        (sel = 1 → Completes s (.slres f) (if f.aux.getLsbD 2 then
          modCtx old ctx (fun y => { y with sticky := tabSet 0 y.sticky (t / 4) 0 }) else old)) ∧
        (sel = 2 → Completes s (.slres f) (out u f.rc (tabGet 0 x.scanned (t / 4))))))

/-- Each address is exact; outside the address space it traps ADDRRANGE, off its alignment ALIGNDATA; a translation that fails parks the strand. LDG completes with the zero-extended little-endian bytes in Gd, STG with the bytes written, ATG with the old value in Gd and the new one written, ATOMKIND on a UC page. PREFG completes whether or not its page translates; a walk whose reads fall into several turns goes on where it has come to, and over entries that do not change meanwhile it ends as one made in one turn (log entry 83 for its turns); FENCE when no command of its scope is left, else waiting. A write changes exactly its bytes, but for the flags and the HEAD word of a queue descriptor that it reaches, which the monitor keeps; a strand keeps all but its wake latch. (R3, R240, R245, R246, R251, R252, R253, R254, R320, R324, R327, log entry 83.) -/
def Obligations.DeviceMemoryWords : Prop :=
  (∀ (s u : State) (c : CoreId) (f : FG),
    let st := getStrand u c
    let n := 2 ^ f.sz.toNat
    let addr : Int := (st.getG f.rb).toNat + (st.getG f.rx).toNat * 2 ^ f.sh.toNat + f.disp.toInt + st.dispStep
    let addrA : Int := (st.getG f.rb).toNat + f.disp.toInt + st.dispStep
    let inSpace := fun (a : Int) => 0 ≤ a ∧ a < 2 ^ 52
    let order := relOrd f.ord = true → coreCmds u c = []
    let checks := fun (i : Instr) (a : Int) (acc : Access) =>
      (¬ inSpace a → Traps s i 19 0 0 u) ∧
      (inSpace a → a.toNat % n ≠ 0 → Traps s i 7 0 0 u) ∧
      (∀ x, inSpace a → a.toNat % n = 0 → devXlat u c a.toNat n acc = .error x → EndsAs s i x)
    (Issues s c (.ldg f) u → checks (.ldg f) addr .read ∧
      ∀ r v, inSpace addr → addr.toNat % n = 0 → devXlat u c addr.toNat n .read = .ok (r, v) →
        (linkDown v r.pa = true → Traps s (.ldg f) 41 0 0 v) ∧
        (linkDown v r.pa = false → paPoisoned v r.pa n = true → Traps s (.ldg f) 40 0 0 v) ∧
        (linkDown v r.pa = false → paPoisoned v r.pa n = false → Completes s (.ldg f)
          (setGOf v c f.rd (BitVec.ofNat 64 (leNat (paBytes v r.pa n)))))) ∧
    (Issues s c (.stg f) u →
      (¬ order → Waits s (.stg f) { what := .relOrder, kind := 11, name := 0x0B1 } u) ∧
      (order → checks (.stg f) addr .write ∧
        ∀ r v, inSpace addr → addr.toNat % n = 0 → devXlat u c addr.toNat n .write = .ok (r, v) →
          (linkDown v r.pa = true → Traps s (.stg f) 41 0 0 v) ∧
          (linkDown v r.pa = false → Completes s (.stg f) (paWrite v r.pa (leBytes n (st.getG f.rd).toNat))))) ∧
    (Issues s c (.atg f) u →
      (¬ order → Waits s (.atg f) { what := .relOrder, kind := 11, name := 0x0B2 } u) ∧
      (order → checks (.atg f) addrA .atomic ∧
        ∀ r v, inSpace addrA → addrA.toNat % n = 0 → devXlat u c addrA.toNat n .atomic = .ok (r, v) →
          (r.leaf.getLsbD 8 = true → Traps s (.atg f) 20 0 0 v) ∧
          (r.leaf.getLsbD 8 = false → linkDown v r.pa = false → paPoisoned v r.pa n = false → hostRaces v r.pa n r.leaf = none →
            let old := leNat (paBytes v r.pa n)
            let p := atomicValue f.aop.toNat n old ((st.getG f.rx).toNat % 2 ^ (8 * n)) ((st.getG f.rd).toNat % 2 ^ (8 * n))
            EndsWithFlags s (.atg f) (setGOf (paWrite v r.pa (leBytes n p.1)) c f.rd (BitVec.ofNat 64 old)) p.2))) ∧
    (Issues s c (.prefg f) u →
      (¬ inSpace addr → Traps s (.prefg f) 19 0 0 u) ∧
      (∀ x, inSpace addr → coreXlat u c addr.toNat .read = .error x → EndsAs s (.prefg f) x) ∧
      (∀ y v, inSpace addr → coreXlat u c addr.toNat .read = .ok (.ok y, v) →
        Completes s (.prefg f) (if y.leaf.getLsbD 8 then u else v)) ∧
      (∀ y v, inSpace addr → coreXlat u c addr.toNat .read = .ok (.error y, v) → Completes s (.prefg f) u)) ∧
    (Issues s c (.fence f) u →
      let held := ∃ e ∈ coreCmds u c, 3 ≤ f.scope.toNat ∨ (1 ≤ f.scope.toNat ∧ e.2.chain = none)
      (¬ held → Completes s (.fence f) u) ∧
      (held → Waits s (.fence f) { what := .fence, kind := 11, name := 0x0B4 } u))) ∧
  (∀ n old x cmp, 0 < n → old < 2 ^ (8 * n) → x < 2 ^ (8 * n) →
    (∀ e ∈ ([(0, x), (1, (old + x) % 2 ^ (8 * n)), (2, old &&& x), (3, old ||| x), (4, old ^^^ x), (7, min old x),
        (8, max old x), (9, if old = cmp then x else old)] : List (Nat × Nat)), atomicValue e.1 n old x cmp = (e.2, 0)) ∧
    (let le := (BitVec.ofNat (8 * n) old).sle (BitVec.ofNat (8 * n) x)
     atomicValue 5 n old x cmp = (if le then old else x, 0) ∧ atomicValue 6 n old x cmp = (if le then x else old, 0))) ∧
  (∀ (s : State) (pa : Nat) (bs : List Byte), s.mem.wf = true →
    let v := paWrite s pa bs
    let head := fun (q k : Nat) => q < 1024 ∧ s.qtbase + 64 * q + 32 ≤ k ∧ k < s.qtbase + 64 * q + 40
    let reached := fun (q : Nat) => pa < s.qtbase + 64 * q + 40 ∧ s.qtbase + 64 * q + 32 < pa + bs.length
    v.mem.wf = true ∧ v.ctxs = s.ctxs ∧ v.parts = s.parts ∧ v.cmds = s.cmds ∧
    (∀ k, (k < pa ∨ pa + bs.length ≤ k) → (∀ q, head q k → ¬ reached q) → paByte v k = paByte s k) ∧
    (∀ i, i < bs.length → (∀ q, q < 1024 → pa + i ≠ s.qtbase + 64 * q + 9 ∧ ¬ head q (pa + i)) →
      (isTier2 (pa + i) = true → tier2Backed s (pa + i) = true) → paByte v (pa + i) = bs.getD i 0) ∧
    (∀ c, ∃ w, getStrand v c = { getStrand s c with wake := w })) ∧
  (∀ (s : State) (c : CoreId) (va : Nat) (acc : Access), s.walkReads = none → (getStrand s c).walk = none →
    coreXlat s c va acc = .ok (Machine.translate s (coreTile s c) (ctxNo s c) va acc (getStrand s c).mode)) ∧
  (∀ (s : State) (n : Nat) (w y : Walk), walkOn s n w = some y →
    walkFrom s w.va (4 - y.level) y.level y.base y.bad = walkFrom s w.va (4 - w.level) w.level w.base w.bad) ∧
  (∀ (s : State) (t ctx va : Nat) (acc : Access) (m : Mode),
    let v := (Machine.translate s t ctx va acc m).2
    { v with tiles := s.tiles, clusterTlb := s.clusterTlb } = s ∧ ∀ k, { getTile v k with tlb := (getTile s k).tlb } = getTile s k)

/-- ATL does ATG's operations on a segment. SEMPOST adds its units to a mapped semaphore, or traps SEMRANGE (33) unmapped or past 32 bits; SEMWAIT joins the tail of the queue and completes at the head with its units taken, in a clock after their post and after the waiter ahead of it; SEMTRY takes them only with no queue, with bit 63 and the old count in Gd. BAR completes for the last strand or task to arrive, with which those of all the others retire, and else waits with KIND 8. That SEMRANGE of an unmapped number has a count of 0 in DETAIL1, and that BAR.FABRIC of a launch that is not replicated joins the instance of BAR.DEVICE, is the model's reading of log entry 53. (R255, R257, R258, R266, R268, R269, R270, R271, R333, log entry 53.) -/
def Obligations.Synchronisation : Prop :=
  (∀ (s u : State) (c : CoreId) (f : FM), Issues s c (.atl f) u →
    let st := getStrand u c
    let ctx := ctxNo u c
    let a := st.getA f.ar.toNat
    let n := 2 ^ f.sz.toNat
    let off : Int := (a.extractLsb' 0 32).toNat + f.disp.toInt + st.dispStep
    let order := relOrd f.ord = true → coreCmds u c = []
    (¬ order → Waits s (.atl f) { what := .relOrder, kind := 11, name := 0x0C0 } u) ∧
    (∀ x v, order → segCheck u ctx (coreTile u c) a off n n true = .error (.trap x v) →
      exec (.atl f) s = .next (trapCore v c x)) ∧
    (∀ r o v, order → segCheck u ctx (coreTile u c) a off n n true = .ok (r, o) →
      grantRefs u c (coreClient c) ctx [r] = .ok v → segPoisoned v ctx r.name r.tile o n = false →
      let old := leNat (segBytes v ctx r.name r.tile o n)
      let p := atomicValue f.sh.toNat n old ((st.getG f.rx).toNat % 2 ^ (8 * n)) ((st.getG f.rd).toNat % 2 ^ (8 * n))
      EndsWithFlags s (.atl f) (setGOf (segWrite v ctx r.name r.tile o (leBytes n p.1)) c f.rd (BitVec.ofNat 64 old)) p.2)) ∧
  (∀ (s u : State) (c : CoreId) (f : FQ),
    let st := getStrand u c
    let v := f.aux.toNat
    let units := if f.rc = 0 then f.qn.toNat + 1 else ((st.getG f.rc).extractLsb' 0 32).toNat
    let bad := fun (i : Instr) (reason count n : Nat) =>
      Traps s i 33 (BitVec.ofNat 64 (reason * 2 ^ 62 + v)) (BitVec.ofNat 64 (n * 2 ^ 32 + count)) u
    (semOf u c v = none →
      (Issues s c (.sempost f) u → bad (.sempost f) 0 0 units) ∧ (Issues s c (.semwait f) u → bad (.semwait f) 0 0 units) ∧
      (Issues s c (.semtry f) u → bad (.semtry f) 0 0 (f.qn.toNat + 1))) ∧
    (∀ k, semOf u c v = some k →
      let x := getSem u k
      let set := fun (y : Sem) => setSem u k y
      (Issues s c (.sempost f) u →
        (2 ^ 32 ≤ x.count + units → bad (.sempost f) 1 x.count units) ∧
        (x.count + units < 2 ^ 32 → Completes s (.sempost f)
          (set { x with count := x.count + units, posted := x.posted + units }))) ∧
      (Issues s c (.semwait f) u →
        let q := if c ∈ x.queue then x.queue else x.queue ++ [c]
        let turn := q.head? = some c ∧ units ≤ x.count - x.posted ∧ x.taken = false
        (turn → Completes s (.semwait f) (set { x with count := x.count - units, queue := q.drop 1, taken := true })) ∧
        (¬ turn → Waits s (.semwait f) { what := .semaphore, kind := 5, name := v } (set { x with queue := q }))) ∧
      (Issues s c (.semtry f) u →
        let n := f.qn.toNat + 1
        (x.queue = [] → n ≤ x.count → Completes s (.semtry f)
          (setGOf (set { x with count := x.count - n }) c f.rc (BitVec.ofNat 64 (2 ^ 63 + x.count)))) ∧
        (¬ (x.queue = [] ∧ n ≤ x.count) → Completes s (.semtry f) (setGOf u c f.rc (BitVec.ofNat 64 x.count)))))) ∧
  (∀ x : Sem, x.newClock = { x with posted := 0, taken := false }) ∧
  (∀ (s u : State) (t q : Nat) (f : FQ), Issues s (.tile t q) (.bar f) u →
    let x := getTile u t
    let scope := f.qn.toNat
    (scope = 0 →
      let here := ∀ p, p < 4 → p ≠ q % 4 → (x.strand p).run = .idle ∨ (x.strand p).run = .arrived ∨ atTileBarrier (x.strand p) = true
      (here → Completes s (.bar f)
        ((((List.range 4).filter (fun p => atTileBarrier (x.strand p))).map (CoreId.tile t)).foldl completeWait u)) ∧
      (¬ here → Waits s (.bar f) { what := .barrier, kind := 8, name := 0 } u)) ∧
    (∀ k l i, scope ≠ 0 → x.task = some k → tabFind u.launches k.launch = some l → k.index = some i →
      let sc := if scope = 5 ∧ l.members = [] then 3 else scope
      (lastArrival u k.launch l sc i t = true → Completes s (.bar f)
        (if sc = 5 then fabricNext (releaseBarrier u k.launch l sc t) k.launch l else releaseBarrier u k.launch l sc t)) ∧
      (lastArrival u k.launch l sc i t = false → Waits s (.bar f) { what := .barrier, kind := 8, name := scope } u))) ∧
  (∀ (s u : State) (g : Nat) (f : FQ), Issues s (.sbox g) (.bar f) u → Completes s (.bar f) u) ∧
  (∀ (s : State) (t q : Nat) (w : Wait) (f : FQ), (getStrand s (.tile t q)).wait = some w → w.instr = .bar f →
    completeWait s (.tile t q) = retireWord (issued s (.tile t q)) (.tile t q) (.bar f) ((getStrand s (.tile t q)).pc + 8))

/-- RINGPOST adds to a counter of the context mod 2^32, and the waiting words of the context that the new value reaches, under REP too, retire with it, and its commands that wait for that value to begin have seen it; RINGWAIT completes when the counter is at or past its target by less than 2^31, and else waits with KIND 6; RINGWAIT_RELEASE lets such a waiting word go on, unless a trap is due or a pre-emption holds its core. ACQBUF.P and .C complete with the segment of the next slot in Ad when a slot is free or filled, no core has waited longer, and no higher sequencer has used the ring in this clock, and else wait with KIND 7; RELBUF gives the slot on, in the next clock after such a use; RELBUF.SET configures or removes a ring. Each misuse traps RINGRANGE (34) with its reason. (R260, R261, R262, R263, R264, R265, R271.) -/
def Obligations.BuffersAndRings : Prop :=
  (∀ (s u : State) (c : CoreId) (f : FQ),
    let st := getStrand u c
    let ctx := ctxNo u c
    let t := coreTile u c
    let r := (f.aux.extractLsb' 0 8).toNat
    let n := f.qn.toNat
    let g := st.getG f.rc
    let bad := fun (i : Instr) (k reason : Nat) (d1 : Word) => Traps s i 34 (BitVec.ofNat 64 (reason * 2 ^ 61 + k)) d1 u
    let counts := fun (b : BufRing) => BitVec.ofNat 64 (b.pa + b.pr * 2 ^ 16 + b.ca * 2 ^ 32 + b.cr * 2 ^ 48)
    let put := fun (b : BufRing) =>
      modTile u t (fun x => { x with rings := tabPut x.rings n { b with lastAt := u.cycle, lastSeq := coreSeq c } })
    (∀ i ∈ ([.ringpost f, .ringwait f] : List Instr), Issues s c i u → ringCount u c r = none → bad i r 0 0) ∧
    (∀ v, ringCount u c r = some v →
      (Issues s c (.ringpost f) u →
        let units := if f.rc = 0 then n + 1 else (g.extractLsb' 0 32).toNat
        let new := (v + units) % 2 ^ 32
        ∃ w, Completes s (.ringpost f) (releaseRing w ctx r new) ∧
          { w with ctxs := u.ctxs } = u ∧ ringCount w c r = some new ∧ ∀ k, k ≠ r → ringCount w c k = ringCount u c k) ∧
      (Issues s c (.ringwait f) u →
        let past := (v + 2 ^ 32 - (g.extractLsb' 0 32).toNat) % 2 ^ 32
        (past < 2 ^ 31 → Completes s (.ringwait f) u) ∧
        (2 ^ 31 ≤ past → Waits s (.ringwait f) { what := .ringSlot, kind := 6, name := r } u))) ∧
    (∀ i ∈ ([.acqbufP f, .acqbufC f, .relbufP f, .relbufC f] : List Instr), Issues s c i u → bufRing u c n = none → bad i n 1 0) ∧
    (∀ b, bufRing u c n = some b →
      (∀ e ∈ ([(.acqbufP f, 0, decide ((b.pa + 2 ^ 16 - b.cr) % 2 ^ 16 < b.slots), b.pa, { b with pa := (b.pa + 1) % 2 ^ 16 }),
          (.acqbufC f, 1, decide (b.ca ≠ b.pr), b.ca, { b with ca := (b.ca + 1) % 2 ^ 16 })] :
          List (Instr × Nat × Bool × Nat × BufRing)),
        let name := n + 16 * e.2.1
        let turn := e.2.2.1 = true ∧ waitedLonger u c name = false ∧ ringLater u c b = false
        Issues s c e.1 u →
          (turn → Completes s e.1 (modStrand (put e.2.2.2.2) c (fun x =>
            x.setA (aNum f.rc) (mkA (b.base + e.2.2.2.1 % max 1 b.slots) 0)))) ∧
          (¬ turn → Waits s e.1 { what := .buffer, kind := 7, name := name } u)) ∧
      (∀ e ∈ ([(.relbufP f, decide (b.pr ≠ b.pa), { b with pr := (b.pr + 1) % 2 ^ 16 }),
          (.relbufC f, decide (b.cr ≠ b.ca), { b with cr := (b.cr + 1) % 2 ^ 16 })] : List (Instr × Bool × BufRing)),
        Issues s c e.1 u →
          (ringLater u c b = true → GoesOn s e.1 u) ∧
          (ringLater u c b = false →
            (e.2.1 = true → Completes s e.1 (put e.2.2)) ∧ (e.2.1 = false → bad e.1 n 2 (counts b))))) ∧
    (Issues s c (.relbufSet f) u →
      let base := (g.extractLsb' 0 16).toNat
      let slots := (g.extractLsb' 16 5).toNat
      let old := tabFind (getTile u t).rings n
      let free := ∀ b, old = some b → b.ctx = ctx ∧ ringLater u c b = false ∧ b.pa = b.pr ∧ b.ca = b.cr
      let word := g.extractLsb' 21 43 = 0 ∧ slots ≤ 16 ∧ base ≠ 0 ∧ base + slots ≤ 4096
      (∀ b, old = some b → b.ctx ≠ ctx → bad (.relbufSet f) n 1 0) ∧
      (∀ b, old = some b → b.ctx = ctx → ringLater u c b = true → GoesOn s (.relbufSet f) u) ∧
      (∀ b, old = some b → b.ctx = ctx → ringLater u c b = false → (b.pa ≠ b.pr ∨ b.ca ≠ b.cr) → bad (.relbufSet f) n 3 (counts b)) ∧
      (free → slots = 0 → ∃ w, Completes s (.relbufSet f) w ∧ tabFind (getTile w t).rings n = none) ∧
      (free → slots ≠ 0 → ¬ word → bad (.relbufSet f) n 4 g) ∧
      (free → slots ≠ 0 → word → Completes s (.relbufSet f) (put (newRing ctx base slots))))) ∧
  (∀ (w : State) (ctx r v : Nat),
    let s1 := (ctxCores w ctx).foldl (fun y d =>
      if (ringTarget (getStrand y d) r).any (fun n => decide ((v + 2 ^ 32 - n % 2 ^ 32) % 2 ^ 32 < 2 ^ 31)) then completeWait y d
      else y) w
    savedRings s1 ctx r v = [] → releaseRing w ctx r v = { s1 with cmds := s1.cmds.map (fun e =>
      if ringCmd ctx r v e.2 then (e.1, { e.2 with ringSeen := true }) else e) }) ∧
  (∀ (st : Strand) (w : Wait) (r : Nat) (f : FQ), st.run = .waiting → st.wait = some w → waitWord st w = .ringwait f →
    ringTarget st r = if w.what = .ringSlot ∧ (f.aux.extractLsb' 0 8).toNat = r then
      some ((st.getG f.rc).extractLsb' 0 32).toNat else none) ∧
  (∀ (s : State) (ctx ctr : Nat) (c : CoreId) (w : Wait) (b : Body),
    (ctxCores s ctx).filter (fun d => (waitingIn s d [.ringSlot]).any (fun w => w.name.toNat == ctr)) = [c] →
    (getStrand s c).run = .waiting → (getStrand s c).wait = some w → w.what = .ringSlot → bodyOf w.instr = some b →
    preemptHolds s c = false → trapDue s c = false →
    ∀ u v, Issues { s with cur := c } c w.instr u → b c u = .retire v →
      let r := retireWord v c w.instr ((getStrand v c).pc + 8)
      (getStrand r c).run ≠ .waiting → Happens s (.ringwaitRelease ctx ctr) (acts r c)) ∧
  (∀ (s : State) (ctx ctr : Nat), (ctxCores s ctx).filter (fun d =>
      (waitingIn s d [.ringSlot]).any (fun w => w.name.toNat == ctr)) = [] → Idles s (.ringwaitRelease ctx ctr))

/-- A walk reads one entry a level and gives the leaf's page with the offset of the address, or fails: V = 0 is PAGEFAULT of REASON 0, a page outside the partition PAGEPROT of REASON 3, a missing permission REASON 2. PARKED_FAULT_ADMIT serves the oldest parked fault that may join or take an entry, FAULT_ENTRY_POST posts the oldest deferred entry once a slot is free. An entry has the layout of R243. A response is what a write to RESP gave, 1 RETRY and any other value ABORT. RESP_RETRY lets the first party of an entry, a parked core or command, go on, or resumes a frame; RESP_ABORT delivers the fault to it as a trap or an error, or ends the task or the core program; the other parties follow, one a clock. (R238, R239, R240, R242, R243, R244, R313, R315, R318.) -/
def Obligations.TranslationAndFaults : Prop :=
  (∀ (s : State) (ctx va : Nat) (x : Context) (acc : Access) (m : Mode), tabFind s.ctxs ctx = some x →
    let next := fun (e : Word) => (e.extractLsb' 8 38).toNat * 256
    let isTable := fun (a level : Nat) =>
      let e := paWord s a
      laidOut s a = true ∧ linkDown s a = false ∧ paPoisoned s a 8 = false ∧ e.extractLsb' 0 8 = 1 ∧ e.extractLsb' 46 18 = 0 ∧
        (level ≠ 2 → e.extractLsb' 8 4 = 0)
    let a0 := x.block.ptbase + 8 * (va / 2 ^ 39 % 8192)
    let a1 := next (paWord s a0) + 8 * (va / 2 ^ 30 % 512)
    let a2 := next (paWord s a1) + 8 * (va / 2 ^ 21 % 512)
    let a3 := next (paWord s a2) + 8 * (va / 2 ^ 16 % 32)
    let grants := fun (e : Word) => (e.getLsbD 5 = true → m = .supervisor) ∧
      (acc = .write ∨ acc = .atomic → e.getLsbD 3 = true) ∧ (acc = .fetch → e.getLsbD 4 = true) ∧
      (acc = .read ∨ acc = .table ∨ acc = .atomic → e.getLsbD 2 = true)
    let leaf := fun (a level bits : Nat) =>
      let e := paWord s a
      let pa := (e.extractLsb' 16 30).toNat * 2 ^ 16 + va % 2 ^ bits
      let sl := if pa < 2 ^ 39 then pa / 2 ^ 33 % 64 else (e.extractLsb' 50 6).toNat
      let inside := (partClusters s (x.block.part.toNat / 8 * 8)).getLsbD sl = true
      laidOut s a = true → linkDown s a = false → paPoisoned s a 8 = false → e.getLsbD 0 = true → e.getLsbD 1 = true → leafOk e (level == 2) = true →
        laidOut s pa = true →
        (¬ inside → walk s ctx va acc m = .error ⟨17, 3, level, level == 2⟩) ∧
        (inside → ¬ grants e → walk s ctx va acc m = .error ⟨17, 2, level, level == 2⟩) ∧
        (inside → grants e → walk s ctx va acc m = .ok ⟨pa, e, level == 2⟩)
    isTable a0 0 →
      (laidOut s a1 = true → linkDown s a1 = true → walk s ctx va acc m = .error ⟨41, 0, 1, false⟩) ∧
      (laidOut s a1 = true → linkDown s a1 = false → (paWord s a1).getLsbD 0 = false → x.block.vfv = false →
        walk s ctx va acc m = .error ⟨16, 0, 1, false⟩) ∧
      (isTable a1 1 → leaf a2 2 21 ∧ (isTable a2 2 → leaf a3 3 16))) ∧
  (∀ (s : State) (f : FaultInfo) (pre post : List FaultInfo) (x : Context), s.parkedFaults = pre ++ f :: post →
    (∀ g ∈ pre, mayAdmit s g = false) → mayAdmit s f = true → tabFind s.ctxs f.ctx = some x →
    let u := { s with parkedFaults := pre ++ post }
    (∀ id e, prqMatch s f = some (id, e) →
      Happens s .parkedFaultAdmit { u with prq := tabPut s.prq id { e with parties := e.parties ++ [f] } }) ∧
    (∀ res, prqMatch s f = none → prqRoom s f = some res → ∃ t id y, Happens s .parkedFaultAdmit t ∧
      t.parkedFaults = pre ++ post ∧
      tabFind t.prq id = some ⟨f.ctx, faultPage f, f.mega, accClass f.acc, x.fqNext, res, [f]⟩ ∧
      tabFind t.ctxs f.ctx = some y ∧ y.fqNext = x.fqNext + 1 ∧ y.fqLost = 0 ∧
      tabFind y.fqOpen x.fqNext = some (.pageRequest id))) ∧
  (∀ (s : State), (∀ g ∈ s.parkedFaults, mayAdmit s g = false) → Idles s .parkedFaultAdmit) ∧
  (∀ (s : State) (ctx : Nat) (x : Context) (c : CoreId) (cause : BitVec 9) (unit : Nat) (pc : Word) (rest : List (CoreId × BitVec 9 × Nat × Word)),
    tabFind s.ctxs ctx = some x → x.fqDeferred = (c, cause, unit, pc) :: rest →
    (fqFull s ctx = true → Idles s (.faultEntryPost ctx)) ∧
    (fqFull s ctx = false → ∃ t y, Happens s (.faultEntryPost ctx) t ∧ tabFind t.ctxs ctx = some y ∧ y.fqDeferred = rest ∧
      y.fqNext = x.fqNext + 1 ∧ y.fqLost = 0 ∧ tabFind y.fqOpen x.fqNext = some (.trapPark c) ∧
      t.mem = (paWrite s (x.block.fqbase + 64 * (x.fqNext % 64))
        (fqEntryBytes cause.toNat (coreTile s c) unit 0 0 ctx x.fqNext pc.toNat 0 0 x.fqLost)).mem)) ∧
  (∀ cause tile unit acc size ctx seq pc va low lost : Nat, cause < 512 → tile < 256 → unit < 128 → acc < 8 → size < 8 →
    ctx < 512 → lost < 2 ^ 32 →
    let e := BitVec.ofNat 512 (leNat (fqEntryBytes cause tile unit acc size ctx seq pc va low lost))
    e.extractLsb' 55 9 = BitVec.ofNat 9 cause ∧ e.extractLsb' 47 8 = BitVec.ofNat 8 tile ∧
    e.extractLsb' 40 7 = BitVec.ofNat 7 unit ∧ e.extractLsb' 37 3 = BitVec.ofNat 3 acc ∧
    e.extractLsb' 34 3 = BitVec.ofNat 3 size ∧ e.extractLsb' 25 9 = BitVec.ofNat 9 ctx ∧ e.extractLsb' 16 9 = 0 ∧
    e.extractLsb' 0 16 = BitVec.ofNat 16 seq ∧ e.extractLsb' 64 64 = BitVec.ofNat 64 pc ∧
    e.extractLsb' 128 64 = BitVec.ofNat 64 va ∧ e.extractLsb' 192 64 = BitVec.ofNat 64 low ∧
    e.extractLsb' 256 32 = BitVec.ofNat 32 lost ∧ e.extractLsb' 288 224 = 0) ∧
  (∀ (s : State) (ctx seq : Nat) (x : Context), tabFind s.ctxs ctx = some x →
    let due := fun (retry : Bool) => ∃ v, s.responses.head? = some (ctx, seq, v) ∧ (v = 1 ↔ retry = true)
    let u := modCtx { s with responses := s.responses.drop 1 } ctx (fun y => { y with fqOpen := tabDel y.fqOpen seq })
    let here := fun (c : CoreId) => (∃ t q, c = .tile t q ∧ runningOn s ctx t = true) ∨
      (∃ g p, c = .sbox g ∧ tabFind s.boxProgs g = some p ∧ p.ctx = ctx)
    (¬ due true → Idles s (.respRetry ctx seq)) ∧ (¬ due false → Idles s (.respAbort ctx seq)) ∧
    (∀ id e c f fs, tabFind x.fqOpen seq = some (.pageRequest id) → tabFind s.prq id = some e → e.parties = f :: fs →
      s.answering = [] → f.party = .core c → f.ctx = ctx → here c → (getStrand s c).run = .parked →
      (getStrand s c).park = some (.fault { f with queued := false }) →
      let v := fun (retry : Bool) => { u with prq := tabDel s.prq id, answering := fs.map (fun g => (retry, g)) }
      let go := fun (w : State) => modStrand w c (fun st => { st with run := .running, park := none })
      (due false → f.acc ≠ .fetch → Happens s (.respAbort ctx seq) (trapCore (go (v false)) c { cond := f.cond })) ∧
      (due false → f.acc = .fetch → Happens s (.respAbort ctx seq) (trapFetch (go (v false)) c { cond := f.cond })) ∧
      (∀ y w, due true → f.queued = false →
        Machine.translate (v true) f.tile ctx f.va f.acc (getStrand s c).mode = (.ok y, w) → Happens s (.respRetry ctx seq) (go w))) ∧
    (∀ id e n f fs k, tabFind x.fqOpen seq = some (.pageRequest id) → tabFind s.prq id = some e → e.parties = f :: fs →
      s.answering = [] → f.party = .command n → tabFind s.cmds n = some k → k.faulted = true →
      let v := fun (retry : Bool) => { u with prq := tabDel s.prq id, answering := fs.map (fun g => (retry, g)) }
      (due false → Happens s (.respAbort ctx seq) (failCmd (v false) n f.cond)) ∧
      (∀ y w, due true → f.queued = false → Machine.translate (v true) f.tile f.ctx f.va f.acc .user = (.ok y, w) →
        Happens s (.respRetry ctx seq) (modCmd w n (fun z => { z with state := z.under, faulted := false })))) ∧
    (∀ c, tabFind x.fqOpen seq = some (.trapPark c) → here c → (getStrand s c).run = .parked →
      (getStrand s c).park = some .trapped →
      (due true → Happens s (.respRetry ctx seq) (resumeFrame u c)) ∧
      (∀ t q, c = .tile t q → due false → Happens s (.respAbort ctx seq) (abortTask u t (getStrand s c).tcause)) ∧
      (∀ g, c = .sbox g → due false → Happens s (.respAbort ctx seq) (endBox u g (getStrand s c).tcause.toNat))) ∧
    (tabFind x.fqOpen seq = some .notice →
      (due true → Happens s (.respRetry ctx seq) u) ∧ (due false → Happens s (.respAbort ctx seq) u))) ∧
  (∀ (s : State) (a : Bool × FaultInfo) (rest : List (Bool × FaultInfo)), s.answering = a :: rest →
    answerSome 1 s = answerParty a.1 { s with answering := rest } a.2)

/-- TLBINV drops the matching cached translations and fetch blocks. QKILL removes the contexts of a queue with their tasks, commands and page requests and holds the queue; PRESET ends the work of a partition and keeps its contexts; CTXLD.DESTROY removes one context. SEMMAP maps or unmaps a semaphore, PARTSET defines or deletes a partition or sets a quota, CTXLD loads (and judges its queue's descriptor again where one was enabled unbound: the model's choice, log entry 70), holds or releases, each with its result in Gb. DBGSCAN freezes and writes out an array, with CYCLE at the freeze and the partial sums of a row in it at its wavefront, loads it, or runs it, where that row goes on. The model's choices, and no rules: the reasons 0x0F where R306 marks a bit zero and 0x0E for a number out of range (log entry 42); the traps of DBGSCAN's arguments and the loss of flight data of no row (log entry 39); QKILL, PRESET and CTXLD.DESTROY trap VFDISABLED, and PRESET keeps TRACE and the fault queue's SEQ (log entry 43); the scan image of a weight, and the depth of the wavefront at a freeze (log entry 14). (R255, R289, R290, R295, R300, R301, R302, R305, R306, R307, R319, R322.) -/
def Obligations.SupervisorWords : Prop :=
  (∀ (p : Plane) (w : Wave) (j n : Nat), j < 128 → n < 128 →
    tabGet ⟨0, 0, 0⟩ (waveFlight p w) (128 * j + n) = (if j + n = w.front then
      ⟨BitVec.ofNat 32 (w.sums.getD n (0, negZero, 0)).2.1, actCode (w.acts.getD (rowActs p * j) Machine.Num.zero), 3⟩ else ⟨0, 0, 0⟩)) ∧
  ∀ (s u : State) (c : CoreId) (f : FS),
    let st := getStrand u c
    let ga := st.getG f.ra
    let gb := st.getG f.rb
    let bad := fun (i : Instr) (reason : Nat) => Traps s i 4 (BitVec.ofNat 64 reason) ga u
    let done := fun (i : Instr) (v : State) (n : Nat) => Completes s i (setGOf v c f.rb (BitVec.ofNat 64 n))
    let gone := fun (v : State) (cs : List Nat) =>
      (∀ e ∈ v.cmds, e.2.ctx ∉ cs) ∧ (∀ e ∈ v.saves, e.1 / 256 ∉ cs) ∧ (∀ e ∈ v.heap, e.2.ctx ∉ cs) ∧
      (∀ e ∈ v.prq, e.2.ctx ∉ cs) ∧ (∀ x ∈ v.parkedFaults, x.ctx ∉ cs) ∧
      (∀ t k, (getTile v t).task = some k → k.ctx ∉ cs)
    let held := fun (v : State) (q : Nat) (b : Bool) => (getHwq v q).held = b
    ((Issues s c (.tlbinvAll f) u → Completes s (.tlbinvAll f) (invalidate u (fun _ => true) (fun _ => true))) ∧
      (∀ i ∈ ([.tlbinvVa f, .tlbinvCtx f] : List Instr), Issues s c i u →
        (i = .tlbinvVa f → 2 ^ 52 ≤ ga.toNat → Traps s i 19 0 0 u) ∧
        ((i = .tlbinvVa f → ga.toNat < 2 ^ 52) →
          (512 ≤ gb.toNat → Traps s i 4 0 0 u) ∧
          (gb.toNat < 512 → inPartition u c gb.toNat = false → Traps s i 5 0 0 u) ∧
          (gb.toNat < 512 → inPartition u c gb.toNat = true → Completes s i (if i = .tlbinvCtx f then
              invalidate u (fun x => x.ctx == gb.toNat) (fun b => b.ctx == gb.toNat)
            else invalidate u
              (fun x => x.ctx == gb.toNat && x.base == (if x.mega then ga.toNat / 2 ^ 21 else ga.toNat / 2 ^ 16))
              (fun b => b.ctx == gb.toNat && b.va / 2 ^ 21 == ga.toNat / 2 ^ 21)))))) ∧
    (∀ e ∈ ([(.qkill f, 10, 0x0F), (.preset f, 6, 0x0F), (.partsetDel f, 6, 0x0E), (.partsetVfquota f, 5, 0x0E),
        (.partsetVfused f, 5, 0x0E), (.ctxldDestroy f, 9, 0x0E), (.ctxldHold f, 9, 0x0E), (.ctxldRelease f, 9, 0x0E)] :
        List (Instr × Nat × Nat)),
      Issues s c e.1 u → 2 ^ e.2.1 ≤ ga.toNat → bad e.1 e.2.2) ∧
    (Issues s c (.qkill f) u → ga.toNat < 1024 →
      let cs := boundCtxs u ga.toNat
      (cs.any (vfStopped u) = true → Traps s (.qkill f) 46 0 0 u) ∧
      (cs.any (vfStopped u) = false → ctxNo u c ∉ cs → ∃ v, done (.qkill f) v cs.length ∧ gone v cs ∧
        (∀ k ∈ cs, tabFind v.ctxs k = none) ∧ held v ga.toNat true ∧ (getHwq v ga.toNat).head = (getHwq u ga.toNat).tail)) ∧
    (Issues s c (.preset f) u → ga.toNat < 64 →
      let cs := partCtxs u ga.toNat
      (tabFind u.parts ga.toNat = none → bad (.preset f) 0x0E) ∧
      (tabFind u.parts ga.toNat ≠ none → cs.any (vfStopped u) = true → Traps s (.preset f) 46 0 0 u) ∧
      (tabFind u.parts ga.toNat ≠ none → cs.any (vfStopped u) = false → ctxNo u c ∉ cs → ∃ v,
        done (.preset f) v (partQueues u ga.toNat).length ∧ gone v cs ∧ (∀ q ∈ partQueues u ga.toNat, held v q false) ∧
        (∀ k ∈ cs, ∀ x, tabFind u.ctxs k = some x → ∃ y, tabFind v.ctxs k = some y ∧ y.block = x.block ∧ y.segs = [] ∧
          y.accs = [] ∧ y.semMap = [] ∧ y.ringCtr = [] ∧ y.ags = [] ∧ y.trace = x.trace ∧ y.fqNext = x.fqNext))) ∧
    (let ctx := (ga.extractLsb' 0 9).toNat
     let v := (ga.extractLsb' 10 10).toNat
     let g := (ga.extractLsb' 20 3).toNat
     let n := (gb.extractLsb' 0 12).toNat
     let was := fun (x : Context) => ((tabFind x.semMap (1024 * g + v)).map (· + 1)).getD 0
     ∀ e ∈ ([(.semmapMap f, true), (.semmapUnmap f, false)] : List (Instr × Bool)), Issues s c e.1 u →
      let word := ga.extractLsb' 23 41 = 0 ∧ ga.getLsbD 9 = false ∧ (e.2 = true → gb.extractLsb' 13 51 = 0)
      (¬ word → bad e.1 0x0F) ∧
      (word → tabFind u.ctxs ctx = none ∨ u.stackMask.getLsbD g = false → bad e.1 0x0E) ∧
      (∀ x, word → tabFind u.ctxs ctx = some x → u.stackMask.getLsbD g = true →
        (busyInGroup u ctx g = true → Traps s e.1 33 (BitVec.ofNat 64 (2 ^ 63 + v)) ga u) ∧
        (busyInGroup u ctx g = false →
          (e.2 = false → done e.1 (modCtx u ctx (fun y => { y with semMap := tabDel y.semMap (1024 * g + v) })) (was x)) ∧
          (e.2 = true → semShared u ctx g n = true → Traps s e.1 33 (BitVec.ofNat 64 (3 * 2 ^ 62 + v)) ga u) ∧
          (e.2 = true → semShared u ctx g n = false → ∃ w, done e.1 w (was x) ∧ { w with ctxs := u.ctxs, sems := u.sems } = u ∧
            w.ctxs = tabPut u.ctxs ctx { x with semMap := tabPut x.semMap (1024 * g + v) n } ∧
            (∀ k, k ≠ semKey g n → getSem w k = getSem u k) ∧ (getSem w (semKey g n)).queue = (getSem u (semKey g n)).queue ∧
            (getSem w (semKey g n)).count = (if gb.getLsbD 12 then 0 else (getSem u (semKey g n)).count))))) ∧
    (Issues s c (.partsetDef f) u →
      (64 ≤ gb.toNat → bad (.partsetDef f) 0x0E) ∧
      (∀ d, gb.toNat < 64 → supBlock u ga 8 = .ok d →
        let w := d.getD 1 0
        let old := tabFind u.parts gb.toNat
        let x : Partition := ⟨d.getD 0 0, (w.extractLsb' 0 11).toNat, ((d.getD 2 0).extractLsb' 48 16).toNat,
          ((d.getD 2 0).extractLsb' 32 16).toNat, ((d.getD 2 0).extractLsb' 16 16).toNat, (d.getD 2 0).getLsbD 0,
          (old.map (·.used)).getD 0⟩
        let fits := 1 ≤ x.tshare ∧ x.tshare ≤ 1024 ∧ x.clusters &&& absentClusters u = 0
        (descZero d = false → bad (.partsetDef f) 0x0F) ∧ (descZero d = true → ¬ fits → bad (.partsetDef f) 0x0E) ∧
        (∀ n, descZero d = true → fits → partBroken u gb.toNat x = some n → bad (.partsetDef f) n) ∧
        (descZero d = true → fits → partBroken u gb.toNat x = none →
          done (.partsetDef f) { u with parts := tabPut u.parts gb.toNat x } 0))) ∧
    (Issues s c (.partsetDel f) u → ga.toNat < 64 →
      let none_ := tabFind u.parts ga.toNat = none
      let busy := partCtxs u ga.toNat ≠ [] ∨ childrenOf u ga.toNat ≠ []
      (none_ → bad (.partsetDel f) 0x0E) ∧ (¬ none_ → busy → bad (.partsetDel f) 0x09) ∧
      (¬ none_ → ¬ busy → done (.partsetDel f) { u with parts := tabDel u.parts ga.toNat } 0)) ∧
    (ga.toNat < 32 →
      let x := getVf u ga.toNat
      (Issues s c (.partsetVfquota f) u →
        done (.partsetVfquota f) { u with vfs := tabPut u.vfs ga.toNat { x with quota := gb.toNat } } x.quota) ∧
      (Issues s c (.partsetVfused f) u → done (.partsetVfused f)
        { u with vfs := tabPut u.vfs ga.toNat { x with used := min ((x.used : Int) + gb.toInt).toNat (2 ^ 32 - 1) } } x.used)) ∧
    (Issues s c (.ctxldLoad f) u → ∀ d, supBlock u ga 16 = .ok d →
      let b := ctxBlock d
      let n := ((d.getD 0 0).extractLsb' 0 9).toNat
      let old := tabFind u.ctxs n
      let named := blockZero d = true ∧ tabFind u.parts b.part.toNat ≠ none
      let fits := named ∧ ctxLimit u n b = false
      let enabled := u.vfEnable = true ∨ (b.vfv = false ∧ vfStopped u n = false)
      let free := old ≠ none → held u (ctxQueue u n) true ∧ tilesOfCtx u n = []
      let put := fun (x : Context) => recheckQueue { u with ctxs := tabPut u.ctxs n x } b.queue.toNat
      (blockZero d = false → bad (.ctxldLoad f) 0x0A) ∧
      (blockZero d = true → tabFind u.parts b.part.toNat = none → bad (.ctxldLoad f) 0x0E) ∧
      (named → ctxLimit u n b = true → bad (.ctxldLoad f) 0x0A) ∧
      (fits → ¬ enabled → Traps s (.ctxldLoad f) 46 0 0 u) ∧
      (fits → enabled → ¬ free → bad (.ctxldLoad f) 0x0B) ∧
      (fits → enabled → free → rangesOk u b = false → Traps s (.ctxldLoad f) 17 0 0 u) ∧
      (fits → enabled → free → rangesOk u b = true → old = none → done (.ctxldLoad f) (put (newCtx b)) 0) ∧
      (∀ x, fits → enabled → free → rangesOk u b = true → old = some x →
        done (.ctxldLoad f) (put { x with block := b, resquota := [], skewbound := b.skew }) 0)) ∧
    (∀ i ∈ ([.ctxldDestroy f, .ctxldHold f, .ctxldRelease f] : List Instr), Issues s c i u → ga.toNat < 512 →
      tabFind u.ctxs ga.toNat = none → bad i 0x0E) ∧
    (ga.toNat < 512 → tabFind u.ctxs ga.toNat ≠ none →
      let n := ga.toNat
      let q := ctxQueue u n
      let hold := fun (b : Bool) => modHwq u q (fun x => { x with held := b })
      (Issues s c (.ctxldHold f) u → done (.ctxldHold f) (hold true) 0) ∧
      (Issues s c (.ctxldRelease f) u → done (.ctxldRelease f) (hold false) 0) ∧
      (Issues s c (.ctxldDestroy f) u → vfStopped u n = true → Traps s (.ctxldDestroy f) 46 0 0 u) ∧
      (Issues s c (.ctxldDestroy f) u → vfStopped u n = false → n ≠ ctxNo u c → ∃ v, done (.ctxldDestroy f) v 0 ∧ gone v [n] ∧
        tabFind v.ctxs n = none ∧ held v q true ∧
        ∀ k, k ≠ n → (tabFind v.ctxs k).map (·.block) = (tabFind u.ctxs k).map (·.block))) ∧
    (let t := (ga.extractLsb' 0 8).toNat
     let a := gb.toNat
     let mine := t / 32 = coreTile u c / 32 ∧ tilePresent u t = true
     let engine := fun (h : Engine → Engine) => modTile u t (fun x => { x with mx := h x.mx })
     let placed := laidOut u a = true ∧ laidOut u (a + 524351) = true
     (∀ i ∈ ([.dbgscanOut f, .dbgscanIn f, .dbgscanRun f] : List Instr), Issues s c i u →
       (256 ≤ ga.toNat → Traps s i 4 0 0 u) ∧ (ga.toNat < 256 → ¬ mine → Traps s i 5 0 0 u) ∧
       (ga.toNat < 256 → mine → i ≠ .dbgscanRun f →
         (¬ placed → Traps s i 19 0 0 u) ∧ (placed → a % 64 ≠ 0 → Traps s i 7 0 0 u))) ∧
     (ga.toNat < 256 → mine →
       (Issues s c (.dbgscanRun f) u →
         Completes s (.dbgscanRun f) (engine (fun e => { e with
           frozen := false, flight := [], wave := if e.frozen then e.wave.map (·.load e.active e.flight) else e.wave }))) ∧
       (placed → a % 64 = 0 →
         (Issues s c (.dbgscanOut f) u →
           let e0 := (getTile u t).mx
           let y := e0.wave.map (fun w => w.advance e0.active (max w.front ((Config.freeWord u.fresh).toNat % 255)))
           let e1 := if e0.frozen then e0 else
             { e0 with frozen := true, frozenAt := u.cycle, wave := y, flight := (y.map (waveFlight e0.active)).getD [] }
           let w := paWrite { engine (fun _ => e1) with fresh := u.fresh + 1 } a (scanImage e1 e1.frozenAt)
           ((getTile u t).task = none → Completes s (.dbgscanOut f) w) ∧
           (∀ k, (getTile u t).task = some k → Completes s (.dbgscanOut f) (fqNotice w k.ctx 356 t 0 0 0 0))) ∧
         (Issues s c (.dbgscanIn f) u →
           let b := (paBytes u a 524352).toArray
           let frozen := (getTile u t).mx.frozen = true
           (¬ frozen → Traps s (.dbgscanIn f) 26 0 0 u) ∧
           (frozen → paPoisoned u a 524352 = true → Traps s (.dbgscanIn f) 40 0 0 u) ∧
           (frozen → paPoisoned u a 524352 = false → scanOk b = false → Traps s (.dbgscanIn f) 26 0 0 u) ∧
           (frozen → paPoisoned u a 524352 = false → scanOk b = true → ∃ p q z, Completes s (.dbgscanIn f)
             (engine (fun e => { e with active := { e.active with cols := p }, shadow := { e.shadow with cols := q }, flight := z })))))))

/-- PREEMPT checks Ga, completes with 0 on a tile without a task, and else requests a pre-emption, or joins the one under way, and waits; the save completes every word that waits for it, with its result in Gb. PREEMPT.R takes effect once no matrix word is in progress and no binding is open, and from that moment on the tile's strands issue nothing, or with KIND 3 where that has not come within twice its bound. The model's choices: when a save is written and what it keeps of a word in progress (log entry 22); that a second PREEMPT joins the first, that a .K takes over a .R that waits, that every word that waits is answered, and that KIND 2 keeps the planes (log entry 23). TASK_SAVE, unless a stream flows, writes the header of R298, keeps strands, flags, M, P, queues and records, discards unpopped lines, parks the strands, frees the tile, queues the saved task and answers. TASK_RESUME puts them back with each strand in the state it was saved in. (R69, R149, R150, R175, R176, R177, R178, R294, R298, R306, R310, R364.) -/
def Obligations.Preemption : Prop :=
  (∀ (s u : State) (c : CoreId) (f : FS),
    let st := getStrand u c
    let ga := st.getG f.ra
    let t := ga.toNat
    ∀ e ∈ ([(.preemptK f, 1), (.preemptR f, 2)] : List (Instr × Nat)), Issues s c e.1 u →
      (256 ≤ t → Traps s e.1 4 0x0F ga u) ∧
      (t < 256 → t / 32 ≠ coreTile u c / 32 → Traps s e.1 5 0 ga u) ∧
      (t < 256 → t / 32 = coreTile u c / 32 → tilePresent u t = false → Traps s e.1 4 0x0E ga u) ∧
      (t < 256 → t / 32 = coreTile u c / 32 → tilePresent u t = true →
        ((getTile u t).task = none → Completes s e.1 (setGOf u c f.rb 0)) ∧
        (∀ k, (getTile u t).task = some k → ∃ v, Waits s e.1 { what := .preempt, kind := 11, name := 0x0F4 } v ∧
          ((getTile u t).preempt = none → ∃ p, (getTile v t).preempt = some p ∧ p.kind = e.2 ∧ p.effect = decide (e.2 = 1) ∧
            p.since = u.cycle ∧ p.by_ = [(ctxNo u c, c)] ∧ p.operands = 0 ∧
            ∀ q, q < 4 → ((getTile v t).strand q).wake = ((getTile u t).strand q).wake ||| 16) ∧
          (∀ p, (getTile u t).preempt = some p → (getTile v t).preempt = some { p with
            kind := if e.2 = 1 ∧ p.effect = false then 1 else p.kind
            effect := p.effect || decide (e.2 = 1)
            by_ := if (ctxNo u c, c) ∈ p.by_ then p.by_ else p.by_ ++ [(ctxNo u c, c)] })))) ∧
  (∀ (s : State) (t : Nat) (p : Preempt) (k : Task), (getTile s t).preempt = some p → (getTile s t).task = some k →
    let x := getTile s t
    let set := fun (y : Preempt) => setTile s t { x with preempt := some y }
    let waits := p.kind = 2 ∧ p.effect = false
    let open_ := mxOpen s t k.ctx = true
    let depth := ((tabFind s.launches k.launch).map (·.kdepth)).getD 1
    let late := p.since + 2 * (388 * depth + 1300 + p.operands) < s.cycle
    (waits → ¬ open_ → Happens s (.preemptREffect t) (set { p with effect := true })) ∧
    (¬ (waits ∧ ¬ open_) → Idles s (.preemptREffect t)) ∧
    (waits → ¬ open_ → Happens s (.preemptRFallback t) (set { p with effect := true })) ∧
    (waits → open_ → late → Happens s (.preemptRFallback t) (set { p with kind := 3, effect := true })) ∧
    (¬ waits ∨ (open_ ∧ ¬ late) → Idles s (.preemptRFallback t)) ∧
    (∀ q, q < 4 → (preemptHolds s (.tile t q) = true ↔
      (p.effect = true ∨ (p.kind = 2 ∧ ¬ open_)) ∧ ¬ (q = 2 ∧ streamFlows x = true))) ∧
    (p.effect = false ∨ streamFlows x = true → Idles s (.taskSave t)) ∧
    (p.effect = true → streamFlows x = false → ∃ v sv,
      Happens s (.taskSave t) (answerPreempt v t (some p) (if p.kind = 3 then 3 else 1)) ∧ tabFind v.saves (256 * k.ctx + t) = some sv ∧
      sv.task = k ∧ sv.kind = p.kind ∧ sv.tainted = false ∧
      (getTile v t).task = none ∧ (getTile v t).preempt = none ∧ (getTile v t).flags = 0 ∧
      (∀ q, q < 4 → ((getTile v t).strand q).run = .idle) ∧
      v.heap = tabPut s.heap s.nextHeap
        ⟨t / 32, k.tier, k.deadline.toNat, k.age, k.queue, k.pos, k.ctx, k.launch, s.cycle, false, .saved t⟩ ∧
      ((∀ q, q < 4 → (x.strand q).pause = none) →
        sv.tile.couplings = x.couplings ∧ sv.tile.flags = x.flags ∧ sv.tile.settle = x.settle ∧ sv.tile.m = x.m ∧
        sv.tile.p = x.p ∧
        sv.tile.ds = x.ds ∧ sv.tile.qs = x.qs.map (fun y =>
          { y with lines := y.lines.map (fun l => { l with filled := false, again := true }) }) ∧
        (∀ q, q < 4 → let st := x.strand q
          sv.tile.strand q = { st with
            under := st.run, run := .parked, granted := none, going := none, making := none, staged := none, step := 0
            met := false, walk := none, pins := []
            wait := st.wait.map (fun w => if w.what = .semaphore then { w with count := 0 } else w)
            park := if st.run = .parked then st.park else some .preempted }) ∧
        (let area := saveArea s k.ctx t
         s.mem.wf = true → area + 64 ≤ 2 ^ 39 → area + saveBytes ≤ s.qtbase ∨ s.qtbase + 65536 ≤ area →
          paBytes v area 64 = saveHeader s t k p)))) ∧
  (∀ (s : State) (t : Nat) (k : Task) (p : Preempt), t < 256 → k.ctx < 512 → p.kind < 8 → (∀ n, p.states.getD n 0 < 8) →
    k.lap < 2 ^ 32 → k.index.getD (2 ^ 32 - 1) < 2 ^ 32 →
    let h := BitVec.ofNat 512 (leNat (saveHeader s t k p))
    let state := fun (n : Nat) => BitVec.ofNat 3 (p.states.getD n 0)
    h.extractLsb' 48 16 = 1 ∧ h.extractLsb' 45 3 = BitVec.ofNat 3 p.kind ∧ h.extractLsb' 24 8 = BitVec.ofNat 8 t ∧
    h.extractLsb' 21 3 = state 0 ∧ h.extractLsb' 18 3 = state 1 ∧ h.extractLsb' 15 3 = state 2 ∧ h.extractLsb' 12 3 = state 3 ∧
    h.extractLsb' 0 9 = BitVec.ofNat 9 k.ctx ∧ h.extractLsb' 128 64 = BitVec.ofNat 64 k.pos ∧
    h.extractLsb' 224 32 = BitVec.ofNat 32 k.lap ∧ h.extractLsb' 192 32 = BitVec.ofNat 32 (k.index.getD (2 ^ 32 - 1)) ∧
    h.extractLsb' 256 256 = 0) ∧
  (∀ (s : State) (g id t : Nat) (e : HeapEntry) (sv : Saved), nextStart s g = some (id, e, t) → e.work = .saved t →
    tabFind s.saves (256 * e.ctx + t) = some sv → sv.tainted = false →
    (∀ x, tabFind s.ctxs e.ctx = some x → x.trace.getLsbD 1 = false) →
    ∃ v, Happens s (.taskResume g) v ∧ v.heap = tabDel s.heap id ∧ v.saves = tabDel s.saves (256 * e.ctx + t) ∧
      let y := getTile v t
      y.task = some { sv.task with preempted := false } ∧ y.couplings = sv.tile.couplings ∧ y.flags = sv.tile.flags ∧
      y.settle = sv.tile.settle ∧ y.m = sv.tile.m ∧ y.p = sv.tile.p ∧ y.mx.prog = sv.tile.mx.prog ∧ y.preempt = none ∧
      y.qs = sv.tile.qs ∧ y.ds = sv.tile.ds ∧
      (sv.kind = 2 → sv.tile.mx.active.pending = false → sv.tile.mx.shadow.pending = false →
        y.mx.active = sv.tile.mx.active ∧ y.mx.shadow = sv.tile.mx.shadow) ∧
      ∀ q, q < 4 → let a := y.strand q; let b := sv.tile.strand q
        (b.under = .parked → a = { b with run := .parked, under := .idle }) ∧
        (b.under ≠ .parked → a = { b with run := b.under, under := .idle, park := none })) ∧
  (∀ (s : State) (t n cx : Nat) (c : CoreId) (p : Preempt) (f : FS) (w : Wait), p.by_ = [(cx, c)] →
    (∀ k q, c = .tile k q → (getTile s k).task.any (fun y => y.ctx == cx) = true) →
    (∀ g, c = .sbox g → (tabFind s.boxProgs g).any (fun y => y.ctx == cx) = true) →
    (getStrand s c).run = .waiting → (getStrand s c).wait = some w → (w.instr = .preemptK f ∨ w.instr = .preemptR f) →
    (((getStrand s c).getG f.ra).extractLsb' 0 8).toNat = t →
    answerPreempt s t (some p) n = completeWait (setGOf s c f.rb (BitVec.ofNat 64 n)) c) ∧
  (∀ (s : State) (g : Nat), (∀ id e t, nextStart s g = some (id, e, t) → ∀ x, e.work ≠ .saved x) → Idles s (.taskResume g))

/-- FETCH_BLOCK_FILL puts the eight words of a missed block into the instruction cache, those read before as they were then, or the fetch traps or faults, or goes on with its walk; where no block is needed it changes nothing. COMMAND_DISPATCH starts a ready command on a free engine that serves it with its grant given, fails it by its checks, or does nothing. Retirement removes the command, releases those held behind it and, by its ring post, those that wait for the value it reaches, records STATUS, and sets its SIGNAL flags unless it failed, when the strand of its task receives the error, be the task running or saved. CHAIN_ENTRY_FETCH writes the STATUS of the last entry and goes on at LINK, or reads the next entry. (R41, R44, R71, R192, R193, R196, R203, R204, R205, R206, R207, R231.) -/
def Obligations.CommandEvents : Prop :=
  (∀ (s : State) (c : CoreId) (pc : Nat), neededPc s c = some pc →
    let va := pc / 64 * 64
    let ev := fun (v : State) => Happens s (.fetchBlockFill c) v
    let fills := fun (v : State) (got : Tab Word) (pa : Nat) =>
      (linkDown v pa = true → ev (trapFetch v c { cond := 41 })) ∧
      (linkDown v pa = false → paPoisoned v pa 64 = true → ev (trapFetch v c { cond := 40 })) ∧
      (linkDown v pa = false → paPoisoned v pa 64 = false → ∃ w, ev w ∧
        (∀ t, t ≠ coreTile v c → getTile w t = getTile v t) ∧
        ∀ k, k < 8 → wordAt w c (va + 8 * k) = some ((tabFind got k).getD (paWord v (pa + 8 * k))))
    (2 ^ 52 ≤ pc → ev (trapFetch s c { cond := 19 })) ∧
    (∀ b, pc < 2 ^ 52 → findRead s c va = some b → fills s b.got b.pa) ∧
    (pc < 2 ^ 52 → findRead s c va = none →
      (∀ f v, devXlat s c va 64 .fetch = .error (.fault f v) → ev (parkFault v c f)) ∧
      (∀ v, devXlat s c va 64 .fetch = .error (.more v) → ev v) ∧
      (∀ r v, devXlat s c va 64 .fetch = .ok (r, v) →
        (fetchOk r.leaf (getStrand v c) = false → ∃ f, ev (parkFault v c f) ∧ f.cond = 17 ∧ f.reason = 2 ∧ f.va = va ∧ f.acc = .fetch) ∧
        (fetchOk r.leaf (getStrand v c) = true → fills v [] r.pa)))) ∧
  (∀ (s : State) (c : CoreId), neededPc s c = none → Idles s (.fetchBlockFill c)) ∧
  (∀ (s : State) (id e : Nat) (k : Cmd), tabFind s.cmds id = some k →
    let ready := k.state = .queued ∧ k.held = false ∧ k.faulted = false ∧ hasEntry k = true ∧ atHead s id k = true ∧
      checkerFree s k = true ∧ (k.begun = true ∨ k.absorbed = true ∨
        (cmdWait k.raw &&& ~~~ cmdFlags s k = 0 ∧ ringMet s k = true ∧ fencerecFree s id k = true)) ∧
      engineServes s k e = true ∧ engineBusy s e id = false ∧ poolTurn s id k e = true
    let start := fun (v : State) => Happens s (.commandDispatch id e)
      (modCmd v id (fun x => { x with state := .running, engine := e, begun := true }))
    (¬ ready → Idles s (.commandDispatch id e)) ∧
    (∀ n v, ready → dispatchCheck s k = .error (.err n v) → Happens s (.commandDispatch id e) (failCmd v id n)) ∧
    (∀ rs, ready → dispatchCheck s k = .ok rs →
      (wholeHome s k = none → start s) ∧
      (∀ t v, wholeHome s k = some t → cmdGrant s id k t (footprint rs) = .ok v → start (touchAll v k.ctx rs)) ∧
      (∀ t v, wholeHome s k = some t → cmdGrant s id k t (footprint rs) = .error (.hold v) →
        Happens s (.commandDispatch id e) v) ∧
      (∀ t n v, wholeHome s k = some t → cmdGrant s id k t (footprint rs) = .error (.err n v) →
        Happens s (.commandDispatch id e) (failCmd v id n)))) ∧
  (∀ (s : State) (id : Nat), tabFind s.cmds id = none → ∀ e, Idles s (.commandDispatch id e) ∧ Idles s (.commandRetire id) ∧
    Idles s (.withdrawnStop id) ∧ Idles s (.chainEntryFetch id)) ∧
  (∀ (s : State) (id : Nat) (k : Cmd), tabFind s.cmds id = some k →
    let writes := k.state = .written ∧ k.held = false
    let stops := k.withdrawn = true ∧ (k.state = .running ∨ k.state = .parked) ∧ k.held = false ∧ k.faulted = false
    (writes → k.chain = none → Happens s (.commandRetire id) (retireCmd s id 1 (if k.withdrawals = 0 then 0 else 0xFF))) ∧
    (¬ writes → Idles s (.commandRetire id)) ∧
    (stops → Happens s (.withdrawnStop id) (retireCmd s id 3 0)) ∧ (¬ stops → Idles s (.withdrawnStop id))) ∧
  (∀ (s : State) (id out cond : Nat) (k : Cmd), tabFind s.cmds id = some k → k.chain = none →
    (∀ e ∈ s.cmds, e.1 ≠ id → cmdNonstrict e.2.raw = false) →
    let status := BitVec.ofNat 16 (cond % 256 * 256 + k.flags.toNat * 4 + out)
    let error : EngineError := { cond := cond, src := cmdErrSrc k, unit := cmdUnit k,
                                 d0 := BitVec.ofNat 64 (k.seq * 2 ^ 16 + status.toNat), d1 := k.addr }
    let taker := fun (r : RunState) => if r = .arrived ∨ r = .idle then 0 else k.seq
    let t := retireCmd s id out cond
    tabFind t.cmds id = none ∧
    (∀ j y, j ≠ id → tabFind s.cmds j = some y → ∃ seen,
      tabFind t.cmds j = some { y with behind := y.behind.filter (· != id), ringSeen := seen } ∧
      (out = 2 ∨ cmdRpost k.raw = false ∨ ringKind k.raw = false → seen = y.ringSeen) ∧
      (∀ x, out ≠ 2 → cmdRpost k.raw = true → ringKind k.raw = true → tabFind s.ctxs k.ctx = some x →
        rawField k.raw 113 0 8 < ringsOf x → seen = (y.ringSeen || ringCmd k.ctx (rawField k.raw 113 0 8)
          ((tabGet 0 x.ringCtr (rawField k.raw 113 0 8) + rawField k.raw 120 0 32) % 2 ^ 32) y))) ∧
    tabGet 0 t.lastStatus (16 * k.tile + qnOfQueue k.queue) = status ∧
    (out = 1 ∨ out = 3 → (getTile t k.tile).flags =
      if cmdTaskRuns s k then (getTile s k.tile).flags ||| cmdSignal k.raw else (getTile s k.tile).flags) ∧
    (out = 2 → (getTile t k.tile).flags = (getTile s k.tile).flags ∧
      (cmdTaskRuns s k = true →
        let q := taker (getStrand s (.tile k.tile k.seq)).run
        (getStrand t (.tile k.tile q)).errors = (getStrand s (.tile k.tile q)).errors ++ [error]) ∧
      (∀ sv, k.box = false → cmdTaskRuns s k = false → tabFind s.saves (256 * k.ctx + k.tile) = some sv →
        sv.task.serial = k.task →
        let q := taker (sv.tile.strand k.seq).unpreempt.run
        ∃ sv', tabFind t.saves (256 * k.ctx + k.tile) = some sv' ∧
          (sv'.tile.strand q).errors = (sv.tile.strand q).errors ++ [error]))) ∧
  (∀ (s : State) (id : Nat) (k : Cmd) (ch : Chain), tabFind s.cmds id = some k → k.chain = some ch →
    let turn := ch.loaded = false ∧ k.held = false ∧ k.faulted = false ∧ atHead s id k = true ∧
      engineBusy s (ownEngine k.queue) id = false
    let ev := fun (t : State) => Happens s (.chainEntryFetch id) t
    (¬ turn → Idles s (.chainEntryFetch id)) ∧
    (∀ st v, turn → ch.status = some st → linkWrite s id k k.addr 6 (leBytes 2 st.toNat) = .ok v →
      let link := cmdLink k.raw
      let ended := st.extractLsb' 0 2 = 2 ∨ link = 0
      (ended → ev (dropChain v id)) ∧
      (¬ ended → (link = k.addr ∨ ch.max ≤ ch.count) → ev (failChain v id k 35 k.addr)) ∧
      (¬ ended → link ≠ k.addr → ch.count < ch.max →
        ev (modCmd v id (fun x => { x with chain := some { ch with status := none, next := link }, pins := [] })))) ∧
    (turn → ch.status = none → linkBad ch.next = true → ev (failChain s id k 30 ch.next)) ∧
    (∀ bs v, turn → ch.status = none → linkBad ch.next = false → linkRead s id { k with addr := ch.next, progress := 0 } ch.next 0 128 = .ok (bs, v) →
      let k1 := { k with addr := ch.next, progress := 0 }
      let raw := ownRaw v (BitVec.ofNat 1024 (leNat bs))
      let fails := cmdFailByte v k.ctx (domainSize v k.launch) (queueServes k.queue) true k.box raw
      (∀ b w, fails = some b → linkWrite v id k1 ch.next 6 (leBytes 2 0x1E02) = .ok w → ev (failChain { w with
        lastStatus := tabPut w.lastStatus (16 * k.tile + qnOfQueue k.queue) (BitVec.ofNat 16 0x1E02) } id k1 30 ch.next)) ∧
      (fails = none → (usedOpds raw).any (agRangeBad v k.ctx) = false →
        ∃ t y, ev t ∧ tabFind t.cmds id = some y ∧ y.raw = raw ∧ y.addr = ch.next ∧ y.chain = some { ch with loaded := true } ∧
          y.queue = k.queue ∧ y.state = k.state ∧ y.progress = 0 ∧ y.flags = 0 ∧ y.entered = v.nextCmd ∧
          y.inst = (takeInstance v k.launch raw).1 ∧ y.ranges = cmdRanges v k.ctx raw)))

/-- A running command makes one access of a portion a turn: COPY, MCAST and GATHER read a run of elements portion by portion and then write it so, with the elements of R200; FILL writes its value, FENCEREC its record in one access, MATTASK reads a row of D, B or A, does a K-step or writes a portion of an output block, SELECT, TOPK and ATTNPART read a portion of their source or write one of their record, COLLECTIVE reads and sends a portion of its source, or writes one of its result; the last portion leaves the command written. An error ends it, a fault parks it, a grant it lacks makes it wait. Any other command's turn changes nothing. The model's choices, and no rules: the size of a portion, the parts of MATTASK's steps and what an absorbed one writes (log entry 35); ATTNPART raises NV for a signalling query only if some position is unmasked (log entry 37); which flits COLLECTIVE sends, and that it retires after every acknowledgement (log entry 30); a walk may hold a turn (log entry 83). (R54, R62, R197, R200, R201, R226, R274, R278, R280, R281, R285, R332.) -/
def Obligations.CommandKinds : Prop :=
  (∀ (s : State) (id : Nat) (e : Instr × Nat), e ∈ ([(.copy id, 1), (.mcast id, 2), (.gather id, 3), (.fill id, 4), (.fencerec id, 0x3F),
      (.mattask id, 0x10), (.select id, 0x20), (.topk id, 0x21), (.attnpart id, 0x22), (.collective id, 0x30)] : List (Instr × Nat)) →
    (∀ k, ¬ Runs s id k e.2) → Idles s e.1) ∧
  (∀ (s : State) (id : Nat) (k : Cmd) (e : Instr × Nat), e ∈ ([(.copy id, 1), (.mcast id, 2), (.gather id, 3)] : List (Instr × Nat)) →
    Runs s id k e.2 →
    let d := opdAt k.raw 1
    let replica := (findSeg s k.ctx d.name).any (fun g => attrReplica g.attr)
    let copies := destCopies s k d
    let total := destCount k d
    let work := portionTurn s id k d (copies.getD (k.progress / total) none) (k.progress % total) total (cmdRm k.raw)
    (e.2 = 2 → replica = false → TurnsTo s e.1 id (failCmd s id 14)) ∧
    ((e.2 = 2 → replica = true) →
      (∀ v, work = .ok v →
        let w := releasePortion v id
        TurnsTo s e.1 id (if (tabFind w.cmds id).any (fun y => decide (total * copies.length ≤ y.progress)) then allWritten w id else w)) ∧
      (∀ n v, work = .error (.err n v) → TurnsTo s e.1 id (failCmd v id n)) ∧
      (∀ f v, work = .error (.park f v) → TurnsTo s e.1 id (parkCmd s id f)) ∧
      (∀ v, work = .error (.hold v) → TurnsTo s e.1 id (modCmd v id (fun y => { y with inbox := k.inbox, acks := k.acks }))))) ∧
  (∀ (s : State) (id : Nat) (k : Cmd) (d : Opd) (copy : Option Nat) (e total rm : Nat),
    let start := (runOf s k d e total rm).1
    let stop := (runOf s k d e total rm).2
    let m := start + k.reads.length
    let turn := portionTurn s id k d copy e total rm
    let src := opdAt k.raw 0
    (copiesPlanes k d = false → k.ready = false →
      ∀ xs bad v, copyRaws id k d (if isBp d then min 64 (stop - m) else chunkLen s k d m stop) m s = .ok (xs, bad, v) →
        (bad = true → m + xs.length ≤ e → turn = .error (.err 19 v)) ∧
        (bad = false ∨ e < m + xs.length → turn = .ok (modCmd v id (fun x =>
          { x with reads := k.reads ++ xs, ready := bad || decide (stop ≤ m + xs.length) })))) ∧
    (copiesPlanes k d = false → k.ready = true → isBp d = false → (isScaled s k.ctx d = false ∨ d.raw = true) →
      let n := chunkLen s k d e m
      let mine := ((runLanes s k d rm).drop (e - start)).take n
      ∀ v, writeElems id k d (opdW d) copy (n + 1) e (mine.map (·.1)) s = .ok v →
        let w := portionDone v id n (orAll mine) (codesFit d (mine.map (·.1)))
        turn = .ok (if m ≤ e + n then runDone w id else w)) ∧
    (copiesPlanes k d = false → k.ready = true → isBp d = true →
      let codes := (runLanes s k d rm).map (·.1)
      let j := opdPlanes s k.ctx d
      ∀ v, opdWrite s id k d (planeAddr s k.ctx d (e / 512) k.sub) (planeSector codes j k.sub) copy = .ok v →
        turn = .ok (if k.sub + 1 < j then modCmd v id (fun x => { x with sub := x.sub + 1 })
          else runDone (portionDone v id (m - e) (orAll (runLanes s k d rm)) (if codes.all (· == 0) then 1 else 0)) id)) ∧
    (copiesPlanes k d = true → cmdKind k.raw ≠ 3 → k.ready = false →
      ∀ bs v, opdRead s id k src (planeAddr s k.ctx src (e / 512) k.sub) 64 = .ok (bs, v) →
        turn = .ok (modCmd v id (fun x => { x with reads := bs.map (fun y => (y.toNat, 0, 0)), ready := true }))) ∧
    (copiesCodes s k d = true → isBp d = false → runLanes s k d rm = k.reads.map (fun x => ((rawElem s k.ctx src (x.1, x.2.1)).code, 0))) ∧
    (isBp d = false → (isScaled s k.ctx d = false ∨ d.raw = true) → rm ≠ 5 →
      runOf s k d e total rm = (e, e + chunkLen s k d e total))) ∧
  (∀ (s : State) (ctx : Nat) (o : Opd) (a b c : Nat), elemAddr s ctx o a b c = (if o.space = 2 then
      let v := agReg s ctx o.name
      (v.extractLsb' 0 52).toNat + o.base / 2 ^ 40 * (v.extractLsb' 64 64).toNat +
        (o.base % 2 ^ 24 + b) * (v.extractLsb' 160 32).toNat + (o.base / 2 ^ 24 % 2 ^ 16 + c) * (v.extractLsb' 128 32).toNat +
        a * opdW o
    else o.base + a * opdW o + 64 * (b * o.stride1 + c * o.stride2))) ∧
  (∀ (s : State) (id : Nat) (k : Cmd) (o : Opd) (a b c : Nat),
    (∀ r v, o.space = 0 → lookupSeg s k.ctx k.tile o.name = .ok r → a + b ≤ r.seg.bytes →
      cmdGrant s id k r.tile (cmdItems s k r) = .ok v → segPoisoned v k.ctx r.name r.tile a b = false →
      opdRead s id k o a b = .ok (segBytes v k.ctx r.name r.tile a b, touchSeg v k.ctx r.name r.tile)) ∧
    (∀ bs v, isBp o = false → opdRead s id k o (elemAddr s k.ctx o a b c) (opdW o) = .ok (bs, v) →
      ((isScaled s k.ctx o = false ∨ o.raw = true) → readRaw s id k o a b c = .ok ((leNat bs, 127), v)) ∧
      (isScaled s k.ctx o = true → o.raw = false → ∀ hs w, cmdReadVa id k 2 v (rowHeader s k.ctx o b c) 1 = .ok (hs, w) →
        readRaw s id k o a b c = .ok ((leNat bs, leNat hs), w))) ∧
    (∀ x, isBp o = false → ((isScaled s k.ctx o = false ∨ o.raw = true) →
        rawElem s k.ctx o x = ⟨x.1, numRes (readElem o.fmt x.1)⟩) ∧
      (isScaled s k.ctx o = true → o.raw = false → rawElem s k.ctx o x = ⟨x.1, underScale (readElem o.fmt x.1) x.2⟩))) ∧
  (∀ (fmt : Nat) (resc : Bool) (h : Word) (x : Nat × Int) (e : Nat), e < 255 → fitsScale fmt x e = true →
    (∀ d, d < e → fitsScale fmt x d = false) →
    (h.getLsbD 8 = false → x.1 ≠ 0 → pageScale fmt resc h x = e) ∧ (h.getLsbD 8 = false → x.1 = 0 → pageScale fmt resc h x = 0x7F) ∧
    (h.getLsbD 8 = true → resc = false → pageScale fmt resc h x = (h.extractLsb' 0 8).toNat)) ∧
  (∀ (s : State) (id : Nat) (k : Cmd), Runs s id k 4 →
    let d := opdAt k.raw 0
    let n := chunkLen s k d k.progress (opdCount d)
    let codes := List.replicate n ((k.raw.extractLsb' 864 32).toNat % 2 ^ (8 * opdW d))
    ∀ v, 0 < d.dim0 → k.progress < opdCount d →
      opdWrite s id k d (elemAddrOf s k.ctx d k.progress) (codes.flatMap (leBytes (opdW d))) none = .ok v →
      let w := releasePortion (portionDone v id n 0 (codesFit d codes)) id
      1 ≤ n ∧ TurnsTo s (.fill id) id (if opdCount d ≤ k.progress + n then allWritten w id else w)) ∧
  (∀ (s : State) (id : Nat) (k : Cmd), Runs s id k 0x3F → k.box = false →
    let d := opdAt k.raw 0
    let bs := fenceRecord s k
    let r := BitVec.ofNat 512 (leNat bs)
    r.extractLsb' 0 64 = k.raw.extractLsb' 832 64 ∧ r.extractLsb' 64 64 = BitVec.ofNat 64 (devTime s) ∧
    r.extractLsb' 128 16 = BitVec.ofNat 16 k.hwq ∧ r.extractLsb' 144 16 = BitVec.ofNat 16 k.ctx ∧ r.extractLsb' 160 32 = 0 ∧
    r.extractLsb' 192 64 = BitVec.ofNat 64 k.pos ∧ r.extractLsb' 256 256 = 0 ∧
    ∀ v, opdWrite s id k d d.base bs none = .ok v →
      TurnsTo s (.fencerec id) id (allWritten (portionDone v id 64 0 (bytesFit bs)) id)) ∧
  (∀ (s : State) (id : Nat) (k : Cmd), Runs s id k 0x10 →
    let a := opdAt k.raw 0
    let d := opdAt k.raw 2
    let nbs := (d.dim0 + 127) / 128
    let mb := k.progress / nbs
    let nb := k.progress % nbs
    let rows := min 128 (d.dim1 - 128 * mb)
    let cols := min 128 (d.dim0 - 128 * nb)
    let done := fun (x : State) (b : MatBlock) => releasePortion (modCmd x id (fun y => { y with block := some b })) id
    (k.absorbed = true → cmdBit3 k.raw = true → TurnsTo s (.mattask id) id (allWritten s id)) ∧
    (∀ u, (if k.absorbed then u = s else anonSlot s id k = .ok u) → (k.absorbed = true → cmdBit3 k.raw = false) →
      let b := k.block.getD (newBlock k rows cols)
      (∀ bs v, b.read < rows → opdRead u id k d (elemAddr u k.ctx d (128 * nb) (128 * mb + b.read) 0) (4 * cols) = .ok (bs, v) →
        TurnsTo s (.mattask id) id (done v { b with
          read := b.read + 1, acc := b.acc.set b.read ((List.range cols).map (fun n => BitVec.ofNat 32 (leNat ((bs.drop (4 * n)).take 4)))) })) ∧
      (rows ≤ b.read → b.steps < (a.dim0 + 127) / 128 →
        let kk := min 128 (a.dim0 - 128 * b.steps)
        (∀ row v, b.bRows.length < kk →
          rowNums u id k (opdAt k.raw 1) (128 * b.steps + b.bRows.length) (128 * nb) cols cols = .ok (row, v) →
          TurnsTo s (.mattask id) id (done v { b with bRows := b.bRows ++ [row] })) ∧
        (∀ row v, kk ≤ b.bRows.length → b.aRows.length < rows →
          rowNums u id k a (128 * mb + b.aRows.length) (128 * b.steps) kk 128 = .ok (row, v) →
          TurnsTo s (.mattask id) id (done v { b with aRows := b.aRows ++ [row] })) ∧
        (kk ≤ b.bRows.length → rows ≤ b.aRows.length →
          let out := (b.acc.zip b.aRows).map (fun y => streamRow ((List.range cols).map (columnOf b.bRows)) y.2 y.1)
          let frozen := (getTile u (k.engine - 0x800)).mx.frozen = true
          (frozen → TurnsTo s (.mattask id) id (modCmd u id (fun y => { y with inbox := k.inbox, acks := k.acks }))) ∧
          (¬ frozen → TurnsTo s (.mattask id) id (done u { b with
            steps := b.steps + 1, acc := out.map (·.1), flags := out.foldl (fun f y => f ||| y.2) b.flags
            bRows := [], aRows := [] })))) ∧
      (∀ v, rows ≤ b.read → (a.dim0 + 127) / 128 ≤ b.steps → writeBlock u id k mb nb rows cols b = .ok v →
        let w := releasePortion v id
        TurnsTo s (.mattask id) id
          (if (tabFind w.cmds id).any (fun y => decide ((d.dim1 + 127) / 128 * nbs ≤ y.progress)) then allWritten w id else w)))) ∧
  (∀ (k : Cmd) (rows cols : Nat),
    (cmdBit3 k.raw = false → (newBlock k rows cols).read = rows) ∧
    (k.absorbed = false → cmdBit3 k.raw = true → (newBlock k rows cols).read = 0) ∧
    (k.absorbed = false → (newBlock k rows cols).steps = 0) ∧
    (k.absorbed = true → (newBlock k rows cols).steps = ((opdAt k.raw 0).dim0 + 127) / 128) ∧
    (newBlock k rows cols).acc = List.replicate rows (List.replicate cols 0) ∧
    (newBlock k rows cols).bRows = [] ∧ (newBlock k rows cols).aRows = []) ∧
  (∀ (s : State) (id : Nat) (k : Cmd) (r : List Byte) (v : State) (e : Instr × Nat),
    e ∈ ([(.select id, 0x20), (.topk id, 0x21), (.attnpart id, 0x22)] : List (Instr × Nat)) → Runs s id k e.2 →
    (nearWork k).record = some r → writeRecord s id k (nearWork k) r = .ok v → TurnsTo s e.1 id v) ∧
  (∀ (s : State) (id : Nat) (k : Cmd) (xs : List Elem) (w : NearWork) (v : State), (nearWork k).record = none →
    let o := opdAt k.raw 0
    readRun s id k (nearWork k) o k.progress = .ok (xs, w, v) →
    let last := opdCount o ≤ k.progress + xs.length
    (Runs s id k 0x20 →
      let cap := (k.raw.extractLsb' 928 32).toNat
      let hits := (xs.zipIdx.filter (fun y => selectTest (k.raw.extractLsb' 832 8).toNat o.fmt y.1.code
        (k.raw.extractLsb' 864 32).toNat (k.raw.extractLsb' 896 32).toNat (outVal y.1.val))).map
        (fun y => (k.progress + y.2, y.1.code))
      let x := { w with count := w.count + hits.length, hits := (w.hits ++ hits).take cap }
      let t := readOn v id xs.length x (selectFlags k xs)
      TurnsTo s (.select id) id (if last then
        formRecord t id x (selectRecord cap x.count x.hits) 0 (if cap < x.count then 4 else 0) else t)) ∧
    (Runs s id k 0x21 → isBp o = false →
      let x := rankAll (k.raw.extractLsb' 848 1 == 1) (k.raw.extractLsb' 832 16).toNat w
        (xs.zipIdx.map (fun y => (k.progress + y.2, outVal y.1.val)))
      let t := readOn v id xs.length x (if isIntFmt o.fmt then 0 else readFlags xs)
      TurnsTo s (.topk id) id (if last then topkDone t id k x else t))) ∧
  (∀ (op fmt code c1 c2 : Nat) (x : FVal),
    (op = 7 → selectTest op fmt code c1 c2 x = decide (code &&& c1 ≠ 0)) ∧
    (op = 8 → selectTest op fmt code c1 c2 x = decide (code &&& c1 = c1)) ∧
    (op ≤ 6 → isNanVal x = true → selectTest op fmt code c1 c2 x = decide (op = 1)) ∧
    (∀ n m g, op ≤ 5 → x = .fin n m g → selectConst fmt c1 = .fin n m g →
      selectTest op fmt code c1 c2 x = decide (op = 0 ∨ op = 3 ∨ op = 5))) ∧
  (∀ (mn : Bool) (x : Nat × FVal) (l : List (Nat × FVal)), (rankIn mn x l).Perm (x :: l)) ∧
  (∀ (s : State) (id : Nat) (k : Cmd), Runs s id k 0x22 → (nearWork k).record = none →
    let w := nearWork k
    let q := opdAt k.raw 0
    let kk := opdAt k.raw 1
    let lo := (k.raw.extractLsb' 928 32).toNat
    let vv := opdAt k.raw 2
    (∀ xs v, w.query = [] → rowPortion s id k q 0 w.row.length = .ok (xs, v) →
      let row := w.row ++ xs
      (row.length < q.dim0 → TurnsTo s (.attnpart id) id (readOn v id 0 { w with row := row })) ∧
      (q.dim0 ≤ row.length →
        let ns := rowNumbers v k q row
        let x := { w with row := [], query := ns.map (fun y => BitVec.ofNat 32 (rne32 (numRes y)).1) }
        let t := readOn v id (min lo kk.dim1) x (if ns.any (·.sig) && decide (lo < kk.dim1) then flagNV else 0)
        TurnsTo s (.attnpart id) id (if kk.dim1 ≤ lo then attnDone t id k x else t))) ∧
    (∀ y v xs v1, w.query ≠ [] → cmdXlat s id k (elemAddr s k.ctx kk 0 k.progress 0) (opdW kk) .read = .ok (y, v) →
      (if w.row.length < kk.dim0 then rowPortion v id k kk k.progress w.row.length
        else rowPortion v id k vv k.progress (w.row.length - kk.dim0)) = .ok (xs, v1) →
      let row := w.row ++ xs
      (row.length < 2 * kk.dim0 → TurnsTo s (.attnpart id) id (readOn v1 id 0 { w with row := row })) ∧
      (2 * kk.dim0 ≤ row.length →
        let sl := homeSlice v1 y.pa y.leaf
        let st := attnStep (k.raw.extractLsb' 864 32) (w.query.map (fun z => codeNum z.toNat))
          (rowNumbers v1 k kk (row.take kk.dim0)) (rowNumbers v1 k vv (row.drop kk.dim0)) (tabGet (emptyTriple kk.dim0) w.triples sl)
        let x := { w with row := [], triples := tabPut w.triples sl st.1 }
        let t := readOn v1 id 1 x st.2
        TurnsTo s (.attnpart id) id (if kk.dim1 ≤ k.progress + 1 then attnDone t id k x else t)))) ∧
  (∀ (s : State) (id : Nat) (k : Cmd), Runs s id k 0x30 →
    let ms := cmdMembers s k
    let b := opdAt k.raw 1
    let others := (List.range ms.length).filter (· != (ms.filter (fun d => decide (d < s.device))).length)
    let differs := s.colls.any (fun p => partOf s k p && partDiffers k p) = true
    let me := (ms.filter (fun d => decide (d < s.device))).length
    let fed := collFed k me others.length = true
    let come := others.all (rankHere s k) = true
    let wait := modCmd s id (fun x => { x with pins := [], inbox := k.inbox, acks := k.acks })
    (∀ v, ms.length ≤ 1 → portionTurn s id k b none k.progress b.dim0 (collRm k.raw) = .ok v →
      let w := releasePortion v id
      TurnsTo s (.collective id) id (if (tabFind w.cmds id).any (fun y => decide (b.dim0 ≤ y.progress)) then allWritten w id else w)) ∧
    (1 < ms.length →
      (differs → TurnsTo s (.collective id) id (failCmd s id 30)) ∧
      (¬ differs → ¬ fed →
        let n := chunkLen s k (opdAt k.raw 0) k.fed (collSource k me)
        let w := opdW (opdAt k.raw 0)
        let due := flitsOf k (collSource k me) (k.fed + n)
        ∀ xs v, sourceCodes id k n k.fed s = .ok (xs, v) →
          let sent := sendAll v (due - k.sent / max 1 others.length) (ms.filter (· != s.device)) (sending v k)
          (sent = none → TurnsTo s (.collective id) id (failCmd v id 41)) ∧
          (∀ x, sent = some x →
            let u := addPart (sentOn v id x) (ownPart v k me) (k.fed * w) (xs.flatMap (leBytes w))
            TurnsTo s (.collective id) id (releasePortion (modCmd u id (fun y => { y with
              fed := k.fed + n, sent := others.length * due })) id))) ∧
      (¬ differs → fed → ¬ come → TurnsTo s (.collective id) id wait) ∧
      (¬ differs → fed → come → k.progress < b.dim0 →
        let lo := (collRun s k k.progress).1
        let hi := (collRun s k k.progress).2
        let n := chunkLen s k b k.progress hi
        let out := collLanes s k me ms.length lo (hi - lo)
        let mine := (out.1.drop (k.progress - lo)).take n
        ∀ v, writeElems id k b (opdW b) none (n + 1) k.progress mine s = .ok v →
          TurnsTo s (.collective id) id (releasePortion (portionDone v id n out.2 (codesFit b mine)) id)) ∧
      (¬ differs → fed → come → b.dim0 ≤ k.progress → k.sent ≤ k.acks →
        TurnsTo s (.collective id) id (allWritten { s with colls := s.colls.filter (fun p => !partOf s k p) } id)) ∧
      (¬ differs → fed → come → b.dim0 ≤ k.progress → k.acks < k.sent → TurnsTo s (.collective id) id wait))) ∧
  (∀ (k : Cmd) (me src fed : Nat), let w := opdW (opdAt k.raw 0)
    ((k.raw.extractLsb' 832 8).toNat = 4 → me ≠ (k.raw.extractLsb' 864 32).toNat → collSource k me = 0) ∧
    ((k.raw.extractLsb' 832 8).toNat ≠ 4 ∨ me = (k.raw.extractLsb' 864 32).toNat → collSource k me = (opdAt k.raw 0).dim0) ∧
    (fed < src → flitsOf k src fed = fed * w / 224) ∧ (src ≤ fed → flitsOf k src fed = max 1 ((src * w + 223) / 224))) ∧
  (∀ (s : State) (dev : Nat) (x : Sending), x.one s dev = (nextPort s x.turn dev).map (fun p =>
    ⟨x.seq + 1, (p + 1) % 16, x.flights ++ [(x.seq, p)]⟩)) ∧
  (∀ (s : State) (turn dev p : Nat), turn < 16 → nextPort s turn dev = some p → p < 16 ∧ p ∉ s.fabDown ∧
    (Config.routeMask (dev / 64)).getLsbD p = true ∧
    ∀ q, q < 16 → q ∉ s.fabDown → (Config.routeMask (dev / 64)).getLsbD q = true → (p + 16 - turn) % 16 ≤ (q + 16 - turn) % 16)

/-- QUEUE_ENABLE checks a descriptor, TAIL_WRITE takes each write to TAIL in its order, the tail in force or QERR, PACKET_READ advances HEAD and places the packet or writes its refusal, NGUKA_LAUNCH_CHECK loads a code object, judges it, raises floors and takes its segments one by one, and accepts or refuses, LAP_ENTRY enters the next lap as it stands in memory once the heaps have room, DISPATCH starts the first task in order on its idle tile with the values of R218 and R24, LAUNCH_COMPLETION writes the record with the layout of R326, TIER3_PROMOTION promotes the oldest ready packet of a queue that has waited, on every stack group. Each does nothing while its conditions do not hold. The model's choices, and no rules: the order PACKET, timetable, domain block, code object, and the floors that a refusal leaves raised (log entry 25); that writes to TAIL are kept and looked at in order (log entry 28); what counts as a packet, when a heap has room for one, and that a promoted packet goes whole (log entry 26). (R22, R24, R218, R219, R221, R292, R293, R324, R325, R326, R333, R351.) -/
def Obligations.LaunchEvents : Prop :=
  (∀ (s : State) (q : Nat),
    let due := s.boot = .up ∧ q ∈ s.enWrites
    let u := { s with enWrites := s.enWrites.filter (· != q) }
    let a := queueDesc s q + 9
    let en := (paByte s a).getLsbD 0
    (¬ due → Idles s (.queueEnable q)) ∧ (due → en = false → Happens s (.queueEnable q) u) ∧
    (due → en = true → descOk s q = true → Happens s (.queueEnable q) (modHwq u q (fun x => { x with en := true }))) ∧
    (due → en = true → descOk s q = false → s.mem.wf = true → a < 2 ^ 39 → ∃ t, Happens s (.queueEnable q) t ∧
      (getHwq t q).en = false ∧ (getHwq t q).qerr = true ∧ paByte t a = (paByte s a &&& 0xFC) ||| 2)) ∧
  (∀ (s : State) (q : Nat),
    let hq := getHwq s q
    (s.tailWrites.find? (fun y => y.1 == q) = none → Idles s (.tailWrite q)) ∧
    (∀ y, s.tailWrites.find? (fun y => y.1 == q) = some y →
      let due := s.boot = .up ∧ hq.en = true ∧ (boundCtxs s q).any (vfStopped s) = false
      let new := y.2.1
      let wrong := new < hq.tail ∨ hq.head + queueSlots s q < new
      (¬ due → Idles s (.tailWrite q)) ∧
      (due → wrong → ∃ t, Happens s (.tailWrite q) t ∧ (getHwq t q).tail = hq.tail ∧ (getHwq t q).qerr = true ∧
        t.tailWrites = s.tailWrites.erase y) ∧
      (due → ¬ wrong → new = hq.tail → Happens s (.tailWrite q) { s with tailWrites := s.tailWrites.erase y }) ∧
      (due → ¬ wrong → new ≠ hq.tail → ∃ t, Happens s (.tailWrite q) t ∧ t.tailWrites = s.tailWrites.erase y ∧
        getHwq t q = { hq with tail := new, ages := hq.ages ++ [(new, s.cycle)] } ∧ t.mem = s.mem ∧
        (tabFind s.boxProgs (queueBox s q) ≠ none →
          (getStrand t (.sbox (queueBox s q))).wake = (getStrand s (.sbox (queueBox s q))).wake ||| 8)))) ∧
  (∀ (s : State) (q : Nat),
    let hq := getHwq s q
    let p := hq.head
    let ctx0 := (boundCtxs s q).head?.getD 0
    let box := queueBox s q
    let due := s.boot = .up ∧ mayRead s q = true ∧ queueTurn s q (4 * box + ctxTier s ctx0) box (ctxTier s ctx0) = true
    let pa := (queueWord s q 0).toNat + 64 * (p % queueSlots s q)
    let pk := BitVec.ofNat 512 (paNat s pa 64)
    let u := paStore (modHwq s q (fun x => { x with head := p + 1 })) (queueDesc s q + 32) (leBytes 8 (p + 1))
    let reads := due ∧ laidOut s pa = true ∧ laidOut s (recordAt s q p) = true
    (¬ due → Idles s (.packetRead q)) ∧
    (∀ ctx laps hold es gen ids, reads → tabFind s.launches s.nextLaunch = none → packetCtx u q pk = some ctx →
      packetBad pk = false → timetable u ctx pk = some (laps, hold, es) →
      (if pk.extractLsb' 32 8 = 0 then gen = 0 ∧ ids = [] else domainBlock u q ctx pk = some (gen, ids)) →
      ∃ t l, Happens s (.packetRead q) t ∧ (getHwq t q).head = p + 1 ∧ t.mem = u.mem ∧ tabFind t.launches s.nextLaunch = some l ∧
        l.state = .checking ∧ l.queue = q ∧ l.pos = p ∧ l.ctx = ctx ∧ l.packet = pk ∧ l.age = packetAge hq p ∧ l.laps = laps ∧
        l.hold = hold ∧ l.gen = gen ∧ l.members = ids ∧ l.skew = 0 ∧ l.retired = 0) ∧
    (∀ code, reads → tabFind s.launches s.nextLaunch = none →
      ((code = 1 ∧ (packetCtx u q pk = none ∨ packetBad pk = true)) ∨
        (∃ ctx, packetCtx u q pk = some ctx ∧ packetBad pk = false ∧
          ((code = 5 ∧ timetable u ctx pk = none) ∨
            (code = 6 ∧ timetable u ctx pk ≠ none ∧ pk.extractLsb' 32 8 ≠ 0 ∧ domainBlock u q ctx pk = none)))) →
      ∃ t, Happens s (.packetRead q) t ∧ (getHwq t q).head = p + 1 ∧ tabFind t.launches s.nextLaunch = none ∧
        t.mem = (paWrite u (recordAt u q p) (recordBytes code 0 2 0 p (devTime u) 0)).mem)) ∧
  (∀ refuse cause outcome tasks pos time gen : Nat, refuse < 256 → cause < 512 → outcome < 16 → tasks < 2 ^ 32 →
    let r := BitVec.ofNat 512 (leNat (recordBytes refuse cause outcome tasks pos time gen))
    r.extractLsb' 56 8 = 1 ∧ r.extractLsb' 48 8 = BitVec.ofNat 8 refuse ∧ r.extractLsb' 39 9 = BitVec.ofNat 9 cause ∧
    r.extractLsb' 36 3 = 0 ∧ r.extractLsb' 32 4 = BitVec.ofNat 4 outcome ∧ r.extractLsb' 0 32 = BitVec.ofNat 32 tasks ∧
    r.extractLsb' 64 64 = BitVec.ofNat 64 pos ∧ r.extractLsb' 128 64 = BitVec.ofNat 64 time ∧
    r.extractLsb' 192 64 = BitVec.ofNat 64 gen ∧ r.extractLsb' 256 256 = 0) ∧
  (∀ (s : State) (id : Nat) (base : Option Nat) (l : Launch), tabFind s.launches id = some l →
    let ev := fun (t : State) => Happens s (.ngukaLaunchCheck id base) t
    let v := match base with
      | none => s
      | some b => modCtx s l.ctx (fun x => { x with bases := if x.bases.contains b then x.bases else x.bases ++ [b] })
    let prog := (findBase v l.ctx (packetEntry l.packet)).bind (readProg v l.ctx)
    (l.state ≠ .checking → ev s) ∧
    (l.state = .checking → l.load = none → readLap v l 0 = none →
      ev { v with launches := tabPut v.launches id { l with state := .ended, refuse := 5, left := 0 } }) ∧
    (∀ es, l.state = .checking → l.load = none → readLap v l 0 = some es →
      let home := (es.head?.map (·.2.1)).getD 0
      let tiles := (tabGet [] v.launchTiles id ++ es.map (·.2.1)).eraseDups
      (prog = none → ev (refuseLaunch v id l 2)) ∧
      (∀ e p, prog = some (e, p) →
        let w := tiles.foldl (raiseFloors p.wanted) v
        (hasCycle p.edges = true → ev (refuseLaunch v id l 3)) ∧
        (hasCycle p.edges = false → tiles.all (floorsFit v p) = false → ev (refuseLaunch v id l 4)) ∧
        (hasCycle p.edges = false → tiles.all (floorsFit v p) = true → segClash w l.ctx home p = true → ev (refuseLaunch w id l 7)) ∧
        (hasCycle p.edges = false → tiles.all (floorsFit v p) = true → segClash w l.ctx home p = false →
          ev (modLaunch w id (fun y => { y with
            waitdef := p.waitdef, kdepth := p.kdepth, entries := es, wanted := p.wanted, floored := tiles,
            load := some ⟨p.base, home, p.segs, [], none⟩ }))))) ∧
    (∀ ld, l.state = .checking → l.load = some ld →
      (∀ v ld1, loadTurn s (.loader id) l.ctx ld = .goesOn v ld1 → ev (modLaunch v id (fun y => { y with load := some ld1 }))) ∧
      (∀ n v, loadTurn s (.loader id) l.ctx ld = .refused n v → ev (refuseLaunch v id l n)) ∧
      (∀ v, loadTurn s (.loader id) l.ctx ld = .done v →
        (lapRoom v id l l.entries = false → ev v) ∧ (lapRoom v id l l.entries = true → ev (acceptLaunch v id l)) ∧
        ((∃ e ∈ l.entries, partHasTile v (ctxPart v l.ctx) e.2.1 = false ∨ tilePresent v e.2.1 = false) →
          lapRoom v id l l.entries = true → ∃ t, ev t ∧
          tabFind t.launches id = some { l with load := none, state := .ended, refuse := 5, left := 0 })))) ∧
  (∀ (s : State) (ctx entry b : Nat), findBase s ctx entry = some b →
    (∃ x, tabFind s.ctxs ctx = some x ∧ b ∈ x.bases) ∧ ∃ e, objNat s ctx (b + 8) 8 = some e ∧ b + e = entry) ∧
  (∀ (s : State) (party : Party) (ctx : Nat) (l : Loading),
    let turn := loadTurn s party ctx l
    let freed := l.made.foldl (fun s n => freeSeg s ctx n) s
    (l.todo = [] → turn = .done s) ∧
    (∀ n bytes img rest, l.todo = (n, bytes, img) :: rest →
      let next := fun (new : List Nat) => { l with todo := rest, made := new ++ l.made, answer := none }
      let wait := fun (alloc : Bool) => LoadTurn.goesOn
        (queueGrant s l.home (newReq s (some party) l.home ctx 7 l.home [(n, granOf bytes)] alloc)) { l with answer := none }
      let holds := grantHolds s ctx l.home [(n, granOf bytes)]
      (∀ x, findSeg s ctx n = some x → x.making = false → (x.bytes ≠ bytes ∨ x.home ≠ l.home) → turn = .refused 7 freed) ∧
      (∀ x, findSeg s ctx n = some x → x.making = true → l.answer ≠ some false → turn = .goesOn s l) ∧
      (findSeg s ctx n = none → l.answer = some false → turn = .refused 8 freed) ∧
      (∀ x, findSeg s ctx n = some x → x.making = false → x.bytes = bytes → x.home = l.home → l.answer ≠ some false → img = 0 →
        turn = .goesOn s (next [])) ∧
      (findSeg s ctx n = none → l.answer = some true → holds = true →
        turn = .goesOn (loadImage (addCopy s ctx n bytes l.home l.home 0 false) ctx l.home l.base (n, bytes, img)) (next [n])) ∧
      (findSeg s ctx n = none → l.answer = none → turn = wait true))) ∧
  (∀ (s : State) (id : Nat) (l : Launch), tabFind s.launches id = some l →
    let next := l.state = .running ∧ l.left = 0 ∧ l.lap + 1 < l.laps ∧ l.outcome = 0 ∧
      ¬ (l.hold = true ∧ l.raised = true ∧ l.skew ≠ 0)
    let es := readLap s l (l.lap + 1)
    let room := ∀ y, es = some y → lapRoom s id l y = true
    (¬ next → Idles s (.lapEntry id)) ∧ (next → ¬ room → Idles s (.lapEntry id)) ∧
    (next → room → Happens s (.lapEntry id) (enterLap s id l (l.lap + 1) s.cycle es)) ∧
    (∀ lap es, readLap s l lap = some es → es ≠ [] ∧ lapEntries s l lap (packetTasks l.packet + 1) l.next [] = some es) ∧
    (∀ lap age es,
      let t := enterLap s id l lap age (some es)
      ∃ k, tabFind t.launches id = some k ∧ k.state = .running ∧ k.lap = lap ∧ k.entries = es ∧ k.left = es.length ∧
        k.next = l.next + es.length ∧ k.lapAt = s.cycle ∧ t.nextHeap = s.nextHeap + es.length ∧
        ∀ j x, es[j]? = some x → tabFind t.heap (s.nextHeap + j) = some ⟨x.2.1 / 32, l.tier, packetDeadline l.packet, age,
          l.queue, l.pos, l.ctx, id, s.cycle, false, .task x.1 x.2.1 x.2.2⟩) ∧
    (∀ lap age, enterLap s id l lap age none =
      { s with launches := tabPut s.launches id { l with state := .ended, refuse := 5, left := 0 } })) ∧
  (∀ (s : State) (g id t : Nat) (e : HeapEntry), nextStart s g = some (id, e, t) →
    ((id, e) ∈ s.heap ∧ e.group = g ∧ mayStart s e = true ∧ t ∈ idleTargets s e ∧
      ∀ y ∈ s.heap, y.2.group = g → mayStart s y.2 = true → idleTargets s y.2 ≠ [] →
        keyBefore (orderKey (tier3First s g) y.1 y.2) (orderKey (tier3First s g) id e) = false) ∧
    (∀ l, tabFind s.launches e.launch = some l → (∀ x, e.work ≠ .saved x) →
      ∃ v k, Happens s (.dispatch g) v ∧ v.heap = tabDel s.heap id ∧ (getTile v t).task = some k ∧ k.ctx = e.ctx ∧
        k.launch = e.launch ∧ k.tier = e.tier ∧ k.age = e.age ∧ k.serial = s.nextTask ∧ (getTile v t).flags = 0 ∧
        (getTile v t).couplings = [] ∧ (getTile v t).m = [] ∧ (∀ i, i < 8 → (getTile v t).p[i]? = some 0) ∧
        (∀ q, 0 < q → q < 4 → (getTile v t).strand q = Strand.blank) ∧
        let c := (getTile v t).strand 0
        c.run = .running ∧ c.mode = .user ∧ c.waitdef = l.waitdef ∧ c.g[0]? = some 0 ∧
        (∀ i, 9 ≤ i → i < 32 → c.g[i]? = some 0) ∧ (∀ i, i < 16 → c.a[i]? = some 0) ∧
        (∀ i tile pool, e.work = .task i tile pool → k.index = some i ∧ k.lap = l.lap ∧ k.pool = pool ∧
          c.pc = BitVec.ofNat 64 (packetEntry l.packet) ∧ (∀ n, n < 4 → c.g[n + 1]? = some (packetArg l.packet n)) ∧
          c.g[5]? = some (BitVec.ofNat 64 i) ∧ c.g[6]? = some (BitVec.ofNat 64 (packetTasks l.packet)) ∧
          c.g[7]? = some (BitVec.ofNat 64 l.lap) ∧ c.g[8]? = some 0) ∧
        (∀ tile cl src lap at_ pk, e.work = .spawn tile cl src lap at_ pk → k.index = none ∧ k.lap = lap ∧
          c.pc = BitVec.ofNat 64 (packetEntry pk) ∧ (∀ n, n < 4 → c.g[n + 1]? = some (packetArg pk n)) ∧
          c.g[5]? = some (BitVec.ofNat 64 src) ∧ c.g[6]? = some 0 ∧ c.g[7]? = some (BitVec.ofNat 64 lap) ∧ c.g[8]? = some 0))) ∧
  (∀ (s : State) (g : Nat), nextStart s g = none → Idles s (.dispatch g)) ∧
  (∀ (s : State) (id : Nat) (l : Launch), tabFind s.launches id = some l →
    let ended := lapsOver l = true ∧ l.left = 0 ∧ launchBusy s id l = false
    let at_ := recordAt s l.queue l.pos
    (¬ ended → Idles s (.launchCompletion id)) ∧
    (ended → laidOut s at_ = false → exec (.launchCompletion id) s = .fault (.noStorage at_)) ∧
    (ended → laidOut s at_ = true → ∃ t, Happens s (.launchCompletion id) t ∧ tabFind t.launches id = none ∧
      t.mem = (paWrite s at_ (recordBytes l.refuse l.cause (if l.outcome ≠ 0 then l.outcome else if l.refuse ≠ 0 then 2 else 1)
        l.retired l.pos (devTime s) l.gen)).mem)) ∧
  (∀ (s : State) (g : Nat),
    let late := (tier3Ready s g).filter (fun e => waitedOut s e.2)
    (late = [] → Idles s (.tier3Promotion g)) ∧
    (∀ e o, oldestEntry late = some e →
      let ready := s.heap.filter (fun y => y.2.queue == e.2.queue && y.2.tier == 3 && !y.2.promoted && mayStart s y.2)
      oldestEntry ready = some o →
      let mine := ready.filter (fun y => packetOf y == packetOf o)
      ∃ t, Happens s (.tier3Promotion g) t ∧
        t.heap = s.heap.map (fun y => if mine.any (·.1 == y.1) then (y.1, { y.2 with promoted := true }) else y) ∧
        ∀ k, (∃ y ∈ mine, k ∈ entryTiles y.2) → (∃ x, (getTile s k).task = some x ∧ x.tier < 3) →
          ∃ p, (getTile t k).preempt = some p ∧ p.effect = true))

/-- Each event from outside a program has the effect the spec gives it where its conditions hold, and else changes nothing: the host writes QTBASE and counters, reads the capability list, reads and writes HBM4E and makes atomics; virtual functions stop and go on; periods and windows begin; arrivals and flits are taken, ports and links fail and retrain; errors poison what they strike or reset a Signal box and its partitions; POWER_GOOD gives the state after reset on the part as it comes up; Nguka checks a core program, allocates its segments and starts it, or reports why not. The model's choices, and no rules: the places of the counters in BAR0, and that a write sets one (log entry 66); that an ill QTBASE or another offset changes nothing (log entry 47); that a host atomic in a race waits for the ATG that it meets (log entry 18); what a request for a core program finds and reports (log entry 31); what flits of other devices do, and that a command keeps the flits that it has in flight (log entry 30). (R245, R249, R268, R291, R293, R303, R320, R321, R327, R328, R334, R363.) -/
def Obligations.OutsideEvents : Prop :=
  (∀ (s : State) (off : Nat) (v : Word),
    let ev := fun (t : State) => Happens s (.bar0Write off v) t
    let table := v.toNat < 2 ^ 39 ∧ v.toNat % 2 ^ 16 = 0
    (s.boot ≠ .up → ev s) ∧ (s.boot = .up → off = 0x100 → table → ev { s with qtbase := v.toNat }) ∧
    (off = 0x100 → ¬ table → ev s) ∧
    (∀ k, k < 64 → off = 0x2000 + 8 * k → s.boot = .up →
      (tilePresent s (4 * k) = true → ev { s with atomrace := tabSet 0 s.atomrace k v }) ∧
      (tilePresent s (4 * k) = false → ev s)) ∧
    (off ≠ 0x100 → off < 0x2000 → ev s)) ∧
  (∀ (s : State) (off n id len : Nat) (next : Nat), next < 2 ^ 16 → len < 2 ^ 16 → id < 2 ^ 16 →
    (s.boot = .recovery ∨ s.boot = .waitHost → (readBar0 s off n).hostData = List.replicate (8 * n) 0xFF) ∧
    (capHeader next len id).extractLsb' 48 16 = BitVec.ofNat 16 next ∧ (capHeader next len id).extractLsb' 32 16 = BitVec.ofNat 16 len ∧
    (capHeader next len id).extractLsb' 16 16 = 1 ∧ (capHeader next len id).extractLsb' 0 16 = BitVec.ofNat 16 id ∧
    (capRecords s).map (·.1) = [1, 2, 3, 4, 5, 6, 7] ∧
    (∀ r body x xs, capFrom r ((id, body) :: x :: xs) =
      capHeader (r + 8 * (body.length + 1)) (8 * (body.length + 1)) id :: body ++ capFrom (r + 8 * (body.length + 1)) (x :: xs)) ∧
    (∀ r body, capFrom r [(id, body)] = capHeader 0 (8 * (body.length + 1)) id :: body)) ∧
  (∀ (s : State) (pa n : Nat) (bs : List Byte),
    let reach := fun (n : Nat) => s.boot = .up ∧ pa + n ≤ 2 ^ 39 ∧ (n = 0 ∨ (laidOut s pa = true ∧ laidOut s (pa + n - 1) = true))
    (reach n → Happens s (.hostCxlMemRead pa n) { s with hostData := paBytes s pa n }) ∧
    (¬ reach n → Idles s (.hostCxlMemRead pa n)) ∧
    (reach bs.length → Happens s (.hostCxlMemWrite pa bs) (paWrite s pa bs)) ∧
    (¬ reach bs.length → Idles s (.hostCxlMemWrite pa bs))) ∧
  (∀ (s : State) (pa : Nat) (op : BitVec 5) (sz : BitVec 2) (a b : Word) (race : Bool),
    let n := 2 ^ sz.toNat
    let x := a.toNat % 2 ^ (8 * n)
    let y := b.toNat % 2 ^ (8 * n)
    let ok := s.boot = .up ∧ (isHbm pa = true ∨ isHostPa pa = true) ∧ laidOut s pa = true ∧ pa % n = 0
    let ev := Instr.hostAtomic pa op sz a b race
    (¬ ok → Idles s ev) ∧
    (ok → race = true → s.hostRace = none → Happens s ev { s with hostRace := some ⟨pa, n, op.toNat, x, y⟩ }) ∧
    (ok → ¬ (race = true ∧ s.hostRace = none) →
      Happens s ev (paWrite s pa (leBytes n (atomicValue op.toNat n (leNat (paBytes s pa n)) x y).1)))) ∧
  (∀ (s : State),
    let vf := vfCtxs s
    (s.vfEnable = false → Idles s .vfDisable) ∧ (s.vfEnable = true → Idles s .vfEnable) ∧
    (s.vfEnable = true → ∃ t, Happens s .vfDisable t ∧ t.vfEnable = false ∧
      (∀ c ∈ vf, ∀ k ∈ tilesOfCtx s c, (getTile t k).preempt.any (·.effect) = true) ∧
      ((∀ e ∈ s.cmds, tabFind s.cmds e.1 = some e.2) →
        ∀ id x, tabFind s.cmds id = some x → tabFind t.cmds id = some (if vf.contains x.ctx then x.hold else x))) ∧
    (s.vfEnable = false → ∃ t, Happens s .vfEnable t ∧ { t with cmds := s.cmds } = { s with vfEnable := true } ∧
      ∀ id x, tabFind s.cmds id = some x → tabFind t.cmds id =
        some (if vf.contains x.ctx && (x.box || cmdTaskRuns s x) then { x with held := false } else x)) ∧
    (s.periodStart + 1048576 ≤ s.cycle → Happens s .periodStart { s with
      periodStart := s.cycle / 1048576 * 1048576, parts := s.parts.map (fun e => (e.1, { e.2 with used := 0 })) }) ∧
    (s.cycle < s.periodStart + 1048576 → Idles s .periodStart) ∧
    (s.shareStart + 2100000 ≤ s.cycle →
      Happens s .shareWindow { s with shareStart := s.cycle / 2100000 * 2100000, shareUsed := [] }) ∧
    (s.cycle < s.shareStart + 2100000 → Idles s .shareWindow)) ∧
  (∀ (s : State) (q dev gen inst : Nat),
    let a := (dev, gen, inst)
    let add := modHwq s q (fun x => { x with arrivals := if a ∈ x.arrivals then x.arrivals else x.arrivals ++ [a] })
    let early := inst = 0 ∧ (getHwq s q).lastGen < gen ∧ s.launches.any (fun e => e.2.queue == q && e.2.gen == gen) = false
    let ev := Instr.fabricArrival q dev gen inst
    (∀ id l, gathering s q gen inst = some (id, l) →
      (fabricIn add l = false ∨ l.state ≠ .running → Happens s ev add) ∧
      (fabricIn add l = true → l.state = .running → l.fabInst = 0 → Happens s ev (fabricNext add id l)) ∧
      (fabricIn add l = true → l.state = .running → l.fabInst ≠ 0 → fabricWaiting add id l = true →
        Happens s ev (fabricNext (releaseBarrier add id l 5 0) id l))) ∧
    (gathering s q gen inst = none → (early → Happens s ev add) ∧ (¬ early → Happens s ev { s with stale := s.stale + 1 }))) ∧
  (∀ (s : State) (p : Nat) (f : Flit),
    let here := p ∉ s.fabDown ∧ f.crcOk = true
    let ev := fun (t : State) => Happens s (.flitReceive p f) t
    (¬ here → ev s) ∧ (here → f.dest ≠ s.device → ev { s with misroute := s.misroute + 1 }) ∧
    (here → f.dest = s.device →
      (∀ n bs, f.body = .data n bs → ev (modCmd s n (fun c => { c with inbox := c.inbox ++ bs, flights := [] }))) ∧
      (∀ n q, f.body = .ack n q → ev (modCmd s n (fun c => if c.flights.any (fun x => x.1 == q) then
        { c with acks := c.acks + 1, flights := c.flights.filter (fun x => x.1 != q) } else c))) ∧
      (∀ n k c, f.body = .failed n k → tabFind s.cmds n = some c → (c.flights ≠ [] → ev (failCmd s n k)) ∧ (c.flights = [] → ev s)) ∧
      (∀ ctx va n, f.body = .read ctx va n → ev s) ∧
      (∀ ctx va bs, f.body = .write ctx va bs → ev (remoteWrite s ctx va bs)) ∧
      (∀ tag i r op rm root fm n o bs, f.body = .collective tag i r op rm root fm n o bs →
        ev (addPart s ⟨f.gen, tag.toNat, i, r, op, rm, root, fm, n, [], 0⟩ o bs)))) ∧
  (∀ (s : State) (p : Nat),
    let u := if p ∈ s.fabDown then s else { s with fabDown := p :: s.fabDown }
    ((∀ e ∈ s.cmds, ∀ x ∈ e.2.flights, x.2 ≠ p) → Happens s (.fabricPortDown p) u) ∧
    (∀ id c, s.cmds.filter (fun e => e.2.flights.any (fun x => x.2 == p)) = [(id, c)] → Happens s (.fabricPortDown p) (failCmd u id 41)) ∧
    (let x := tabGet Port.full s.ports p
     let put := fun (y : Port) => { s with ports := tabPut s.ports p y }
     (p < 4 → x.up = true → Happens s (.linkerr p) (put { x with up := false, failed := true })) ∧
     (p < 4 → x.up = false → Happens s (.linkerr p) (put x)) ∧
     (p < 4 → Happens s (.linkRetrain p) (put { x with up := true, failed := false })) ∧
     (4 ≤ p → Idles s (.linkerr p) ∧ Idles s (.linkRetrain p)))) ∧
  (∀ (s : State),
    let u := { s with eccUncorrected := s.eccUncorrected + 1 }
    let once := fun (l : List Nat) (n : Nat) => if n ∈ l then l else n :: l
    (∀ pa, Happens s (.eccunc (.mem pa)) (if laidOut s pa then { u with poison := once s.poison (pa / 64) } else u)) ∧
    (∀ ctx name t k, Happens s (.eccunc (.seg ctx name t k)) (modCopy u ctx name t (fun c => { c with poison := once c.poison k }))) ∧
    (∀ ctx name t r x a, tabFind s.ctxs ctx = some x → tabFind x.accs (8 * t + name % 8) = some a →
      Happens s (.eccunc (.acc ctx name t r)) (modCtx u ctx (fun y =>
        { y with accs := tabPut y.accs (8 * t + name % 8) { a with bad := once a.bad r } }))) ∧
    (∀ t k, Happens s (.eccunc (.mfile t k)) (modTile u t (fun x => { x with mBad := once x.mBad k }))) ∧
    (∀ t q k, q < 8 → ∃ v, Happens s (.eccunc (.opq t q k)) v ∧ ∀ i, i < 8 →
      opQueue (getTile v t) i = if i = q then markLine k (opQueue (getTile s t) i) else opQueue (getTile s t) i) ∧
    (∀ t q k, q < 4 → ∃ v, Happens s (.eccunc (.drq t q k)) v ∧ ∀ i, i < 4 →
      drQueue (getTile v t) i = if i = q then markLine k (drQueue (getTile s t) i) else drQueue (getTile s t) i) ∧
    Happens s .correctedError { s with eccCorrected := s.eccCorrected + 1 } ∧
    Happens s .thermalShutdown { s with boot := .stopped } ∧
    (∀ b, Happens s (.idleClockInsertion b) { s with idleClocks := b }) ∧
    (s.boot = .up → ∃ bs, Happens s .getMeasurements { s with hostData := bs } ∧ bs.length = 384) ∧
    (s.boot ≠ .up → Idles s .getMeasurements) ∧
    (s.boot = .waitHost → Happens s (.hostLinkRetry true) { s with boot := .up }) ∧
    (s.boot ≠ .waitHost → Idles s (.hostLinkRetry true)) ∧ Idles s (.hostLinkRetry false) ∧
    (∀ p : PowerUp, ∃ t, Happens s (.powerGood p) t ∧
      t.boot = (if p.firmware then (if p.host then .up else .waitHost) else .recovery) ∧ t.clusters = p.clusters ∧
      t.stackMask = p.stackMask ∧ t.device = p.device ∧ t.tiles = [] ∧ t.ctxs = [] ∧ t.parts = [] ∧ t.cmds = [] ∧
      t.mem = [] ∧ t.cycle = 0 ∧ t.vfEnable = State.reset.vfEnable ∧
      (∀ k, k < 4 → (tabGet Port.full t.ports k).up = p.ports.getLsbD k) ∧
      ∀ k, k < 16 → (k ∈ t.fabDown ↔ p.fabric.getLsbD k = false))) ∧
  (∀ (s : State) (g : Nat), g < 8 →
    let checked := fun (ev : Instr) (n : Nat) => ∃ t, Happens s ev t ∧ t.mcLog = s.mcLog ++ [(n, g)] ∧
      tabFind t.boxProgs g = none ∧ tabFind t.boxes g = none ∧
      ∀ p ∈ groupParts s g, ∀ c ∈ partCtxs s p, (∀ k x, (getTile t k).task = some x → x.ctx ≠ c) ∧ ∀ e ∈ t.cmds, e.2.ctx ≠ c
    let stuck := 16777216 ≤ tabGet 0 s.boxIdle g
    checked (.machinecheck g) 47 ∧
    (∀ x, tabFind s.boxProgs g = some x →
      (stuck → checked (.watchdog g) 42) ∧ (¬ stuck → Idles s (.watchdog g))) ∧
    (∀ n x, tabFind s.boxProgs g = some x → (s.boxProgs.map (·.1)).Nodup →
      tabGet 0 (idleOn s n) g = if s.heap.any (fun e => e.2.group == g) then tabGet 0 s.boxIdle g + n else 0) ∧
    (tabFind s.boxProgs g = none → Idles s (.watchdog g))) ∧
  (∀ (s : State) (g : Nat) (p : CoreStart), g < 8 → s.boot = .up → tabFind s.boxProgs g = none →
    let ev := fun (t : State) => Happens s (.coreProgramStart g p) t
    let v := modCtx s p.ctx (fun x => { x with bases := if x.bases.contains p.base then x.bases else x.bases ++ [p.base] })
    let mine := p.tile / 32 = g ∧ partHasTile v (ctxPart v p.ctx) p.tile = true
    let told := fun (t : State) (n : Nat) => { t with reports := t.reports ++ [(g, n)] }
    (tabFind s.boxLoads g = none → tabFind s.ctxs p.ctx ≠ none →
      (¬ mine → ev (told v 5)) ∧ (mine → readProg v p.ctx p.base = none → ev (told v 2)) ∧
      (∀ e y, mine → readProg v p.ctx p.base = some (e, y) →
        (∀ n w, ngukaCheck v p.ctx (some p.base) [p.tile] p.tile = .refused n w → ev (told w n)) ∧
        (∀ z w, ngukaCheck v p.ctx (some p.base) [p.tile] p.tile = .ok z w →
          ev { w with boxLoads := tabPut w.boxLoads g ⟨p, z.waitdef, e, ⟨z.base, p.tile, z.segs, [], none⟩⟩ }))) ∧
    (∀ b, tabFind s.boxLoads g = some b →
      let turn := loadTurn s (.boxLoader g) b.prog.ctx b.load
      (∀ w ld, turn = .goesOn w ld → ev { w with boxLoads := tabPut w.boxLoads g { b with load := ld } }) ∧
      (∀ n w, turn = .refused n w → ev (told { w with boxLoads := tabDel w.boxLoads g } n)) ∧
      (∀ w, turn = .done w → ∃ t, ev t ∧ tabFind t.boxProgs g = some { ctx := b.prog.ctx, tile := b.prog.tile, serial := w.nextTask } ∧
        t.nextTask = w.nextTask + 1 ∧
        tabFind t.boxLoads g = none ∧
        let c := getStrand t (.sbox g)
        c.run = .running ∧ c.mode = .supervisor ∧ c.pc = BitVec.ofNat 64 b.entry ∧ c.waitdef = b.waitdef ∧
        (∀ n, 1 ≤ n → n ≤ 8 → c.getG (BitVec.ofNat 6 n) = b.prog.args.getD (n - 1) 0) ∧
        ∀ n, 9 ≤ n → n < 32 → c.getG (BitVec.ofNat 6 n) = 0)))

/-- The machine refuses nothing: every word of a program and every event of the device has its effect, takes its trap or changes nothing. The only fault is that of log entry 46: the packet at HEAD of a queue, or the completion record of a packet or of a launch, has an address, by the descriptor as it stands when the event sees it, that has no storage. (R19, R36, R41, R240, R326, log entry 46.) -/
def Obligations.NeverRefused : Prop :=
  ∀ s : State, (∀ r, step s ≠ .refused r) ∧
    (∀ f, step s = .fault f → ∃ pa q n, f = .noStorage pa ∧
      let turn := (nextTurn s).1
      let w := if turn.clocks = 0 then (nextTurn s).2 else tick (nextTurn s).2 turn.clocks
      ((n = (getHwq w q).head ∧ pa = (queueWord w q 0).toNat + 64 * (n % queueSlots w q)) ∨
        ((n = (getHwq w q).head ∨ ∃ e ∈ w.launches, e.2.queue = q ∧ e.2.pos = n) ∧ pa = recordAt w q n)) ∧
      laidOut w pa = false)

/-- From every state in which device memory is in canonical form, with rising addresses and no byte listed that an unlisted address reads as, a step leads to a state in which it is, so that equal memories stay equal data. What an unlisted address reads as is the choice of log entry 3. (R237, R245, R320, log entry 3.) -/
def Obligations.StepKeepsMemoryCanonical : Prop :=
  ∀ s t : State, s.mem.wf = true → step s = .next t → t.mem.wf = true
end

