-- ==== Sys2Proof/Laws/PerInstr.lean ====
section
/-! SUPPORT. Per instruction: the opcode map leads from its opcode back to the form it has (R36). -/

set_option Elab.async false

namespace Sys2Proof.Laws

open Sys2Proof.Machine

/-- The instruction that a slot makes of fields in its format. -/
def slotMake : Slotting → Form → Option Instr
  | .r mk, .r f => some (mk f)
  | .i mk, .i f => some (mk f)
  | .b mk, .b f => some (mk f)
  | .m mk, .m f => some (mk f)
  | .g mk, .g f => some (mk f)
  | .l mk, .l f => some (mk f)
  | .q mk, .q f => some (mk f)
  | .x mk, .x f => some (mk f)
  | .p mk, .p f => some (mk f)
  | .s mk, .s f => some (mk f)
  | .d mk, .d f => some (mk f)
  | _, _ => none

namespace Encoding

/-- The slot of the instruction's opcode makes this instruction of its fields. -/
def Statement (i : Instr) : Prop :=
  ∀ op f, formOf i = some (op, f) → fieldsOk i = true →
    ∃ sl, slotOf op.toNat = some sl ∧ slotMake sl f = some i

theorem of_none {i : Instr} (h : formOf i = none) : Statement i := fun op f h1 _ => by rw [h] at h1; cases h1

theorem of_slot {i : Instr} {op : BitVec 8} {f : Form} (sl : Slotting) (h : formOf i = some (op, f))
    (h1 : slotOf op.toNat = some sl) (h2 : fieldsOk i = true → slotMake sl f = some i) : Statement i := fun op' f' h3 h4 => by
  rw [h] at h3; cases h3; exact ⟨sl, h1, h2 h4⟩

theorem zeroword : Statement (.zeroword) := of_none rfl
theorem illop (w : BitVec 64) : Statement (.illop w) := of_none rfl
theorem nop (f : FR) : Statement (.nop f) := of_slot (.r Instr.nop) rfl rfl (fun _ => rfl)
theorem br (f : FB) : Statement (.br f) := of_slot (.b Instr.br) rfl rfl (fun _ => rfl)
theorem bcc (f : FB) : Statement (.bcc f) := of_slot (.b Instr.bcc) rfl rfl (fun _ => rfl)
theorem bcall (f : FB) : Statement (.bcall f) := of_slot (.b Instr.bcall) rfl rfl (fun _ => rfl)
theorem jr (f : FR) : Statement (.jr f) := of_slot (.r Instr.jr) rfl rfl (fun _ => rfl)
theorem jrl (f : FR) : Statement (.jrl f) := of_slot (.r Instr.jrl) rfl rfl (fun _ => rfl)
theorem loop (f : FB) : Statement (.loop f) := of_slot (.b Instr.loop) rfl rfl (fun _ => rfl)
theorem rep (f : FP) : Statement (.rep f) := of_slot (.p Instr.rep) rfl rfl (fun _ => rfl)
theorem fork (f : FS) : Statement (.fork f) := of_slot (.s Instr.fork) rfl rfl (fun _ => rfl)
theorem rdv (f : FQ) : Statement (.rdv f) := of_slot (.q Instr.rdv) rfl rfl (fun _ => rfl)
theorem rdvJoin (tile : Nat) : Statement (.rdvJoin tile) := of_none rfl
theorem endTask (f : FR) : Statement (.endTask f) := of_slot (.r Instr.endTask) rfl rfl (fun _ => rfl)
theorem taskRetire (tile : Nat) : Statement (.taskRetire tile) := of_none rfl
theorem yield (f : FR) : Statement (.yield f) := of_slot (.r Instr.yield) rfl rfl (fun _ => rfl)
theorem pauseEnd (core : CoreId) : Statement (.pauseEnd core) := of_none rfl
theorem tkgive (f : FQ) : Statement (.tkgive f) := of_slot (.q Instr.tkgive) rfl rfl (fun _ => rfl)
theorem tktake (f : FQ) : Statement (.tktake f) := of_slot (.q Instr.tktake) rfl rfl (fun _ => rfl)
theorem tkcnt (f : FQ) : Statement (.tkcnt f) := of_slot (.q Instr.tkcnt) rfl rfl (fun _ => rfl)
theorem couplingTake (core : CoreId) : Statement (.couplingTake core) := of_none rfl
theorem stall (core : CoreId) : Statement (.stall core) := of_none rfl
theorem add (f : FR) : Statement (.add f) := of_slot (.r Instr.add) rfl rfl (fun _ => rfl)
theorem sub (f : FR) : Statement (.sub f) := of_slot (.r Instr.sub) rfl rfl (fun _ => rfl)
theorem mul (f : FR) : Statement (.mul f) := of_slot (.r Instr.mul) rfl rfl (fun _ => rfl)
theorem mulh (f : FR) : Statement (.mulh f) := of_slot (.r Instr.mulh) rfl rfl (fun _ => rfl)
theorem div (f : FR) : Statement (.div f) := of_slot (.r Instr.div) rfl rfl (fun _ => rfl)
theorem rem (f : FR) : Statement (.rem f) := of_slot (.r Instr.rem) rfl rfl (fun _ => rfl)
theorem and (f : FR) : Statement (.and f) := of_slot (.r Instr.and) rfl rfl (fun _ => rfl)
theorem or (f : FR) : Statement (.or f) := of_slot (.r Instr.or) rfl rfl (fun _ => rfl)
theorem xor (f : FR) : Statement (.xor f) := of_slot (.r Instr.xor) rfl rfl (fun _ => rfl)
theorem shl (f : FR) : Statement (.shl f) := of_slot (.r Instr.shl) rfl rfl (fun _ => rfl)
theorem shr (f : FR) : Statement (.shr f) := of_slot (.r Instr.shr) rfl rfl (fun _ => rfl)
theorem sar (f : FR) : Statement (.sar f) := of_slot (.r Instr.sar) rfl rfl (fun _ => rfl)
theorem min (f : FR) : Statement (.min f) := of_slot (.r Instr.min) rfl rfl (fun _ => rfl)
theorem max (f : FR) : Statement (.max f) := of_slot (.r Instr.max) rfl rfl (fun _ => rfl)
theorem setcc (f : FR) : Statement (.setcc f) := of_slot (.r Instr.setcc) rfl rfl (fun _ => rfl)
theorem sel (f : FR) : Statement (.sel f) := of_slot (.r Instr.sel) rfl rfl (fun _ => rfl)
theorem addi (f : FI) : Statement (.addi f) := of_slot (.i Instr.addi) rfl rfl (fun _ => rfl)
theorem andi (f : FI) : Statement (.andi f) := of_slot (.i Instr.andi) rfl rfl (fun _ => rfl)
theorem ori (f : FI) : Statement (.ori f) := of_slot (.i Instr.ori) rfl rfl (fun _ => rfl)
theorem xori (f : FI) : Statement (.xori f) := of_slot (.i Instr.xori) rfl rfl (fun _ => rfl)
theorem shli (f : FI) : Statement (.shli f) := of_slot (.i Instr.shli) rfl rfl (fun _ => rfl)
theorem shri (f : FI) : Statement (.shri f) := of_slot (.i Instr.shri) rfl rfl (fun _ => rfl)
theorem sari (f : FI) : Statement (.sari f) := of_slot (.i Instr.sari) rfl rfl (fun _ => rfl)
theorem setcci (f : FI) : Statement (.setcci f) := of_slot (.i Instr.setcci) rfl rfl (fun _ => rfl)
theorem limm (f : FI) : Statement (.limm f) := of_slot (.i Instr.limm) rfl rfl (fun _ => rfl)
theorem limmh (f : FI) : Statement (.limmh f) := of_slot (.i Instr.limmh) rfl rfl (fun _ => rfl)
theorem clz (f : FR) : Statement (.clz f) := of_slot (.r Instr.clz) rfl rfl (fun _ => rfl)
theorem popc (f : FR) : Statement (.popc f) := of_slot (.r Instr.popc) rfl rfl (fun _ => rfl)
theorem amake (f : FI) : Statement (.amake f) := of_slot (.i Instr.amake) rfl rfl (fun _ => rfl)
theorem aoff (f : FR) : Statement (.aoff f) := of_slot (.r Instr.aoff) rfl rfl (fun _ => rfl)
theorem aoffi (f : FI) : Statement (.aoffi f) := of_slot (.i Instr.aoffi) rfl rfl (fun _ => rfl)
theorem agets (f : FR) : Statement (.agets f) := of_slot (.r Instr.agets) rfl rfl (fun _ => rfl)
theorem ageto (f : FR) : Statement (.ageto f) := of_slot (.r Instr.ageto) rfl rfl (fun _ => rfl)
theorem csrr (f : FI) : Statement (.csrr f) := of_slot (.i Instr.csrr) rfl rfl (fun _ => rfl)
theorem csrw (f : FI) : Statement (.csrw f) := of_slot (.i Instr.csrw) rfl rfl (fun _ => rfl)
theorem csrset (f : FI) : Statement (.csrset f) := of_slot (.i Instr.csrset) rfl rfl (fun _ => rfl)
theorem csrclr (f : FI) : Statement (.csrclr f) := of_slot (.i Instr.csrclr) rfl rfl (fun _ => rfl)
theorem ld (f : FM) : Statement (.ld f) := of_slot (.m Instr.ld) rfl rfl (fun _ => rfl)
theorem st (f : FM) : Statement (.st f) := of_slot (.m Instr.st) rfl rfl (fun _ => rfl)
theorem ldl (f : FQ) : Statement (.ldl f) := of_slot (.q Instr.ldl) rfl rfl (fun _ => rfl)
theorem stl (f : FQ) : Statement (.stl f) := of_slot (.q Instr.stl) rfl rfl (fun _ => rfl)
theorem scopy (f : FR) : Statement (.scopy f) := of_slot (.r Instr.scopy) rfl rfl (fun _ => rfl)
theorem szero (f : FR) : Statement (.szero f) := of_slot (.r Instr.szero) rfl rfl (fun _ => rfl)
theorem salloc (f : FR) : Statement (.salloc f) := of_slot (.r Instr.salloc) rfl rfl (fun _ => rfl)
theorem sfree (f : FR) : Statement (.sfree f) := of_slot (.r Instr.sfree) rfl rfl (fun _ => rfl)
theorem sgrow (f : FR) : Statement (.sgrow f) := of_slot (.r Instr.sgrow) rfl rfl (fun _ => rfl)
theorem sattr (f : FR) : Statement (.sattr f) := of_slot (.r Instr.sattr) rfl rfl (fun _ => rfl)
theorem squery (f : FR) : Statement (.squery f) := of_slot (.r Instr.squery) rfl rfl (fun _ => rfl)
theorem srecall (f : FR) : Statement (.srecall f) := of_slot (.r Instr.srecall) rfl rfl (fun _ => rfl)
theorem spush (f : FR) : Statement (.spush f) := of_slot (.r Instr.spush) rfl rfl (fun _ => rfl)
theorem segmentWaitEnd (core : CoreId) : Statement (.segmentWaitEnd core) := of_none rfl
theorem grant (tile : Nat) : Statement (.grant tile) := of_none rfl
theorem push (tile : Nat) (ctx : Nat) (seg : Nat) : Statement (.push tile ctx seg) := of_none rfl
theorem recallMove (tile : Nat) (ctx : Nat) (seg : Nat) : Statement (.recallMove tile ctx seg) := of_none rfl
theorem shunterMove (tile : Nat) (ctx : Nat) (seg : Nat) : Statement (.shunterMove tile ctx seg) := of_none rfl
theorem qrd (f : FQ) : Statement (.qrd f) := of_slot (.q Instr.qrd) rfl rfl (fun _ => rfl)
theorem qrdLineIssue (tile : Nat) : Statement (.qrdLineIssue tile) := of_none rfl
theorem qrdLineFill (tile : Nat) (q : Nat) : Statement (.qrdLineFill tile q) := of_none rfl
theorem qwr (f : FQ) : Statement (.qwr f) := of_slot (.q Instr.qwr) rfl rfl (fun _ => rfl)
theorem qwrLineWrite (tile : Nat) : Statement (.qwrLineWrite tile) := of_none rfl
theorem qcnt (f : FQ) : Statement (.qcnt f) := of_slot (.q Instr.qcnt) rfl rfl (fun _ => rfl)
theorem lineOperandsReady (tile : Nat) : Statement (.lineOperandsReady tile) := of_none rfl
theorem movl (f : FL) : Statement (.movl f) := of_slot (.l Instr.movl) rfl rfl (fun _ => rfl)
theorem bcast (f : FL) : Statement (.bcast f) := of_slot (.l Instr.bcast) rfl rfl (fun _ => rfl)
theorem extr (f : FL) : Statement (.extr f) := of_slot (.l Instr.extr) rfl rfl (fun _ => rfl)
theorem ins (f : FL) : Statement (.ins f) := of_slot (.l Instr.ins) rfl rfl (fun _ => rfl)
theorem limml (f : FL) : Statement (.limml f) := of_slot (.l Instr.limml) rfl rfl (fun _ => rfl)
theorem fadd (f : FL) : Statement (.fadd f) := of_slot (.l Instr.fadd) rfl rfl (fun _ => rfl)
theorem fsub (f : FL) : Statement (.fsub f) := of_slot (.l Instr.fsub) rfl rfl (fun _ => rfl)
theorem fmul (f : FL) : Statement (.fmul f) := of_slot (.l Instr.fmul) rfl rfl (fun _ => rfl)
theorem fma (f : FL) : Statement (.fma f) := of_slot (.l Instr.fma) rfl rfl (fun _ => rfl)
theorem fmax (f : FL) : Statement (.fmax f) := of_slot (.l Instr.fmax) rfl rfl (fun _ => rfl)
theorem fmin (f : FL) : Statement (.fmin f) := of_slot (.l Instr.fmin) rfl rfl (fun _ => rfl)
theorem fabs (f : FL) : Statement (.fabs f) := of_slot (.l Instr.fabs) rfl rfl (fun _ => rfl)
theorem fneg (f : FL) : Statement (.fneg f) := of_slot (.l Instr.fneg) rfl rfl (fun _ => rfl)
theorem fexp2 (f : FL) : Statement (.fexp2 f) := of_slot (.l Instr.fexp2) rfl rfl (fun _ => rfl)
theorem flog2 (f : FL) : Statement (.flog2 f) := of_slot (.l Instr.flog2) rfl rfl (fun _ => rfl)
theorem frcp (f : FL) : Statement (.frcp f) := of_slot (.l Instr.frcp) rfl rfl (fun _ => rfl)
theorem frsq (f : FL) : Statement (.frsq f) := of_slot (.l Instr.frsq) rfl rfl (fun _ => rfl)
theorem fcvt (f : FL) : Statement (.fcvt f) := of_slot (.l Instr.fcvt) rfl rfl (fun _ => rfl)
theorem fscale (f : FL) : Statement (.fscale f) := of_slot (.l Instr.fscale) rfl rfl (fun _ => rfl)
theorem iadd (f : FL) : Statement (.iadd f) := of_slot (.l Instr.iadd) rfl rfl (fun _ => rfl)
theorem isub (f : FL) : Statement (.isub f) := of_slot (.l Instr.isub) rfl rfl (fun _ => rfl)
theorem imul (f : FL) : Statement (.imul f) := of_slot (.l Instr.imul) rfl rfl (fun _ => rfl)
theorem imad (f : FL) : Statement (.imad f) := of_slot (.l Instr.imad) rfl rfl (fun _ => rfl)
theorem iand (f : FL) : Statement (.iand f) := of_slot (.l Instr.iand) rfl rfl (fun _ => rfl)
theorem ior (f : FL) : Statement (.ior f) := of_slot (.l Instr.ior) rfl rfl (fun _ => rfl)
theorem ixor (f : FL) : Statement (.ixor f) := of_slot (.l Instr.ixor) rfl rfl (fun _ => rfl)
theorem ishl (f : FL) : Statement (.ishl f) := of_slot (.l Instr.ishl) rfl rfl (fun _ => rfl)
theorem ishr (f : FL) : Statement (.ishr f) := of_slot (.l Instr.ishr) rfl rfl (fun _ => rfl)
theorem imin (f : FL) : Statement (.imin f) := of_slot (.l Instr.imin) rfl rfl (fun _ => rfl)
theorem imax (f : FL) : Statement (.imax f) := of_slot (.l Instr.imax) rfl rfl (fun _ => rfl)
theorem fcmp (f : FL) : Statement (.fcmp f) := of_slot (.l Instr.fcmp) rfl rfl (fun _ => rfl)
theorem icmp (f : FL) : Statement (.icmp f) := of_slot (.l Instr.icmp) rfl rfl (fun _ => rfl)
theorem pset (f : FL) : Statement (.pset f) := of_slot (.l Instr.pset) rfl rfl (fun _ => rfl)
theorem psel (f : FL) : Statement (.psel f) := of_slot (.l Instr.psel) rfl rfl (fun _ => rfl)
theorem redsum (f : FL) : Statement (.redsum f) := of_slot (.l Instr.redsum) rfl rfl (fun _ => rfl)
theorem redmax (f : FL) : Statement (.redmax f) := of_slot (.l Instr.redmax) rfl rfl (fun _ => rfl)
theorem redmin (f : FL) : Statement (.redmin f) := of_slot (.l Instr.redmin) rfl rfl (fun _ => rfl)
theorem scanadd (f : FL) : Statement (.scanadd f) := of_slot (.l Instr.scanadd) rfl rfl (fun _ => rfl)
theorem perm (f : FL) : Statement (.perm f) := of_slot (.l Instr.perm) rfl rfl (fun _ => rfl)
theorem bppack (f : FL) : Statement (.bppack f) := of_slot (.l Instr.bppack) rfl rfl (fun _ => rfl)
theorem bpunp (f : FL) : Statement (.bpunp f) := of_slot (.l Instr.bpunp) rfl rfl (fun _ => rfl)
theorem osminit (f : FL) : Statement (.osminit f) := of_slot (.l Instr.osminit) rfl rfl (fun _ => rfl)
theorem osmx (f : FL) : Statement (.osmx f) := of_slot (.l Instr.osmx) rfl rfl (fun _ => rfl)
theorem mldw (f : FX) : Statement (.mldw f) := of_slot (.x Instr.mldw) rfl rfl (fun _ => rfl)
theorem mswap (f : FX) : Statement (.mswap f) := of_slot (.x Instr.mswap) rfl rfl (fun _ => rfl)
theorem mstream (f : FX) : Statement (.mstream f) := of_slot (.x Instr.mstream) rfl rfl (fun _ => rfl)
theorem mrank1 (f : FX) : Statement (.mrank1 f) := of_slot (.x Instr.mrank1) rfl rfl (fun _ => rfl)
theorem acczero (f : FX) : Statement (.acczero f) := of_slot (.x Instr.acczero) rfl rfl (fun _ => rfl)
theorem accrd (f : FX) : Statement (.accrd f) := of_slot (.x Instr.accrd) rfl rfl (fun _ => rfl)
theorem accwr (f : FX) : Statement (.accwr f) := of_slot (.x Instr.accwr) rfl rfl (fun _ => rfl)
theorem accpin (f : FX) : Statement (.accpin f) := of_slot (.x Instr.accpin) rfl rfl (fun _ => rfl)
theorem accunpin (f : FX) : Statement (.accunpin f) := of_slot (.x Instr.accunpin) rfl rfl (fun _ => rfl)
theorem accspill (f : FX) : Statement (.accspill f) := of_slot (.x selAccspill) rfl rfl (fun h => by
    simp [fieldsOk] at h
    have h1 : (f.flags.extractLsb' 1 1).toNat = 0 := by
      simp only [BitVec.extractLsb'_toNat, Nat.shiftRight_eq_div_pow]
      omega
    simp [slotMake, selAccspill, ← BitVec.toNat_inj, h1])
theorem accspillOther (f : FX) : Statement (.accspillOther f) := of_slot (.x selAccspill) rfl rfl (fun h => by
    simp [fieldsOk] at h
    have h1 : (f.flags.extractLsb' 1 1).toNat = 1 := by
      simp only [BitVec.extractLsb'_toNat, Nat.shiftRight_eq_div_pow]
      rcases h with ⟨_, h | h⟩ <;> simp [h]
    simp [slotMake, selAccspill, ← BitVec.toNat_inj, h1])
theorem accfill (f : FX) : Statement (.accfill f) := of_slot (.x selAccfill) rfl rfl (fun h => by
    simp [fieldsOk] at h
    simp [slotMake, selAccfill, h])
theorem accfillOther (f : FX) : Statement (.accfillOther f) := of_slot (.x selAccfill) rfl rfl (fun h => by
    simp [fieldsOk] at h
    simp [slotMake, selAccfill, h])
theorem accRefill (tile : Nat) : Statement (.accRefill tile) := of_none rfl
theorem gdelta (f : FX) : Statement (.gdelta f) := of_slot (.x Instr.gdelta) rfl rfl (fun _ => rfl)
theorem gdread (f : FX) : Statement (.gdread f) := of_slot (.x Instr.gdread) rfl rfl (fun _ => rfl)
theorem ecmd (f : FQ) : Statement (.ecmd f) := of_slot (.q Instr.ecmd) rfl rfl (fun _ => rfl)
theorem queueSpaceWaitEnd (core : CoreId) : Statement (.queueSpaceWaitEnd core) := of_none rfl
theorem ewait (f : FQ) : Statement (.ewait f) := of_slot (.q Instr.ewait) rfl rfl (fun _ => rfl)
theorem ewaitComplete (core : CoreId) : Statement (.ewaitComplete core) := of_none rfl
theorem epoll (f : FQ) : Statement (.epoll f) := of_slot (.q Instr.epoll) rfl rfl (fun _ => rfl)
theorem elink (f : FQ) : Statement (.elink f) := of_slot (.q Instr.elink) rfl rfl (fun _ => rfl)
theorem ekick (f : FQ) : Statement (.ekick f) := of_slot (.q Instr.ekick) rfl rfl (fun _ => rfl)
theorem eqstat (f : FQ) : Statement (.eqstat f) := of_slot (.q Instr.eqstat) rfl rfl (fun _ => rfl)
theorem spawnSeg (f : FQ) : Statement (.spawnSeg f) := of_slot (.q selSpawn) rfl rfl (fun h => by
    simp [fieldsOk] at h
    simp [slotMake, selSpawn, h])
theorem spawnVa (f : FQ) : Statement (.spawnVa f) := of_slot (.q selSpawn) rfl rfl (fun h => by
    simp [fieldsOk] at h
    simp [slotMake, selSpawn, h])
theorem withdraw (f : FQ) : Statement (.withdraw f) := of_slot (.q Instr.withdraw) rfl rfl (fun _ => rfl)
theorem ttread (f : FR) : Statement (.ttread f) := of_slot (.r Instr.ttread) rfl rfl (fun _ => rfl)
theorem skewack (f : FR) : Statement (.skewack f) := of_slot (.r Instr.skewack) rfl rfl (fun _ => rfl)
theorem ldg (f : FG) : Statement (.ldg f) := of_slot (.g Instr.ldg) rfl rfl (fun _ => rfl)
theorem stg (f : FG) : Statement (.stg f) := of_slot (.g Instr.stg) rfl rfl (fun _ => rfl)
theorem atg (f : FG) : Statement (.atg f) := of_slot (.g Instr.atg) rfl rfl (fun _ => rfl)
theorem relOrderWaitEnd (core : CoreId) : Statement (.relOrderWaitEnd core) := of_none rfl
theorem prefg (f : FG) : Statement (.prefg f) := of_slot (.g Instr.prefg) rfl rfl (fun _ => rfl)
theorem fence (f : FG) : Statement (.fence f) := of_slot (.g Instr.fence) rfl rfl (fun _ => rfl)
theorem fenceComplete (core : CoreId) : Statement (.fenceComplete core) := of_none rfl
theorem parkedFaultAdmit : Statement (.parkedFaultAdmit) := of_none rfl
theorem faultEntryPost (ctx : Nat) : Statement (.faultEntryPost ctx) := of_none rfl
theorem respRetry (ctx : Nat) (seq : Nat) : Statement (.respRetry ctx seq) := of_none rfl
theorem respAbort (ctx : Nat) (seq : Nat) : Statement (.respAbort ctx seq) := of_none rfl
theorem atl (f : FM) : Statement (.atl f) := of_slot (.m Instr.atl) rfl rfl (fun _ => rfl)
theorem sempost (f : FQ) : Statement (.sempost f) := of_slot (.q Instr.sempost) rfl rfl (fun _ => rfl)
theorem semwait (f : FQ) : Statement (.semwait f) := of_slot (.q Instr.semwait) rfl rfl (fun _ => rfl)
theorem semwaitGrant (group : Nat) (sem : Nat) : Statement (.semwaitGrant group sem) := of_none rfl
theorem semtry (f : FQ) : Statement (.semtry f) := of_slot (.q Instr.semtry) rfl rfl (fun _ => rfl)
theorem acqbufP (f : FQ) : Statement (.acqbufP f) := of_slot (.q selAcqbuf) rfl rfl (fun h => by
    simp [fieldsOk] at h
    simp [slotMake, selAcqbuf, h])
theorem acqbufC (f : FQ) : Statement (.acqbufC f) := of_slot (.q selAcqbuf) rfl rfl (fun h => by
    simp [fieldsOk] at h
    simp [slotMake, selAcqbuf, h])
theorem acqbufGrant (core : CoreId) : Statement (.acqbufGrant core) := of_none rfl
theorem relbufP (f : FQ) : Statement (.relbufP f) := of_slot (.q selRelbuf) rfl rfl (fun h => by
    simp [fieldsOk] at h
    simp [slotMake, selRelbuf, h])
theorem relbufC (f : FQ) : Statement (.relbufC f) := of_slot (.q selRelbuf) rfl rfl (fun h => by
    simp [fieldsOk] at h
    simp [slotMake, selRelbuf, h])
theorem relbufSet (f : FQ) : Statement (.relbufSet f) := of_slot (.q selRelbuf) rfl rfl (fun h => by
    simp [fieldsOk] at h
    simp [slotMake, selRelbuf, h])
theorem ringwait (f : FQ) : Statement (.ringwait f) := of_slot (.q Instr.ringwait) rfl rfl (fun _ => rfl)
theorem ringwaitRelease (ctx : Nat) (ctr : Nat) : Statement (.ringwaitRelease ctx ctr) := of_none rfl
theorem ringpost (f : FQ) : Statement (.ringpost f) := of_slot (.q Instr.ringpost) rfl rfl (fun _ => rfl)
theorem bar (f : FQ) : Statement (.bar f) := of_slot (.q Instr.bar) rfl rfl (fun _ => rfl)
theorem barComplete (core : CoreId) : Statement (.barComplete core) := of_none rfl
theorem agset (f : FQ) : Statement (.agset f) := of_slot (.q Instr.agset) rfl rfl (fun _ => rfl)
theorem agget (f : FQ) : Statement (.agget f) := of_slot (.q Instr.agget) rfl rfl (fun _ => rfl)
theorem slres (f : FQ) : Statement (.slres f) := of_slot (.q Instr.slres) rfl rfl (fun _ => rfl)
theorem trap (f : FS) : Statement (.trap f) := of_slot (.s Instr.trap) rfl rfl (fun _ => rfl)
theorem eret (f : FS) : Statement (.eret f) := of_slot (.s Instr.eret) rfl rfl (fun _ => rfl)
theorem heldErrorTake (core : CoreId) : Statement (.heldErrorTake core) := of_none rfl
theorem engineErrorTrap (core : CoreId) : Statement (.engineErrorTrap core) := of_none rfl
theorem wfe (f : FS) : Statement (.wfe f) := of_slot (.s Instr.wfe) rfl rfl (fun _ => rfl)
theorem wfeWake (core : CoreId) : Statement (.wfeWake core) := of_none rfl
theorem tlbinvVa (f : FS) : Statement (.tlbinvVa f) := of_slot (.s selTlbinv) rfl rfl (fun h => by
    simp [fieldsOk, supOk] at h
    simp [slotMake, selTlbinv, h])
theorem tlbinvCtx (f : FS) : Statement (.tlbinvCtx f) := of_slot (.s selTlbinv) rfl rfl (fun h => by
    simp [fieldsOk, supOk] at h
    simp [slotMake, selTlbinv, h])
theorem tlbinvAll (f : FS) : Statement (.tlbinvAll f) := of_slot (.s selTlbinv) rfl rfl (fun h => by
    simp [fieldsOk, supOk] at h
    simp [slotMake, selTlbinv, h])
theorem preemptK (f : FS) : Statement (.preemptK f) := of_slot (.s selPreempt) rfl rfl (fun h => by
    simp [fieldsOk, supOk] at h
    simp [slotMake, selPreempt, ← BitVec.toNat_inj, h])
theorem preemptR (f : FS) : Statement (.preemptR f) := of_slot (.s selPreempt) rfl rfl (fun h => by
    simp [fieldsOk, supOk] at h
    simp [slotMake, selPreempt, ← BitVec.toNat_inj, h])
theorem preemptREffect (tile : Nat) : Statement (.preemptREffect tile) := of_none rfl
theorem preemptRFallback (tile : Nat) : Statement (.preemptRFallback tile) := of_none rfl
theorem taskSave (tile : Nat) : Statement (.taskSave tile) := of_none rfl
theorem taskResume (group : Nat) : Statement (.taskResume group) := of_none rfl
theorem qkill (f : FS) : Statement (.qkill f) := of_slot (.s Instr.qkill) rfl rfl (fun _ => rfl)
theorem preset (f : FS) : Statement (.preset f) := of_slot (.s Instr.preset) rfl rfl (fun _ => rfl)
theorem semmapMap (f : FS) : Statement (.semmapMap f) := of_slot (.s selSemmap) rfl rfl (fun h => by
    simp [fieldsOk, supOk] at h
    simp [slotMake, selSemmap, ← BitVec.toNat_inj, h])
theorem semmapUnmap (f : FS) : Statement (.semmapUnmap f) := of_slot (.s selSemmap) rfl rfl (fun h => by
    simp [fieldsOk, supOk] at h
    simp [slotMake, selSemmap, ← BitVec.toNat_inj, h])
theorem partsetDef (f : FS) : Statement (.partsetDef f) := of_slot (.s selPartset) rfl rfl (fun h => by
    simp [fieldsOk, supOk] at h
    simp [slotMake, selPartset, h])
theorem partsetDel (f : FS) : Statement (.partsetDel f) := of_slot (.s selPartset) rfl rfl (fun h => by
    simp [fieldsOk, supOk] at h
    simp [slotMake, selPartset, h])
theorem partsetVfquota (f : FS) : Statement (.partsetVfquota f) := of_slot (.s selPartset) rfl rfl (fun h => by
    simp [fieldsOk, supOk] at h
    simp [slotMake, selPartset, h])
theorem partsetVfused (f : FS) : Statement (.partsetVfused f) := of_slot (.s selPartset) rfl rfl (fun h => by
    simp [fieldsOk, supOk] at h
    simp [slotMake, selPartset, h])
theorem ctxldLoad (f : FS) : Statement (.ctxldLoad f) := of_slot (.s selCtxld) rfl rfl (fun h => by
    simp [fieldsOk, supOk] at h
    simp [slotMake, selCtxld, h])
theorem ctxldDestroy (f : FS) : Statement (.ctxldDestroy f) := of_slot (.s selCtxld) rfl rfl (fun h => by
    simp [fieldsOk, supOk] at h
    simp [slotMake, selCtxld, h])
theorem ctxldHold (f : FS) : Statement (.ctxldHold f) := of_slot (.s selCtxld) rfl rfl (fun h => by
    simp [fieldsOk, supOk] at h
    simp [slotMake, selCtxld, h])
theorem ctxldRelease (f : FS) : Statement (.ctxldRelease f) := of_slot (.s selCtxld) rfl rfl (fun h => by
    simp [fieldsOk, supOk] at h
    simp [slotMake, selCtxld, h])
theorem dbgscanOut (f : FS) : Statement (.dbgscanOut f) := of_slot (.s selDbgscan) rfl rfl (fun h => by
    simp [fieldsOk, supOk] at h
    simp [slotMake, selDbgscan, h])
theorem dbgscanIn (f : FS) : Statement (.dbgscanIn f) := of_slot (.s selDbgscan) rfl rfl (fun h => by
    simp [fieldsOk, supOk] at h
    simp [slotMake, selDbgscan, h])
theorem dbgscanRun (f : FS) : Statement (.dbgscanRun f) := of_slot (.s selDbgscan) rfl rfl (fun h => by
    simp [fieldsOk, supOk] at h
    simp [slotMake, selDbgscan, h])
theorem pool (f : FD) : Statement (.pool f) := of_slot (.d Instr.pool) rfl rfl (fun _ => rfl)
theorem fetchBlockFill (core : CoreId) : Statement (.fetchBlockFill core) := of_none rfl
theorem commandDispatch (cmd : Nat) (engine : Nat) : Statement (.commandDispatch cmd engine) := of_none rfl
theorem commandRetire (cmd : Nat) : Statement (.commandRetire cmd) := of_none rfl
theorem withdrawnStop (cmd : Nat) : Statement (.withdrawnStop cmd) := of_none rfl
theorem chainEntryFetch (cmd : Nat) : Statement (.chainEntryFetch cmd) := of_none rfl
theorem copy (cmd : Nat) : Statement (.copy cmd) := of_none rfl
theorem mcast (cmd : Nat) : Statement (.mcast cmd) := of_none rfl
theorem gather (cmd : Nat) : Statement (.gather cmd) := of_none rfl
theorem fill (cmd : Nat) : Statement (.fill cmd) := of_none rfl
theorem fencerec (cmd : Nat) : Statement (.fencerec cmd) := of_none rfl
theorem mattask (cmd : Nat) : Statement (.mattask cmd) := of_none rfl
theorem select (cmd : Nat) : Statement (.select cmd) := of_none rfl
theorem topk (cmd : Nat) : Statement (.topk cmd) := of_none rfl
theorem attnpart (cmd : Nat) : Statement (.attnpart cmd) := of_none rfl
theorem collective (cmd : Nat) : Statement (.collective cmd) := of_none rfl
theorem tailWrite (queue : Nat) : Statement (.tailWrite queue) := of_none rfl
theorem packetRead (queue : Nat) : Statement (.packetRead queue) := of_none rfl
theorem ngukaLaunchCheck (launch : Nat) (base : Option Nat) : Statement (.ngukaLaunchCheck launch base) := of_none rfl
theorem dispatch (group : Nat) : Statement (.dispatch group) := of_none rfl
theorem lapEntry (launch : Nat) : Statement (.lapEntry launch) := of_none rfl
theorem launchCompletion (launch : Nat) : Statement (.launchCompletion launch) := of_none rfl
theorem queueEnable (queue : Nat) : Statement (.queueEnable queue) := of_none rfl
theorem tier3Promotion (group : Nat) : Statement (.tier3Promotion group) := of_none rfl
theorem slotSpill (tile : Nat) : Statement (.slotSpill tile) := of_none rfl
theorem bar0Write (off : Nat) (value : BitVec 64) : Statement (.bar0Write off value) := of_none rfl
theorem hostCxlMemRead (pa : Nat) (len : Nat) : Statement (.hostCxlMemRead pa len) := of_none rfl
theorem hostCxlMemWrite (pa : Nat) (bytes : List (BitVec 8)) : Statement (.hostCxlMemWrite pa bytes) := of_none rfl
theorem hostAtomic (pa : Nat) (aop : BitVec 5) (width : BitVec 2) (a : BitVec 64) (b : BitVec 64) (race : Bool) : Statement (.hostAtomic pa aop width a b race) := of_none rfl
theorem vfDisable : Statement (.vfDisable) := of_none rfl
theorem vfEnable : Statement (.vfEnable) := of_none rfl
theorem periodStart : Statement (.periodStart) := of_none rfl
theorem shareWindow : Statement (.shareWindow) := of_none rfl
theorem fabricArrival (queue : Nat) (device : Nat) (gen : Nat) (inst : Nat) : Statement (.fabricArrival queue device gen inst) := of_none rfl
theorem flitReceive (port : Nat) (flit : Flit) : Statement (.flitReceive port flit) := of_none rfl
theorem fabricPortDown (port : Nat) : Statement (.fabricPortDown port) := of_none rfl
theorem linkerr (port : Nat) : Statement (.linkerr port) := of_none rfl
theorem linkRetrain (port : Nat) : Statement (.linkRetrain port) := of_none rfl
theorem eccunc (site : EccSite) : Statement (.eccunc site) := of_none rfl
theorem machinecheck (group : Nat) : Statement (.machinecheck group) := of_none rfl
theorem watchdog (group : Nat) : Statement (.watchdog group) := of_none rfl
theorem powerGood (part : PowerUp) : Statement (.powerGood part) := of_none rfl
theorem hostLinkRetry (ok : Bool) : Statement (.hostLinkRetry ok) := of_none rfl
theorem thermalShutdown : Statement (.thermalShutdown) := of_none rfl
theorem getMeasurements : Statement (.getMeasurements) := of_none rfl
theorem coreProgramStart (group : Nat) (prog : CoreStart) : Statement (.coreProgramStart group prog) := of_none rfl
theorem correctedError : Statement (.correctedError) := of_none rfl
theorem idleClockInsertion (insert : Bool) : Statement (.idleClockInsertion insert) := of_none rfl

end Encoding

end Sys2Proof.Laws
end

