-- ==== Sys2Proof/Laws/Decode.lean ====
section
/-! SUPPORT. Each format's fields, its opcode and its zero bits are read back from the word they are packed in (R28). -/

set_option Elab.async false

namespace Sys2Proof.Laws

open Sys2Proof.Machine

/-- A word joined from two parts, as a number. -/
theorem append_nat {n m : Nat} (x : BitVec n) (y : BitVec m) : (x ++ y).toNat = x.toNat * 2 ^ m + y.toNat := by
  rw [BitVec.toNat_append, Nat.shiftLeft_eq, ← Nat.mul_comm, ← Nat.two_pow_add_eq_or_of_lt y.isLt]

theorem packFR_nat (op : BitVec 8) (rd : BitVec 6) (ra : BitVec 6) (rb : BitVec 6) (rc : BitVec 6) (fn : BitVec 8) (sync : BitVec 4) :
    (packFR op ⟨rd, ra, rb, rc, fn, sync⟩).toNat = (((((((op.toNat) * 2 ^ 6 + rd.toNat) * 2 ^ 6 + ra.toNat) * 2 ^ 6 + rb.toNat) * 2 ^ 6 + rc.toNat) * 2 ^ 8 + fn.toNat) * 2 ^ 20) * 2 ^ 4 + sync.toNat := by
  simp only [packFR, append_nat, BitVec.ofNat_eq_ofNat, BitVec.toNat_ofNat, Nat.zero_mod, Nat.add_zero]

theorem unpack_packFR (op : BitVec 8) (f : FR) : unpackFR (packFR op f) = f := by
  obtain ⟨rd, ra, rb, rc, fn, sync⟩ := f
  simp only [unpackFR, FR.mk.injEq]
  refine ⟨?_, ?_, ?_, ?_, ?_, ?_⟩ <;>
    (apply BitVec.eq_of_toNat_eq
     simp only [BitVec.extractLsb'_toNat, packFR_nat, Nat.shiftRight_eq_div_pow]
     omega)

theorem op_packFR (op : BitVec 8) (f : FR) : (packFR op f).extractLsb' 56 8 = op := by
  obtain ⟨rd, ra, rb, rc, fn, sync⟩ := f
  apply BitVec.eq_of_toNat_eq
  simp only [BitVec.extractLsb'_toNat, packFR_nat, Nat.shiftRight_eq_div_pow]
  omega

theorem zero_packFR (op : BitVec 8) (f : FR) : (packFR op f).extractLsb' 4 20 = 0 := by
  obtain ⟨rd, ra, rb, rc, fn, sync⟩ := f
  apply BitVec.eq_of_toNat_eq
  simp only [BitVec.extractLsb'_toNat, packFR_nat, Nat.shiftRight_eq_div_pow, BitVec.ofNat_eq_ofNat, BitVec.toNat_ofNat, Nat.zero_mod]
  omega

theorem packFI_nat (op : BitVec 8) (rd : BitVec 6) (ra : BitVec 6) (imm : BitVec 40) (sync : BitVec 4) :
    (packFI op ⟨rd, ra, imm, sync⟩).toNat = ((((op.toNat) * 2 ^ 6 + rd.toNat) * 2 ^ 6 + ra.toNat) * 2 ^ 40 + imm.toNat) * 2 ^ 4 + sync.toNat := by
  simp only [packFI, append_nat]

theorem unpack_packFI (op : BitVec 8) (f : FI) : unpackFI (packFI op f) = f := by
  obtain ⟨rd, ra, imm, sync⟩ := f
  simp only [unpackFI, FI.mk.injEq]
  refine ⟨?_, ?_, ?_, ?_⟩ <;>
    (apply BitVec.eq_of_toNat_eq
     simp only [BitVec.extractLsb'_toNat, packFI_nat, Nat.shiftRight_eq_div_pow]
     omega)

theorem op_packFI (op : BitVec 8) (f : FI) : (packFI op f).extractLsb' 56 8 = op := by
  obtain ⟨rd, ra, imm, sync⟩ := f
  apply BitVec.eq_of_toNat_eq
  simp only [BitVec.extractLsb'_toNat, packFI_nat, Nat.shiftRight_eq_div_pow]
  omega

theorem packFB_nat (op : BitVec 8) (cond : BitVec 4) (ra : BitVec 6) (rb : BitVec 6) (off : BitVec 32) (sync : BitVec 4) :
    (packFB op ⟨cond, ra, rb, off, sync⟩).toNat = ((((((op.toNat) * 2 ^ 4 + cond.toNat) * 2 ^ 6 + ra.toNat) * 2 ^ 6 + rb.toNat) * 2 ^ 4) * 2 ^ 32 + off.toNat) * 2 ^ 4 + sync.toNat := by
  simp only [packFB, append_nat, BitVec.ofNat_eq_ofNat, BitVec.toNat_ofNat, Nat.zero_mod, Nat.add_zero]

theorem unpack_packFB (op : BitVec 8) (f : FB) : unpackFB (packFB op f) = f := by
  obtain ⟨cond, ra, rb, off, sync⟩ := f
  simp only [unpackFB, FB.mk.injEq]
  refine ⟨?_, ?_, ?_, ?_, ?_⟩ <;>
    (apply BitVec.eq_of_toNat_eq
     simp only [BitVec.extractLsb'_toNat, packFB_nat, Nat.shiftRight_eq_div_pow]
     omega)

theorem op_packFB (op : BitVec 8) (f : FB) : (packFB op f).extractLsb' 56 8 = op := by
  obtain ⟨cond, ra, rb, off, sync⟩ := f
  apply BitVec.eq_of_toNat_eq
  simp only [BitVec.extractLsb'_toNat, packFB_nat, Nat.shiftRight_eq_div_pow]
  omega

theorem zero_packFB (op : BitVec 8) (f : FB) : (packFB op f).extractLsb' 36 4 = 0 := by
  obtain ⟨cond, ra, rb, off, sync⟩ := f
  apply BitVec.eq_of_toNat_eq
  simp only [BitVec.extractLsb'_toNat, packFB_nat, Nat.shiftRight_eq_div_pow, BitVec.ofNat_eq_ofNat, BitVec.toNat_ofNat, Nat.zero_mod]
  omega

theorem packFM_nat (op : BitVec 8) (rd : BitVec 6) (ar : BitVec 4) (rx : BitVec 6) (sz : BitVec 2) (sh : BitVec 4) (ord : BitVec 2) (wb : BitVec 10) (disp : BitVec 18) (sync : BitVec 4) :
    (packFM op ⟨rd, ar, rx, sz, sh, ord, wb, disp, sync⟩).toNat = (((((((((op.toNat) * 2 ^ 6 + rd.toNat) * 2 ^ 4 + ar.toNat) * 2 ^ 6 + rx.toNat) * 2 ^ 2 + sz.toNat) * 2 ^ 4 + sh.toNat) * 2 ^ 2 + ord.toNat) * 2 ^ 10 + wb.toNat) * 2 ^ 18 + disp.toNat) * 2 ^ 4 + sync.toNat := by
  simp only [packFM, append_nat]

theorem unpack_packFM (op : BitVec 8) (f : FM) : unpackFM (packFM op f) = f := by
  obtain ⟨rd, ar, rx, sz, sh, ord, wb, disp, sync⟩ := f
  simp only [unpackFM, FM.mk.injEq]
  refine ⟨?_, ?_, ?_, ?_, ?_, ?_, ?_, ?_, ?_⟩ <;>
    (apply BitVec.eq_of_toNat_eq
     simp only [BitVec.extractLsb'_toNat, packFM_nat, Nat.shiftRight_eq_div_pow]
     omega)

theorem op_packFM (op : BitVec 8) (f : FM) : (packFM op f).extractLsb' 56 8 = op := by
  obtain ⟨rd, ar, rx, sz, sh, ord, wb, disp, sync⟩ := f
  apply BitVec.eq_of_toNat_eq
  simp only [BitVec.extractLsb'_toNat, packFM_nat, Nat.shiftRight_eq_div_pow]
  omega

theorem packFG_nat (op : BitVec 8) (rd : BitVec 6) (rb : BitVec 6) (rx : BitVec 6) (sz : BitVec 2) (sh : BitVec 4) (ord : BitVec 2) (scope : BitVec 3) (aop : BitVec 5) (disp : BitVec 18) (sync : BitVec 4) :
    (packFG op ⟨rd, rb, rx, sz, sh, ord, scope, aop, disp, sync⟩).toNat = ((((((((((op.toNat) * 2 ^ 6 + rd.toNat) * 2 ^ 6 + rb.toNat) * 2 ^ 6 + rx.toNat) * 2 ^ 2 + sz.toNat) * 2 ^ 4 + sh.toNat) * 2 ^ 2 + ord.toNat) * 2 ^ 3 + scope.toNat) * 2 ^ 5 + aop.toNat) * 2 ^ 18 + disp.toNat) * 2 ^ 4 + sync.toNat := by
  simp only [packFG, append_nat]

theorem unpack_packFG (op : BitVec 8) (f : FG) : unpackFG (packFG op f) = f := by
  obtain ⟨rd, rb, rx, sz, sh, ord, scope, aop, disp, sync⟩ := f
  simp only [unpackFG, FG.mk.injEq]
  refine ⟨?_, ?_, ?_, ?_, ?_, ?_, ?_, ?_, ?_, ?_⟩ <;>
    (apply BitVec.eq_of_toNat_eq
     simp only [BitVec.extractLsb'_toNat, packFG_nat, Nat.shiftRight_eq_div_pow]
     omega)

theorem op_packFG (op : BitVec 8) (f : FG) : (packFG op f).extractLsb' 56 8 = op := by
  obtain ⟨rd, rb, rx, sz, sh, ord, scope, aop, disp, sync⟩ := f
  apply BitVec.eq_of_toNat_eq
  simp only [BitVec.extractLsb'_toNat, packFG_nat, Nat.shiftRight_eq_div_pow]
  omega

theorem packFL_nat (op : BitVec 8) (ld : BitVec 12) (la : BitVec 12) (lb : BitVec 12) (ty : BitVec 4) (rm : BitVec 3) (pred : BitVec 3) (pe : BitVec 1) (pn : BitVec 1) (fn : BitVec 4) (sync : BitVec 4) :
    (packFL op ⟨ld, la, lb, ty, rm, pred, pe, pn, fn, sync⟩).toNat = ((((((((((op.toNat) * 2 ^ 12 + ld.toNat) * 2 ^ 12 + la.toNat) * 2 ^ 12 + lb.toNat) * 2 ^ 4 + ty.toNat) * 2 ^ 3 + rm.toNat) * 2 ^ 3 + pred.toNat) * 2 ^ 1 + pe.toNat) * 2 ^ 1 + pn.toNat) * 2 ^ 4 + fn.toNat) * 2 ^ 4 + sync.toNat := by
  simp only [packFL, append_nat]

theorem unpack_packFL (op : BitVec 8) (f : FL) : unpackFL (packFL op f) = f := by
  obtain ⟨ld, la, lb, ty, rm, pred, pe, pn, fn, sync⟩ := f
  simp only [unpackFL, FL.mk.injEq]
  refine ⟨?_, ?_, ?_, ?_, ?_, ?_, ?_, ?_, ?_, ?_⟩ <;>
    (apply BitVec.eq_of_toNat_eq
     simp only [BitVec.extractLsb'_toNat, packFL_nat, Nat.shiftRight_eq_div_pow]
     omega)

theorem op_packFL (op : BitVec 8) (f : FL) : (packFL op f).extractLsb' 56 8 = op := by
  obtain ⟨ld, la, lb, ty, rm, pred, pe, pn, fn, sync⟩ := f
  apply BitVec.eq_of_toNat_eq
  simp only [BitVec.extractLsb'_toNat, packFL_nat, Nat.shiftRight_eq_div_pow]
  omega

theorem packFQ_nat (op : BitVec 8) (qn : BitVec 4) (ar : BitVec 4) (rc : BitVec 6) (aux : BitVec 10) (wb : BitVec 10) (disp : BitVec 18) (sync : BitVec 4) :
    (packFQ op ⟨qn, ar, rc, aux, wb, disp, sync⟩).toNat = (((((((op.toNat) * 2 ^ 4 + qn.toNat) * 2 ^ 4 + ar.toNat) * 2 ^ 6 + rc.toNat) * 2 ^ 10 + aux.toNat) * 2 ^ 10 + wb.toNat) * 2 ^ 18 + disp.toNat) * 2 ^ 4 + sync.toNat := by
  simp only [packFQ, append_nat]

theorem unpack_packFQ (op : BitVec 8) (f : FQ) : unpackFQ (packFQ op f) = f := by
  obtain ⟨qn, ar, rc, aux, wb, disp, sync⟩ := f
  simp only [unpackFQ, FQ.mk.injEq]
  refine ⟨?_, ?_, ?_, ?_, ?_, ?_, ?_⟩ <;>
    (apply BitVec.eq_of_toNat_eq
     simp only [BitVec.extractLsb'_toNat, packFQ_nat, Nat.shiftRight_eq_div_pow]
     omega)

theorem op_packFQ (op : BitVec 8) (f : FQ) : (packFQ op f).extractLsb' 56 8 = op := by
  obtain ⟨qn, ar, rc, aux, wb, disp, sync⟩ := f
  apply BitVec.eq_of_toNat_eq
  simp only [BitVec.extractLsb'_toNat, packFQ_nat, Nat.shiftRight_eq_div_pow]
  omega

theorem packFX_nat (op : BitVec 8) (an : BitVec 3) (ar1 : BitVec 4) (ar2 : BitVec 4) (rk : BitVec 6) (fn : BitVec 6) (wb : BitVec 10) (tw : BitVec 4) (ta : BitVec 4) (flags : BitVec 10) (sync : BitVec 4) :
    (packFX op ⟨an, ar1, ar2, rk, fn, wb, tw, ta, flags, sync⟩).toNat = (((((((((((op.toNat) * 2 ^ 1) * 2 ^ 3 + an.toNat) * 2 ^ 4 + ar1.toNat) * 2 ^ 4 + ar2.toNat) * 2 ^ 6 + rk.toNat) * 2 ^ 6 + fn.toNat) * 2 ^ 10 + wb.toNat) * 2 ^ 4 + tw.toNat) * 2 ^ 4 + ta.toNat) * 2 ^ 10 + flags.toNat) * 2 ^ 4 + sync.toNat := by
  simp only [packFX, append_nat, BitVec.ofNat_eq_ofNat, BitVec.toNat_ofNat, Nat.zero_mod, Nat.add_zero]

theorem unpack_packFX (op : BitVec 8) (f : FX) : unpackFX (packFX op f) = f := by
  obtain ⟨an, ar1, ar2, rk, fn, wb, tw, ta, flags, sync⟩ := f
  simp only [unpackFX, FX.mk.injEq]
  refine ⟨?_, ?_, ?_, ?_, ?_, ?_, ?_, ?_, ?_, ?_⟩ <;>
    (apply BitVec.eq_of_toNat_eq
     simp only [BitVec.extractLsb'_toNat, packFX_nat, Nat.shiftRight_eq_div_pow]
     omega)

theorem op_packFX (op : BitVec 8) (f : FX) : (packFX op f).extractLsb' 56 8 = op := by
  obtain ⟨an, ar1, ar2, rk, fn, wb, tw, ta, flags, sync⟩ := f
  apply BitVec.eq_of_toNat_eq
  simp only [BitVec.extractLsb'_toNat, packFX_nat, Nat.shiftRight_eq_div_pow]
  omega

theorem zero_packFX (op : BitVec 8) (f : FX) : (packFX op f).extractLsb' 55 1 = 0 := by
  obtain ⟨an, ar1, ar2, rk, fn, wb, tw, ta, flags, sync⟩ := f
  apply BitVec.eq_of_toNat_eq
  simp only [BitVec.extractLsb'_toNat, packFX_nat, Nat.shiftRight_eq_div_pow, BitVec.ofNat_eq_ofNat, BitVec.toNat_ofNat, Nat.zero_mod]
  omega

theorem packFP_nat (op : BitVec 8) (cnt : BitVec 10) (sd : BitVec 4) (sa : BitVec 4) (sb : BitVec 4) (sync : BitVec 4) :
    (packFP op ⟨cnt, sd, sa, sb, sync⟩).toNat = ((((((op.toNat) * 2 ^ 10 + cnt.toNat) * 2 ^ 4 + sd.toNat) * 2 ^ 4 + sa.toNat) * 2 ^ 4 + sb.toNat) * 2 ^ 30) * 2 ^ 4 + sync.toNat := by
  simp only [packFP, append_nat, BitVec.ofNat_eq_ofNat, BitVec.toNat_ofNat, Nat.zero_mod, Nat.add_zero]

theorem unpack_packFP (op : BitVec 8) (f : FP) : unpackFP (packFP op f) = f := by
  obtain ⟨cnt, sd, sa, sb, sync⟩ := f
  simp only [unpackFP, FP.mk.injEq]
  refine ⟨?_, ?_, ?_, ?_, ?_⟩ <;>
    (apply BitVec.eq_of_toNat_eq
     simp only [BitVec.extractLsb'_toNat, packFP_nat, Nat.shiftRight_eq_div_pow]
     omega)

theorem op_packFP (op : BitVec 8) (f : FP) : (packFP op f).extractLsb' 56 8 = op := by
  obtain ⟨cnt, sd, sa, sb, sync⟩ := f
  apply BitVec.eq_of_toNat_eq
  simp only [BitVec.extractLsb'_toNat, packFP_nat, Nat.shiftRight_eq_div_pow]
  omega

theorem zero_packFP (op : BitVec 8) (f : FP) : (packFP op f).extractLsb' 4 30 = 0 := by
  obtain ⟨cnt, sd, sa, sb, sync⟩ := f
  apply BitVec.eq_of_toNat_eq
  simp only [BitVec.extractLsb'_toNat, packFP_nat, Nat.shiftRight_eq_div_pow, BitVec.ofNat_eq_ofNat, BitVec.toNat_ofNat, Nat.zero_mod]
  omega

theorem packFS_nat (op : BitVec 8) (fn8 : BitVec 8) (ra : BitVec 6) (rb : BitVec 6) (imm : BitVec 32) (sync : BitVec 4) :
    (packFS op ⟨fn8, ra, rb, imm, sync⟩).toNat = (((((op.toNat) * 2 ^ 8 + fn8.toNat) * 2 ^ 6 + ra.toNat) * 2 ^ 6 + rb.toNat) * 2 ^ 32 + imm.toNat) * 2 ^ 4 + sync.toNat := by
  simp only [packFS, append_nat]

theorem unpack_packFS (op : BitVec 8) (f : FS) : unpackFS (packFS op f) = f := by
  obtain ⟨fn8, ra, rb, imm, sync⟩ := f
  simp only [unpackFS, FS.mk.injEq]
  refine ⟨?_, ?_, ?_, ?_, ?_⟩ <;>
    (apply BitVec.eq_of_toNat_eq
     simp only [BitVec.extractLsb'_toNat, packFS_nat, Nat.shiftRight_eq_div_pow]
     omega)

theorem op_packFS (op : BitVec 8) (f : FS) : (packFS op f).extractLsb' 56 8 = op := by
  obtain ⟨fn8, ra, rb, imm, sync⟩ := f
  apply BitVec.eq_of_toNat_eq
  simp only [BitVec.extractLsb'_toNat, packFS_nat, Nat.shiftRight_eq_div_pow]
  omega

theorem packFD_nat (op : BitVec 8) (len : BitVec 16) :
    (packFD op ⟨len⟩).toNat = ((op.toNat) * 2 ^ 16 + len.toNat) * 2 ^ 40 := by
  simp only [packFD, append_nat, BitVec.ofNat_eq_ofNat, BitVec.toNat_ofNat, Nat.zero_mod, Nat.add_zero]

theorem unpack_packFD (op : BitVec 8) (f : FD) : unpackFD (packFD op f) = f := by
  obtain ⟨len⟩ := f
  simp only [unpackFD, FD.mk.injEq]
  apply BitVec.eq_of_toNat_eq
  simp only [BitVec.extractLsb'_toNat, packFD_nat, Nat.shiftRight_eq_div_pow]
  omega

theorem op_packFD (op : BitVec 8) (f : FD) : (packFD op f).extractLsb' 56 8 = op := by
  obtain ⟨len⟩ := f
  apply BitVec.eq_of_toNat_eq
  simp only [BitVec.extractLsb'_toNat, packFD_nat, Nat.shiftRight_eq_div_pow]
  omega

theorem zero_packFD (op : BitVec 8) (f : FD) : (packFD op f).extractLsb' 0 40 = 0 := by
  obtain ⟨len⟩ := f
  apply BitVec.eq_of_toNat_eq
  simp only [BitVec.extractLsb'_toNat, packFD_nat, Nat.shiftRight_eq_div_pow, BitVec.ofNat_eq_ofNat, BitVec.toNat_ofNat, Nat.zero_mod]
  omega

/-- The opcode of a packed word. -/
theorem op_packForm (op : BitVec 8) (f : Form) : (packForm op f).extractLsb' 56 8 = op := by
  cases f <;> simp only [packForm, op_packFR, op_packFI, op_packFB, op_packFM, op_packFG, op_packFL, op_packFQ, op_packFX,
    op_packFP, op_packFS, op_packFD]

/-- A slot that makes an instruction of fields reads it back from their word, whose zero bits are zero. -/
theorem slotRead_pack {sl : Slotting} {op : BitVec 8} {f : Form} {i : Instr} (h : slotMake sl f = some i) :
    slotRead sl (packForm op f) = i ∧ zeroBitsOk sl (packForm op f) = true := by
  cases sl <;> cases f <;> simp only [slotMake, Option.some.injEq, reduceCtorEq] at h <;>
    simp [slotRead, zeroBitsOk, packForm, unpack_packFR, unpack_packFI, unpack_packFB, unpack_packFM, unpack_packFG,
      unpack_packFL, unpack_packFQ, unpack_packFX, unpack_packFP, unpack_packFS, unpack_packFD, h,
      zero_packFR, zero_packFB, zero_packFX, zero_packFP, zero_packFD]

end Sys2Proof.Laws
end

