-- ==== Sys2Proof/Laws/Sparse.lean ====
section
/-! SUPPORT. Tables after a write, and the canonical form of byte memory under every operation. -/

set_option Elab.async false

namespace Sys2Proof.Laws

open Sys2Proof.Machine

variable {V : Type}

@[simp] theorem tabFind_put (m : Tab V) (i j : Nat) (v : V) :
    tabFind (tabPut m i v) j = if i = j then some v else tabFind m j := by
  induction m with
  | nil => simp [tabPut, tabFind]
  | cons e m ih =>
    obtain ⟨k, w⟩ := e
    simp only [tabPut]
    split
    · subst_vars; simp only [tabFind]; split <;> rfl
    · split
      · simp only [tabFind]
      · simp only [tabFind, ih]
        split <;> split <;> simp_all

@[simp] theorem tabFind_del (m : Tab V) (i j : Nat) :
    tabFind (tabDel m i) j = if i = j then none else tabFind m j := by
  induction m with
  | nil => simp [tabDel, tabFind]
  | cons e m ih =>
    obtain ⟨k, w⟩ := e
    have hd : tabDel ((k, w) :: m) i = if k = i then tabDel m i else (k, w) :: tabDel m i := by
      simp only [tabDel, List.filter_cons, bne_iff_ne, ne_eq, ite_not]
    rw [hd]
    split
    · subst_vars
      rw [ih]; simp only [tabFind]
      split <;> rfl
    · simp only [tabFind, ih]
      split <;> split <;> simp_all

@[simp] theorem tabGet_put (d : V) (m : Tab V) (i j : Nat) (v : V) :
    tabGet d (tabPut m i v) j = if i = j then v else tabGet d m j := by
  simp only [tabGet, tabFind_put]; split <;> rfl

@[simp] theorem tabGet_set [DecidableEq V] (d : V) (m : Tab V) (i j : Nat) (v : V) :
    tabGet d (tabSet d m i v) j = if i = j then v else tabGet d m j := by
  simp only [tabSet]
  split
  · subst_vars; simp only [tabGet, tabFind_del]; split <;> rfl
  · simp

theorem wfFrom_mono {m : Memory} {a b : Nat} (h : Memory.wfFrom b m = true) (hab : a ≤ b) :
    Memory.wfFrom a m = true := by
  cases m with
  | nil => rfl
  | cons e m =>
    obtain ⟨k, w⟩ := e
    simp only [Memory.wfFrom, Bool.and_eq_true, decide_eq_true_eq] at h ⊢
    exact ⟨⟨by omega, h.1.2⟩, h.2⟩

/-- A write at or past the least address keeps the canonical form. -/
theorem wfFrom_write {m : Memory} {lo i : Nat} (v : Byte) (h : Memory.wfFrom lo m = true) (hi : lo ≤ i) :
    Memory.wfFrom lo (Memory.write m i v) = true := by
  induction m generalizing lo with
  | nil => simp only [Memory.write]; split <;> simp_all [Memory.wfFrom]
  | cons e m ih =>
    obtain ⟨k, w⟩ := e
    simp only [Memory.wfFrom, Bool.and_eq_true, decide_eq_true_eq] at h
    obtain ⟨⟨h1, h2⟩, h3⟩ := h
    simp only [Memory.write]
    split
    · split
      · simp [Memory.wfFrom, h1, h2, h3]
      · have := wfFrom_mono h3 (Nat.le_refl _)
        simp only [Memory.wfFrom, Bool.and_eq_true, decide_eq_true_eq]
        exact ⟨⟨hi, by assumption⟩, ⟨by omega, h2⟩, this⟩
    · split
      · subst_vars
        split
        · exact wfFrom_mono h3 (by omega)
        · simp only [Memory.wfFrom, Bool.and_eq_true, decide_eq_true_eq]; exact ⟨⟨hi, by assumption⟩, h3⟩
      · simp only [Memory.wfFrom, Bool.and_eq_true, decide_eq_true_eq]
        exact ⟨⟨h1, h2⟩, ih h3 (by omega)⟩

/-- A write keeps the canonical form. -/
theorem wf_write {m : Memory} (i : Nat) (v : Byte) (h : m.wf = true) : (Memory.write m i v).wf = true :=
  wfFrom_write v h (Nat.zero_le _)

/-- A run of writes keeps the canonical form. -/
theorem wf_writeBytes {m : Memory} (i : Nat) (bs : List Byte) (h : m.wf = true) : (m.writeBytes i bs).wf = true := by
  induction bs generalizing m i with
  | nil => exact h
  | cons b bs ih => exact ih _ (wf_write i b h)

theorem wfFrom_read {m : Memory} {lo i : Nat} (h : Memory.wfFrom lo m = true) (hi : i < lo) :
    Memory.read m i = Memory.blank := by
  induction m generalizing lo with
  | nil => rfl
  | cons e m ih =>
    obtain ⟨k, w⟩ := e
    simp only [Memory.wfFrom, Bool.and_eq_true, decide_eq_true_eq] at h
    simp only [Memory.read]
    rw [if_neg (by omega)]
    exact ih h.2 (by omega)

theorem wfFrom_read_write {m : Memory} {lo i : Nat} (v : Byte) (j : Nat) (h : Memory.wfFrom lo m = true) (hi : lo ≤ i) :
    Memory.read (Memory.write m i v) j = if i = j then v else Memory.read m j := by
  induction m generalizing lo with
  | nil =>
    by_cases hv : v = Memory.blank <;> by_cases hj : i = j <;> simp [Memory.write, Memory.read, hv, hj]
  | cons e m ih =>
    obtain ⟨k, w⟩ := e
    simp only [Memory.wfFrom, Bool.and_eq_true, decide_eq_true_eq] at h
    obtain ⟨⟨h1, h2⟩, h3⟩ := h
    simp only [Memory.write]
    split
    · by_cases hv : v = Memory.blank
      · rw [if_pos hv]
        by_cases hj : i = j
        · subst hj
          rw [if_pos rfl, hv]
          simp only [Memory.read]
          rw [if_neg (by omega)]
          exact wfFrom_read h3 (by omega)
        · rw [if_neg hj]
      · rw [if_neg hv]; simp only [Memory.read]
    · split
      · subst_vars
        by_cases hv : v = Memory.blank
        · rw [if_pos hv]
          by_cases hj : k = j
          · subst hj; rw [if_pos rfl, hv]; exact wfFrom_read h3 (by omega)
          · rw [if_neg hj]; simp only [Memory.read, if_neg hj]
        · rw [if_neg hv]; simp only [Memory.read]
          split <;> rfl
      · simp only [Memory.read, ih h3 (show k + 1 ≤ i by omega)]
        split <;> split <;> simp_all

/-- A read after a write: the byte written there, every other as before. -/
theorem read_write {m : Memory} (h : m.wf = true) (i j : Nat) (v : Byte) :
    Memory.read (Memory.write m i v) j = if i = j then v else Memory.read m j :=
  wfFrom_read_write v j h (Nat.zero_le _)

/-- A read after a run of writes. -/
theorem read_writeBytes {m : Memory} (h : m.wf = true) (i j : Nat) (bs : List Byte) :
    Memory.read (m.writeBytes i bs) j = if i ≤ j then (bs[j - i]?).getD (Memory.read m j) else Memory.read m j := by
  induction bs generalizing m i with
  | nil => simp [Memory.writeBytes]
  | cons b bs ih =>
    simp only [Memory.writeBytes]
    rw [ih (wf_write i b h), read_write h]
    by_cases h1 : i = j
    · subst h1; simp [show ¬ i + 1 ≤ i by omega]
    · by_cases h2 : i ≤ j
      · have h3 : i + 1 ≤ j := by omega
        have h4 : j - i = (j - (i + 1)) + 1 := by omega
        simp [h1, h2, h3, h4]
      · have h3 : ¬ i + 1 ≤ j := by omega
        simp [h1, h2, h3]

end Sys2Proof.Laws
end

