-- ==== Sys2Proof/Laws/State.lean ====
section
/-! SUPPORT. What each update of the state, of a tile and of a strand does to each field. -/

set_option Elab.async false

namespace Sys2Proof.Laws

open Sys2Proof.Machine

/-! ### setTile -/

@[simp] theorem setTile_tiles (s : State) (t : Nat) (x : Tile) : (setTile s t x).tiles = tabPut s.tiles t x := rfl
@[simp] theorem setTile_cycle (s : State) (t : Nat) (x : Tile) : (setTile s t x).cycle = s.cycle := rfl
@[simp] theorem setTile_leasectl (s : State) (t : Nat) (x : Tile) : (setTile s t x).leasectl = s.leasectl := rfl
@[simp] theorem setTile_boxes (s : State) (t : Nat) (x : Tile) : (setTile s t x).boxes = s.boxes := rfl
@[simp] theorem setTile_boxProgs (s : State) (t : Nat) (x : Tile) : (setTile s t x).boxProgs = s.boxProgs := rfl
@[simp] theorem setTile_boxLoads (s : State) (t : Nat) (x : Tile) : (setTile s t x).boxLoads = s.boxLoads := rfl
@[simp] theorem setTile_leaseren (s : State) (t : Nat) (x : Tile) : (setTile s t x).leaseren = s.leaseren := rfl
@[simp] theorem setTile_atomrace (s : State) (t : Nat) (x : Tile) : (setTile s t x).atomrace = s.atomrace := rfl
@[simp] theorem setTile_hostRace (s : State) (t : Nat) (x : Tile) : (setTile s t x).hostRace = s.hostRace := rfl
@[simp] theorem setTile_ctxs (s : State) (t : Nat) (x : Tile) : (setTile s t x).ctxs = s.ctxs := rfl
@[simp] theorem setTile_parts (s : State) (t : Nat) (x : Tile) : (setTile s t x).parts = s.parts := rfl
@[simp] theorem setTile_vfs (s : State) (t : Nat) (x : Tile) : (setTile s t x).vfs = s.vfs := rfl
@[simp] theorem setTile_vfEnable (s : State) (t : Nat) (x : Tile) : (setTile s t x).vfEnable = s.vfEnable := rfl
@[simp] theorem setTile_mem (s : State) (t : Nat) (x : Tile) : (setTile s t x).mem = s.mem := rfl
@[simp] theorem setTile_ports (s : State) (t : Nat) (x : Tile) : (setTile s t x).ports = s.ports := rfl
@[simp] theorem setTile_poison (s : State) (t : Nat) (x : Tile) : (setTile s t x).poison = s.poison := rfl
@[simp] theorem setTile_clusterTlb (s : State) (t : Nat) (x : Tile) : (setTile s t x).clusterTlb = s.clusterTlb := rfl
@[simp] theorem setTile_prq (s : State) (t : Nat) (x : Tile) : (setTile s t x).prq = s.prq := rfl
@[simp] theorem setTile_parkedFaults (s : State) (t : Nat) (x : Tile) : (setTile s t x).parkedFaults = s.parkedFaults := rfl
@[simp] theorem setTile_responses (s : State) (t : Nat) (x : Tile) : (setTile s t x).responses = s.responses := rfl
@[simp] theorem setTile_answering (s : State) (t : Nat) (x : Tile) : (setTile s t x).answering = s.answering := rfl
@[simp] theorem setTile_cmds (s : State) (t : Nat) (x : Tile) : (setTile s t x).cmds = s.cmds := rfl
@[simp] theorem setTile_nextCmd (s : State) (t : Nat) (x : Tile) : (setTile s t x).nextCmd = s.nextCmd := rfl
@[simp] theorem setTile_lastStatus (s : State) (t : Nat) (x : Tile) : (setTile s t x).lastStatus = s.lastStatus := rfl
@[simp] theorem setTile_launchTiles (s : State) (t : Nat) (x : Tile) : (setTile s t x).launchTiles = s.launchTiles := rfl
@[simp] theorem setTile_launches (s : State) (t : Nat) (x : Tile) : (setTile s t x).launches = s.launches := rfl
@[simp] theorem setTile_nextLaunch (s : State) (t : Nat) (x : Tile) : (setTile s t x).nextLaunch = s.nextLaunch := rfl
@[simp] theorem setTile_heap (s : State) (t : Nat) (x : Tile) : (setTile s t x).heap = s.heap := rfl
@[simp] theorem setTile_nextHeap (s : State) (t : Nat) (x : Tile) : (setTile s t x).nextHeap = s.nextHeap := rfl
@[simp] theorem setTile_saves (s : State) (t : Nat) (x : Tile) : (setTile s t x).saves = s.saves := rfl
@[simp] theorem setTile_nextTask (s : State) (t : Nat) (x : Tile) : (setTile s t x).nextTask = s.nextTask := rfl
@[simp] theorem setTile_qtbase (s : State) (t : Nat) (x : Tile) : (setTile s t x).qtbase = s.qtbase := rfl
@[simp] theorem setTile_hwqs (s : State) (t : Nat) (x : Tile) : (setTile s t x).hwqs = s.hwqs := rfl
@[simp] theorem setTile_lastRead (s : State) (t : Nat) (x : Tile) : (setTile s t x).lastRead = s.lastRead := rfl
@[simp] theorem setTile_crowded (s : State) (t : Nat) (x : Tile) : (setTile s t x).crowded = s.crowded := rfl
@[simp] theorem setTile_tailWrites (s : State) (t : Nat) (x : Tile) : (setTile s t x).tailWrites = s.tailWrites := rfl
@[simp] theorem setTile_enWrites (s : State) (t : Nat) (x : Tile) : (setTile s t x).enWrites = s.enWrites := rfl
@[simp] theorem setTile_sems (s : State) (t : Nat) (x : Tile) : (setTile s t x).sems = s.sems := rfl
@[simp] theorem setTile_shareUsed (s : State) (t : Nat) (x : Tile) : (setTile s t x).shareUsed = s.shareUsed := rfl
@[simp] theorem setTile_shareStart (s : State) (t : Nat) (x : Tile) : (setTile s t x).shareStart = s.shareStart := rfl
@[simp] theorem setTile_periodStart (s : State) (t : Nat) (x : Tile) : (setTile s t x).periodStart = s.periodStart := rfl
@[simp] theorem setTile_clusters (s : State) (t : Nat) (x : Tile) : (setTile s t x).clusters = s.clusters := rfl
@[simp] theorem setTile_stackMask (s : State) (t : Nat) (x : Tile) : (setTile s t x).stackMask = s.stackMask := rfl
@[simp] theorem setTile_device (s : State) (t : Nat) (x : Tile) : (setTile s t x).device = s.device := rfl
@[simp] theorem setTile_fabDown (s : State) (t : Nat) (x : Tile) : (setTile s t x).fabDown = s.fabDown := rfl
@[simp] theorem setTile_isaMask (s : State) (t : Nat) (x : Tile) : (setTile s t x).isaMask = s.isaMask := rfl
@[simp] theorem setTile_hostWidth (s : State) (t : Nat) (x : Tile) : (setTile s t x).hostWidth = s.hostWidth := rfl
@[simp] theorem setTile_hostRate (s : State) (t : Nat) (x : Tile) : (setTile s t x).hostRate = s.hostRate := rfl
@[simp] theorem setTile_flitSeq (s : State) (t : Nat) (x : Tile) : (setTile s t x).flitSeq = s.flitSeq := rfl
@[simp] theorem setTile_colls (s : State) (t : Nat) (x : Tile) : (setTile s t x).colls = s.colls := rfl
@[simp] theorem setTile_misroute (s : State) (t : Nat) (x : Tile) : (setTile s t x).misroute = s.misroute := rfl
@[simp] theorem setTile_stale (s : State) (t : Nat) (x : Tile) : (setTile s t x).stale = s.stale := rfl
@[simp] theorem setTile_eccCorrected (s : State) (t : Nat) (x : Tile) : (setTile s t x).eccCorrected = s.eccCorrected := rfl
@[simp] theorem setTile_eccUncorrected (s : State) (t : Nat) (x : Tile) : (setTile s t x).eccUncorrected = s.eccUncorrected := rfl
@[simp] theorem setTile_boot (s : State) (t : Nat) (x : Tile) : (setTile s t x).boot = s.boot := rfl
@[simp] theorem setTile_idleClocks (s : State) (t : Nat) (x : Tile) : (setTile s t x).idleClocks = s.idleClocks := rfl
@[simp] theorem setTile_mcLog (s : State) (t : Nat) (x : Tile) : (setTile s t x).mcLog = s.mcLog := rfl
@[simp] theorem setTile_reports (s : State) (t : Nat) (x : Tile) : (setTile s t x).reports = s.reports := rfl
@[simp] theorem setTile_boxIdle (s : State) (t : Nat) (x : Tile) : (setTile s t x).boxIdle = s.boxIdle := rfl
@[simp] theorem setTile_hostData (s : State) (t : Nat) (x : Tile) : (setTile s t x).hostData = s.hostData := rfl
@[simp] theorem setTile_touches (s : State) (t : Nat) (x : Tile) : (setTile s t x).touches = s.touches := rfl
@[simp] theorem setTile_acted (s : State) (t : Nat) (x : Tile) : (setTile s t x).acted = s.acted := rfl
@[simp] theorem setTile_walkReads (s : State) (t : Nat) (x : Tile) : (setTile s t x).walkReads = s.walkReads := rfl
@[simp] theorem setTile_schedule (s : State) (t : Nat) (x : Tile) : (setTile s t x).schedule = s.schedule := rfl
@[simp] theorem setTile_cur (s : State) (t : Nat) (x : Tile) : (setTile s t x).cur = s.cur := rfl
@[simp] theorem setTile_fresh (s : State) (t : Nat) (x : Tile) : (setTile s t x).fresh = s.fresh := rfl

/-! ### modTile -/

@[simp] theorem modTile_tiles (s : State) (t : Nat) (f : Tile → Tile) : (modTile s t f).tiles = tabPut s.tiles t (f (getTile s t)) := rfl
@[simp] theorem modTile_cycle (s : State) (t : Nat) (g : Tile → Tile) : (modTile s t g).cycle = s.cycle := rfl
@[simp] theorem modTile_leasectl (s : State) (t : Nat) (g : Tile → Tile) : (modTile s t g).leasectl = s.leasectl := rfl
@[simp] theorem modTile_boxes (s : State) (t : Nat) (g : Tile → Tile) : (modTile s t g).boxes = s.boxes := rfl
@[simp] theorem modTile_boxProgs (s : State) (t : Nat) (g : Tile → Tile) : (modTile s t g).boxProgs = s.boxProgs := rfl
@[simp] theorem modTile_boxLoads (s : State) (t : Nat) (g : Tile → Tile) : (modTile s t g).boxLoads = s.boxLoads := rfl
@[simp] theorem modTile_leaseren (s : State) (t : Nat) (g : Tile → Tile) : (modTile s t g).leaseren = s.leaseren := rfl
@[simp] theorem modTile_atomrace (s : State) (t : Nat) (g : Tile → Tile) : (modTile s t g).atomrace = s.atomrace := rfl
@[simp] theorem modTile_hostRace (s : State) (t : Nat) (g : Tile → Tile) : (modTile s t g).hostRace = s.hostRace := rfl
@[simp] theorem modTile_ctxs (s : State) (t : Nat) (g : Tile → Tile) : (modTile s t g).ctxs = s.ctxs := rfl
@[simp] theorem modTile_parts (s : State) (t : Nat) (g : Tile → Tile) : (modTile s t g).parts = s.parts := rfl
@[simp] theorem modTile_vfs (s : State) (t : Nat) (g : Tile → Tile) : (modTile s t g).vfs = s.vfs := rfl
@[simp] theorem modTile_vfEnable (s : State) (t : Nat) (g : Tile → Tile) : (modTile s t g).vfEnable = s.vfEnable := rfl
@[simp] theorem modTile_mem (s : State) (t : Nat) (g : Tile → Tile) : (modTile s t g).mem = s.mem := rfl
@[simp] theorem modTile_ports (s : State) (t : Nat) (g : Tile → Tile) : (modTile s t g).ports = s.ports := rfl
@[simp] theorem modTile_poison (s : State) (t : Nat) (g : Tile → Tile) : (modTile s t g).poison = s.poison := rfl
@[simp] theorem modTile_clusterTlb (s : State) (t : Nat) (g : Tile → Tile) : (modTile s t g).clusterTlb = s.clusterTlb := rfl
@[simp] theorem modTile_prq (s : State) (t : Nat) (g : Tile → Tile) : (modTile s t g).prq = s.prq := rfl
@[simp] theorem modTile_parkedFaults (s : State) (t : Nat) (g : Tile → Tile) : (modTile s t g).parkedFaults = s.parkedFaults := rfl
@[simp] theorem modTile_responses (s : State) (t : Nat) (g : Tile → Tile) : (modTile s t g).responses = s.responses := rfl
@[simp] theorem modTile_answering (s : State) (t : Nat) (g : Tile → Tile) : (modTile s t g).answering = s.answering := rfl
@[simp] theorem modTile_cmds (s : State) (t : Nat) (g : Tile → Tile) : (modTile s t g).cmds = s.cmds := rfl
@[simp] theorem modTile_nextCmd (s : State) (t : Nat) (g : Tile → Tile) : (modTile s t g).nextCmd = s.nextCmd := rfl
@[simp] theorem modTile_lastStatus (s : State) (t : Nat) (g : Tile → Tile) : (modTile s t g).lastStatus = s.lastStatus := rfl
@[simp] theorem modTile_launchTiles (s : State) (t : Nat) (g : Tile → Tile) : (modTile s t g).launchTiles = s.launchTiles := rfl
@[simp] theorem modTile_launches (s : State) (t : Nat) (g : Tile → Tile) : (modTile s t g).launches = s.launches := rfl
@[simp] theorem modTile_nextLaunch (s : State) (t : Nat) (g : Tile → Tile) : (modTile s t g).nextLaunch = s.nextLaunch := rfl
@[simp] theorem modTile_heap (s : State) (t : Nat) (g : Tile → Tile) : (modTile s t g).heap = s.heap := rfl
@[simp] theorem modTile_nextHeap (s : State) (t : Nat) (g : Tile → Tile) : (modTile s t g).nextHeap = s.nextHeap := rfl
@[simp] theorem modTile_saves (s : State) (t : Nat) (g : Tile → Tile) : (modTile s t g).saves = s.saves := rfl
@[simp] theorem modTile_nextTask (s : State) (t : Nat) (g : Tile → Tile) : (modTile s t g).nextTask = s.nextTask := rfl
@[simp] theorem modTile_qtbase (s : State) (t : Nat) (g : Tile → Tile) : (modTile s t g).qtbase = s.qtbase := rfl
@[simp] theorem modTile_hwqs (s : State) (t : Nat) (g : Tile → Tile) : (modTile s t g).hwqs = s.hwqs := rfl
@[simp] theorem modTile_lastRead (s : State) (t : Nat) (g : Tile → Tile) : (modTile s t g).lastRead = s.lastRead := rfl
@[simp] theorem modTile_crowded (s : State) (t : Nat) (g : Tile → Tile) : (modTile s t g).crowded = s.crowded := rfl
@[simp] theorem modTile_tailWrites (s : State) (t : Nat) (g : Tile → Tile) : (modTile s t g).tailWrites = s.tailWrites := rfl
@[simp] theorem modTile_enWrites (s : State) (t : Nat) (g : Tile → Tile) : (modTile s t g).enWrites = s.enWrites := rfl
@[simp] theorem modTile_sems (s : State) (t : Nat) (g : Tile → Tile) : (modTile s t g).sems = s.sems := rfl
@[simp] theorem modTile_shareUsed (s : State) (t : Nat) (g : Tile → Tile) : (modTile s t g).shareUsed = s.shareUsed := rfl
@[simp] theorem modTile_shareStart (s : State) (t : Nat) (g : Tile → Tile) : (modTile s t g).shareStart = s.shareStart := rfl
@[simp] theorem modTile_periodStart (s : State) (t : Nat) (g : Tile → Tile) : (modTile s t g).periodStart = s.periodStart := rfl
@[simp] theorem modTile_clusters (s : State) (t : Nat) (g : Tile → Tile) : (modTile s t g).clusters = s.clusters := rfl
@[simp] theorem modTile_stackMask (s : State) (t : Nat) (g : Tile → Tile) : (modTile s t g).stackMask = s.stackMask := rfl
@[simp] theorem modTile_device (s : State) (t : Nat) (g : Tile → Tile) : (modTile s t g).device = s.device := rfl
@[simp] theorem modTile_fabDown (s : State) (t : Nat) (g : Tile → Tile) : (modTile s t g).fabDown = s.fabDown := rfl
@[simp] theorem modTile_isaMask (s : State) (t : Nat) (g : Tile → Tile) : (modTile s t g).isaMask = s.isaMask := rfl
@[simp] theorem modTile_hostWidth (s : State) (t : Nat) (g : Tile → Tile) : (modTile s t g).hostWidth = s.hostWidth := rfl
@[simp] theorem modTile_hostRate (s : State) (t : Nat) (g : Tile → Tile) : (modTile s t g).hostRate = s.hostRate := rfl
@[simp] theorem modTile_flitSeq (s : State) (t : Nat) (g : Tile → Tile) : (modTile s t g).flitSeq = s.flitSeq := rfl
@[simp] theorem modTile_colls (s : State) (t : Nat) (g : Tile → Tile) : (modTile s t g).colls = s.colls := rfl
@[simp] theorem modTile_misroute (s : State) (t : Nat) (g : Tile → Tile) : (modTile s t g).misroute = s.misroute := rfl
@[simp] theorem modTile_stale (s : State) (t : Nat) (g : Tile → Tile) : (modTile s t g).stale = s.stale := rfl
@[simp] theorem modTile_eccCorrected (s : State) (t : Nat) (g : Tile → Tile) : (modTile s t g).eccCorrected = s.eccCorrected := rfl
@[simp] theorem modTile_eccUncorrected (s : State) (t : Nat) (g : Tile → Tile) : (modTile s t g).eccUncorrected = s.eccUncorrected := rfl
@[simp] theorem modTile_boot (s : State) (t : Nat) (g : Tile → Tile) : (modTile s t g).boot = s.boot := rfl
@[simp] theorem modTile_idleClocks (s : State) (t : Nat) (g : Tile → Tile) : (modTile s t g).idleClocks = s.idleClocks := rfl
@[simp] theorem modTile_mcLog (s : State) (t : Nat) (g : Tile → Tile) : (modTile s t g).mcLog = s.mcLog := rfl
@[simp] theorem modTile_reports (s : State) (t : Nat) (g : Tile → Tile) : (modTile s t g).reports = s.reports := rfl
@[simp] theorem modTile_boxIdle (s : State) (t : Nat) (g : Tile → Tile) : (modTile s t g).boxIdle = s.boxIdle := rfl
@[simp] theorem modTile_hostData (s : State) (t : Nat) (g : Tile → Tile) : (modTile s t g).hostData = s.hostData := rfl
@[simp] theorem modTile_touches (s : State) (t : Nat) (g : Tile → Tile) : (modTile s t g).touches = s.touches := rfl
@[simp] theorem modTile_acted (s : State) (t : Nat) (g : Tile → Tile) : (modTile s t g).acted = s.acted := rfl
@[simp] theorem modTile_walkReads (s : State) (t : Nat) (g : Tile → Tile) : (modTile s t g).walkReads = s.walkReads := rfl
@[simp] theorem modTile_schedule (s : State) (t : Nat) (g : Tile → Tile) : (modTile s t g).schedule = s.schedule := rfl
@[simp] theorem modTile_cur (s : State) (t : Nat) (g : Tile → Tile) : (modTile s t g).cur = s.cur := rfl
@[simp] theorem modTile_fresh (s : State) (t : Nat) (g : Tile → Tile) : (modTile s t g).fresh = s.fresh := rfl

/-! ### setStrand -/

@[simp] theorem setStrand_cycle (s : State) (c : CoreId) (st : Strand) : (setStrand s c st).cycle = s.cycle := by cases c <;> rfl
@[simp] theorem setStrand_leasectl (s : State) (c : CoreId) (st : Strand) : (setStrand s c st).leasectl = s.leasectl := by cases c <;> rfl
@[simp] theorem setStrand_boxProgs (s : State) (c : CoreId) (st : Strand) : (setStrand s c st).boxProgs = s.boxProgs := by cases c <;> rfl
@[simp] theorem setStrand_boxLoads (s : State) (c : CoreId) (st : Strand) : (setStrand s c st).boxLoads = s.boxLoads := by cases c <;> rfl
@[simp] theorem setStrand_leaseren (s : State) (c : CoreId) (st : Strand) : (setStrand s c st).leaseren = s.leaseren := by cases c <;> rfl
@[simp] theorem setStrand_atomrace (s : State) (c : CoreId) (st : Strand) : (setStrand s c st).atomrace = s.atomrace := by cases c <;> rfl
@[simp] theorem setStrand_hostRace (s : State) (c : CoreId) (st : Strand) : (setStrand s c st).hostRace = s.hostRace := by cases c <;> rfl
@[simp] theorem setStrand_ctxs (s : State) (c : CoreId) (st : Strand) : (setStrand s c st).ctxs = s.ctxs := by cases c <;> rfl
@[simp] theorem setStrand_parts (s : State) (c : CoreId) (st : Strand) : (setStrand s c st).parts = s.parts := by cases c <;> rfl
@[simp] theorem setStrand_vfs (s : State) (c : CoreId) (st : Strand) : (setStrand s c st).vfs = s.vfs := by cases c <;> rfl
@[simp] theorem setStrand_vfEnable (s : State) (c : CoreId) (st : Strand) : (setStrand s c st).vfEnable = s.vfEnable := by cases c <;> rfl
@[simp] theorem setStrand_mem (s : State) (c : CoreId) (st : Strand) : (setStrand s c st).mem = s.mem := by cases c <;> rfl
@[simp] theorem setStrand_ports (s : State) (c : CoreId) (st : Strand) : (setStrand s c st).ports = s.ports := by cases c <;> rfl
@[simp] theorem setStrand_poison (s : State) (c : CoreId) (st : Strand) : (setStrand s c st).poison = s.poison := by cases c <;> rfl
@[simp] theorem setStrand_clusterTlb (s : State) (c : CoreId) (st : Strand) : (setStrand s c st).clusterTlb = s.clusterTlb := by cases c <;> rfl
@[simp] theorem setStrand_prq (s : State) (c : CoreId) (st : Strand) : (setStrand s c st).prq = s.prq := by cases c <;> rfl
@[simp] theorem setStrand_parkedFaults (s : State) (c : CoreId) (st : Strand) : (setStrand s c st).parkedFaults = s.parkedFaults := by cases c <;> rfl
@[simp] theorem setStrand_responses (s : State) (c : CoreId) (st : Strand) : (setStrand s c st).responses = s.responses := by cases c <;> rfl
@[simp] theorem setStrand_answering (s : State) (c : CoreId) (st : Strand) : (setStrand s c st).answering = s.answering := by cases c <;> rfl
@[simp] theorem setStrand_cmds (s : State) (c : CoreId) (st : Strand) : (setStrand s c st).cmds = s.cmds := by cases c <;> rfl
@[simp] theorem setStrand_nextCmd (s : State) (c : CoreId) (st : Strand) : (setStrand s c st).nextCmd = s.nextCmd := by cases c <;> rfl
@[simp] theorem setStrand_lastStatus (s : State) (c : CoreId) (st : Strand) : (setStrand s c st).lastStatus = s.lastStatus := by cases c <;> rfl
@[simp] theorem setStrand_launchTiles (s : State) (c : CoreId) (st : Strand) : (setStrand s c st).launchTiles = s.launchTiles := by cases c <;> rfl
@[simp] theorem setStrand_launches (s : State) (c : CoreId) (st : Strand) : (setStrand s c st).launches = s.launches := by cases c <;> rfl
@[simp] theorem setStrand_nextLaunch (s : State) (c : CoreId) (st : Strand) : (setStrand s c st).nextLaunch = s.nextLaunch := by cases c <;> rfl
@[simp] theorem setStrand_heap (s : State) (c : CoreId) (st : Strand) : (setStrand s c st).heap = s.heap := by cases c <;> rfl
@[simp] theorem setStrand_nextHeap (s : State) (c : CoreId) (st : Strand) : (setStrand s c st).nextHeap = s.nextHeap := by cases c <;> rfl
@[simp] theorem setStrand_saves (s : State) (c : CoreId) (st : Strand) : (setStrand s c st).saves = s.saves := by cases c <;> rfl
@[simp] theorem setStrand_nextTask (s : State) (c : CoreId) (st : Strand) : (setStrand s c st).nextTask = s.nextTask := by cases c <;> rfl
@[simp] theorem setStrand_qtbase (s : State) (c : CoreId) (st : Strand) : (setStrand s c st).qtbase = s.qtbase := by cases c <;> rfl
@[simp] theorem setStrand_hwqs (s : State) (c : CoreId) (st : Strand) : (setStrand s c st).hwqs = s.hwqs := by cases c <;> rfl
@[simp] theorem setStrand_lastRead (s : State) (c : CoreId) (st : Strand) : (setStrand s c st).lastRead = s.lastRead := by cases c <;> rfl
@[simp] theorem setStrand_crowded (s : State) (c : CoreId) (st : Strand) : (setStrand s c st).crowded = s.crowded := by cases c <;> rfl
@[simp] theorem setStrand_tailWrites (s : State) (c : CoreId) (st : Strand) : (setStrand s c st).tailWrites = s.tailWrites := by cases c <;> rfl
@[simp] theorem setStrand_enWrites (s : State) (c : CoreId) (st : Strand) : (setStrand s c st).enWrites = s.enWrites := by cases c <;> rfl
@[simp] theorem setStrand_sems (s : State) (c : CoreId) (st : Strand) : (setStrand s c st).sems = s.sems := by cases c <;> rfl
@[simp] theorem setStrand_shareUsed (s : State) (c : CoreId) (st : Strand) : (setStrand s c st).shareUsed = s.shareUsed := by cases c <;> rfl
@[simp] theorem setStrand_shareStart (s : State) (c : CoreId) (st : Strand) : (setStrand s c st).shareStart = s.shareStart := by cases c <;> rfl
@[simp] theorem setStrand_periodStart (s : State) (c : CoreId) (st : Strand) : (setStrand s c st).periodStart = s.periodStart := by cases c <;> rfl
@[simp] theorem setStrand_clusters (s : State) (c : CoreId) (st : Strand) : (setStrand s c st).clusters = s.clusters := by cases c <;> rfl
@[simp] theorem setStrand_stackMask (s : State) (c : CoreId) (st : Strand) : (setStrand s c st).stackMask = s.stackMask := by cases c <;> rfl
@[simp] theorem setStrand_device (s : State) (c : CoreId) (st : Strand) : (setStrand s c st).device = s.device := by cases c <;> rfl
@[simp] theorem setStrand_fabDown (s : State) (c : CoreId) (st : Strand) : (setStrand s c st).fabDown = s.fabDown := by cases c <;> rfl
@[simp] theorem setStrand_isaMask (s : State) (c : CoreId) (st : Strand) : (setStrand s c st).isaMask = s.isaMask := by cases c <;> rfl
@[simp] theorem setStrand_hostWidth (s : State) (c : CoreId) (st : Strand) : (setStrand s c st).hostWidth = s.hostWidth := by cases c <;> rfl
@[simp] theorem setStrand_hostRate (s : State) (c : CoreId) (st : Strand) : (setStrand s c st).hostRate = s.hostRate := by cases c <;> rfl
@[simp] theorem setStrand_flitSeq (s : State) (c : CoreId) (st : Strand) : (setStrand s c st).flitSeq = s.flitSeq := by cases c <;> rfl
@[simp] theorem setStrand_colls (s : State) (c : CoreId) (st : Strand) : (setStrand s c st).colls = s.colls := by cases c <;> rfl
@[simp] theorem setStrand_misroute (s : State) (c : CoreId) (st : Strand) : (setStrand s c st).misroute = s.misroute := by cases c <;> rfl
@[simp] theorem setStrand_stale (s : State) (c : CoreId) (st : Strand) : (setStrand s c st).stale = s.stale := by cases c <;> rfl
@[simp] theorem setStrand_eccCorrected (s : State) (c : CoreId) (st : Strand) : (setStrand s c st).eccCorrected = s.eccCorrected := by cases c <;> rfl
@[simp] theorem setStrand_eccUncorrected (s : State) (c : CoreId) (st : Strand) : (setStrand s c st).eccUncorrected = s.eccUncorrected := by cases c <;> rfl
@[simp] theorem setStrand_boot (s : State) (c : CoreId) (st : Strand) : (setStrand s c st).boot = s.boot := by cases c <;> rfl
@[simp] theorem setStrand_idleClocks (s : State) (c : CoreId) (st : Strand) : (setStrand s c st).idleClocks = s.idleClocks := by cases c <;> rfl
@[simp] theorem setStrand_mcLog (s : State) (c : CoreId) (st : Strand) : (setStrand s c st).mcLog = s.mcLog := by cases c <;> rfl
@[simp] theorem setStrand_reports (s : State) (c : CoreId) (st : Strand) : (setStrand s c st).reports = s.reports := by cases c <;> rfl
@[simp] theorem setStrand_boxIdle (s : State) (c : CoreId) (st : Strand) : (setStrand s c st).boxIdle = s.boxIdle := by cases c <;> rfl
@[simp] theorem setStrand_hostData (s : State) (c : CoreId) (st : Strand) : (setStrand s c st).hostData = s.hostData := by cases c <;> rfl
@[simp] theorem setStrand_touches (s : State) (c : CoreId) (st : Strand) : (setStrand s c st).touches = s.touches := by cases c <;> rfl
@[simp] theorem setStrand_acted (s : State) (c : CoreId) (st : Strand) : (setStrand s c st).acted = s.acted := by cases c <;> rfl
@[simp] theorem setStrand_walkReads (s : State) (c : CoreId) (st : Strand) : (setStrand s c st).walkReads = s.walkReads := by cases c <;> rfl
@[simp] theorem setStrand_schedule (s : State) (c : CoreId) (st : Strand) : (setStrand s c st).schedule = s.schedule := by cases c <;> rfl
@[simp] theorem setStrand_cur (s : State) (c : CoreId) (st : Strand) : (setStrand s c st).cur = s.cur := by cases c <;> rfl
@[simp] theorem setStrand_fresh (s : State) (c : CoreId) (st : Strand) : (setStrand s c st).fresh = s.fresh := by cases c <;> rfl

/-! ### modStrand -/

@[simp] theorem modStrand_cycle (s : State) (c : CoreId) (g : Strand → Strand) : (modStrand s c g).cycle = s.cycle := by cases c <;> rfl
@[simp] theorem modStrand_leasectl (s : State) (c : CoreId) (g : Strand → Strand) : (modStrand s c g).leasectl = s.leasectl := by cases c <;> rfl
@[simp] theorem modStrand_boxProgs (s : State) (c : CoreId) (g : Strand → Strand) : (modStrand s c g).boxProgs = s.boxProgs := by cases c <;> rfl
@[simp] theorem modStrand_boxLoads (s : State) (c : CoreId) (g : Strand → Strand) : (modStrand s c g).boxLoads = s.boxLoads := by cases c <;> rfl
@[simp] theorem modStrand_leaseren (s : State) (c : CoreId) (g : Strand → Strand) : (modStrand s c g).leaseren = s.leaseren := by cases c <;> rfl
@[simp] theorem modStrand_atomrace (s : State) (c : CoreId) (g : Strand → Strand) : (modStrand s c g).atomrace = s.atomrace := by cases c <;> rfl
@[simp] theorem modStrand_hostRace (s : State) (c : CoreId) (g : Strand → Strand) : (modStrand s c g).hostRace = s.hostRace := by cases c <;> rfl
@[simp] theorem modStrand_ctxs (s : State) (c : CoreId) (g : Strand → Strand) : (modStrand s c g).ctxs = s.ctxs := by cases c <;> rfl
@[simp] theorem modStrand_parts (s : State) (c : CoreId) (g : Strand → Strand) : (modStrand s c g).parts = s.parts := by cases c <;> rfl
@[simp] theorem modStrand_vfs (s : State) (c : CoreId) (g : Strand → Strand) : (modStrand s c g).vfs = s.vfs := by cases c <;> rfl
@[simp] theorem modStrand_vfEnable (s : State) (c : CoreId) (g : Strand → Strand) : (modStrand s c g).vfEnable = s.vfEnable := by cases c <;> rfl
@[simp] theorem modStrand_mem (s : State) (c : CoreId) (g : Strand → Strand) : (modStrand s c g).mem = s.mem := by cases c <;> rfl
@[simp] theorem modStrand_ports (s : State) (c : CoreId) (g : Strand → Strand) : (modStrand s c g).ports = s.ports := by cases c <;> rfl
@[simp] theorem modStrand_poison (s : State) (c : CoreId) (g : Strand → Strand) : (modStrand s c g).poison = s.poison := by cases c <;> rfl
@[simp] theorem modStrand_clusterTlb (s : State) (c : CoreId) (g : Strand → Strand) : (modStrand s c g).clusterTlb = s.clusterTlb := by cases c <;> rfl
@[simp] theorem modStrand_prq (s : State) (c : CoreId) (g : Strand → Strand) : (modStrand s c g).prq = s.prq := by cases c <;> rfl
@[simp] theorem modStrand_parkedFaults (s : State) (c : CoreId) (g : Strand → Strand) : (modStrand s c g).parkedFaults = s.parkedFaults := by cases c <;> rfl
@[simp] theorem modStrand_responses (s : State) (c : CoreId) (g : Strand → Strand) : (modStrand s c g).responses = s.responses := by cases c <;> rfl
@[simp] theorem modStrand_answering (s : State) (c : CoreId) (g : Strand → Strand) : (modStrand s c g).answering = s.answering := by cases c <;> rfl
@[simp] theorem modStrand_cmds (s : State) (c : CoreId) (g : Strand → Strand) : (modStrand s c g).cmds = s.cmds := by cases c <;> rfl
@[simp] theorem modStrand_nextCmd (s : State) (c : CoreId) (g : Strand → Strand) : (modStrand s c g).nextCmd = s.nextCmd := by cases c <;> rfl
@[simp] theorem modStrand_lastStatus (s : State) (c : CoreId) (g : Strand → Strand) : (modStrand s c g).lastStatus = s.lastStatus := by cases c <;> rfl
@[simp] theorem modStrand_launchTiles (s : State) (c : CoreId) (g : Strand → Strand) : (modStrand s c g).launchTiles = s.launchTiles := by cases c <;> rfl
@[simp] theorem modStrand_launches (s : State) (c : CoreId) (g : Strand → Strand) : (modStrand s c g).launches = s.launches := by cases c <;> rfl
@[simp] theorem modStrand_nextLaunch (s : State) (c : CoreId) (g : Strand → Strand) : (modStrand s c g).nextLaunch = s.nextLaunch := by cases c <;> rfl
@[simp] theorem modStrand_heap (s : State) (c : CoreId) (g : Strand → Strand) : (modStrand s c g).heap = s.heap := by cases c <;> rfl
@[simp] theorem modStrand_nextHeap (s : State) (c : CoreId) (g : Strand → Strand) : (modStrand s c g).nextHeap = s.nextHeap := by cases c <;> rfl
@[simp] theorem modStrand_saves (s : State) (c : CoreId) (g : Strand → Strand) : (modStrand s c g).saves = s.saves := by cases c <;> rfl
@[simp] theorem modStrand_nextTask (s : State) (c : CoreId) (g : Strand → Strand) : (modStrand s c g).nextTask = s.nextTask := by cases c <;> rfl
@[simp] theorem modStrand_qtbase (s : State) (c : CoreId) (g : Strand → Strand) : (modStrand s c g).qtbase = s.qtbase := by cases c <;> rfl
@[simp] theorem modStrand_hwqs (s : State) (c : CoreId) (g : Strand → Strand) : (modStrand s c g).hwqs = s.hwqs := by cases c <;> rfl
@[simp] theorem modStrand_lastRead (s : State) (c : CoreId) (g : Strand → Strand) : (modStrand s c g).lastRead = s.lastRead := by cases c <;> rfl
@[simp] theorem modStrand_crowded (s : State) (c : CoreId) (g : Strand → Strand) : (modStrand s c g).crowded = s.crowded := by cases c <;> rfl
@[simp] theorem modStrand_tailWrites (s : State) (c : CoreId) (g : Strand → Strand) : (modStrand s c g).tailWrites = s.tailWrites := by cases c <;> rfl
@[simp] theorem modStrand_enWrites (s : State) (c : CoreId) (g : Strand → Strand) : (modStrand s c g).enWrites = s.enWrites := by cases c <;> rfl
@[simp] theorem modStrand_sems (s : State) (c : CoreId) (g : Strand → Strand) : (modStrand s c g).sems = s.sems := by cases c <;> rfl
@[simp] theorem modStrand_shareUsed (s : State) (c : CoreId) (g : Strand → Strand) : (modStrand s c g).shareUsed = s.shareUsed := by cases c <;> rfl
@[simp] theorem modStrand_shareStart (s : State) (c : CoreId) (g : Strand → Strand) : (modStrand s c g).shareStart = s.shareStart := by cases c <;> rfl
@[simp] theorem modStrand_periodStart (s : State) (c : CoreId) (g : Strand → Strand) : (modStrand s c g).periodStart = s.periodStart := by cases c <;> rfl
@[simp] theorem modStrand_clusters (s : State) (c : CoreId) (g : Strand → Strand) : (modStrand s c g).clusters = s.clusters := by cases c <;> rfl
@[simp] theorem modStrand_stackMask (s : State) (c : CoreId) (g : Strand → Strand) : (modStrand s c g).stackMask = s.stackMask := by cases c <;> rfl
@[simp] theorem modStrand_device (s : State) (c : CoreId) (g : Strand → Strand) : (modStrand s c g).device = s.device := by cases c <;> rfl
@[simp] theorem modStrand_fabDown (s : State) (c : CoreId) (g : Strand → Strand) : (modStrand s c g).fabDown = s.fabDown := by cases c <;> rfl
@[simp] theorem modStrand_isaMask (s : State) (c : CoreId) (g : Strand → Strand) : (modStrand s c g).isaMask = s.isaMask := by cases c <;> rfl
@[simp] theorem modStrand_hostWidth (s : State) (c : CoreId) (g : Strand → Strand) : (modStrand s c g).hostWidth = s.hostWidth := by cases c <;> rfl
@[simp] theorem modStrand_hostRate (s : State) (c : CoreId) (g : Strand → Strand) : (modStrand s c g).hostRate = s.hostRate := by cases c <;> rfl
@[simp] theorem modStrand_flitSeq (s : State) (c : CoreId) (g : Strand → Strand) : (modStrand s c g).flitSeq = s.flitSeq := by cases c <;> rfl
@[simp] theorem modStrand_colls (s : State) (c : CoreId) (g : Strand → Strand) : (modStrand s c g).colls = s.colls := by cases c <;> rfl
@[simp] theorem modStrand_misroute (s : State) (c : CoreId) (g : Strand → Strand) : (modStrand s c g).misroute = s.misroute := by cases c <;> rfl
@[simp] theorem modStrand_stale (s : State) (c : CoreId) (g : Strand → Strand) : (modStrand s c g).stale = s.stale := by cases c <;> rfl
@[simp] theorem modStrand_eccCorrected (s : State) (c : CoreId) (g : Strand → Strand) : (modStrand s c g).eccCorrected = s.eccCorrected := by cases c <;> rfl
@[simp] theorem modStrand_eccUncorrected (s : State) (c : CoreId) (g : Strand → Strand) : (modStrand s c g).eccUncorrected = s.eccUncorrected := by cases c <;> rfl
@[simp] theorem modStrand_boot (s : State) (c : CoreId) (g : Strand → Strand) : (modStrand s c g).boot = s.boot := by cases c <;> rfl
@[simp] theorem modStrand_idleClocks (s : State) (c : CoreId) (g : Strand → Strand) : (modStrand s c g).idleClocks = s.idleClocks := by cases c <;> rfl
@[simp] theorem modStrand_mcLog (s : State) (c : CoreId) (g : Strand → Strand) : (modStrand s c g).mcLog = s.mcLog := by cases c <;> rfl
@[simp] theorem modStrand_reports (s : State) (c : CoreId) (g : Strand → Strand) : (modStrand s c g).reports = s.reports := by cases c <;> rfl
@[simp] theorem modStrand_boxIdle (s : State) (c : CoreId) (g : Strand → Strand) : (modStrand s c g).boxIdle = s.boxIdle := by cases c <;> rfl
@[simp] theorem modStrand_hostData (s : State) (c : CoreId) (g : Strand → Strand) : (modStrand s c g).hostData = s.hostData := by cases c <;> rfl
@[simp] theorem modStrand_touches (s : State) (c : CoreId) (g : Strand → Strand) : (modStrand s c g).touches = s.touches := by cases c <;> rfl
@[simp] theorem modStrand_acted (s : State) (c : CoreId) (g : Strand → Strand) : (modStrand s c g).acted = s.acted := by cases c <;> rfl
@[simp] theorem modStrand_walkReads (s : State) (c : CoreId) (g : Strand → Strand) : (modStrand s c g).walkReads = s.walkReads := by cases c <;> rfl
@[simp] theorem modStrand_schedule (s : State) (c : CoreId) (g : Strand → Strand) : (modStrand s c g).schedule = s.schedule := by cases c <;> rfl
@[simp] theorem modStrand_cur (s : State) (c : CoreId) (g : Strand → Strand) : (modStrand s c g).cur = s.cur := by cases c <;> rfl
@[simp] theorem modStrand_fresh (s : State) (c : CoreId) (g : Strand → Strand) : (modStrand s c g).fresh = s.fresh := by cases c <;> rfl

/-! ### modCtx -/

theorem modCtx_some (s : State) (n : Nat) (f : Context → Context) (x : Context) (h : tabFind s.ctxs n = some x) :
    modCtx s n f = { s with ctxs := tabPut s.ctxs n (f x) } := by simp [modCtx, h]
@[simp] theorem modCtx_cycle (s : State) (n : Nat) (g : Context → Context) : (modCtx s n g).cycle = s.cycle := by unfold modCtx; split <;> rfl
@[simp] theorem modCtx_leasectl (s : State) (n : Nat) (g : Context → Context) : (modCtx s n g).leasectl = s.leasectl := by unfold modCtx; split <;> rfl
@[simp] theorem modCtx_tiles (s : State) (n : Nat) (g : Context → Context) : (modCtx s n g).tiles = s.tiles := by unfold modCtx; split <;> rfl
@[simp] theorem modCtx_boxes (s : State) (n : Nat) (g : Context → Context) : (modCtx s n g).boxes = s.boxes := by unfold modCtx; split <;> rfl
@[simp] theorem modCtx_boxProgs (s : State) (n : Nat) (g : Context → Context) : (modCtx s n g).boxProgs = s.boxProgs := by unfold modCtx; split <;> rfl
@[simp] theorem modCtx_boxLoads (s : State) (n : Nat) (g : Context → Context) : (modCtx s n g).boxLoads = s.boxLoads := by unfold modCtx; split <;> rfl
@[simp] theorem modCtx_leaseren (s : State) (n : Nat) (g : Context → Context) : (modCtx s n g).leaseren = s.leaseren := by unfold modCtx; split <;> rfl
@[simp] theorem modCtx_atomrace (s : State) (n : Nat) (g : Context → Context) : (modCtx s n g).atomrace = s.atomrace := by unfold modCtx; split <;> rfl
@[simp] theorem modCtx_hostRace (s : State) (n : Nat) (g : Context → Context) : (modCtx s n g).hostRace = s.hostRace := by unfold modCtx; split <;> rfl
@[simp] theorem modCtx_parts (s : State) (n : Nat) (g : Context → Context) : (modCtx s n g).parts = s.parts := by unfold modCtx; split <;> rfl
@[simp] theorem modCtx_vfs (s : State) (n : Nat) (g : Context → Context) : (modCtx s n g).vfs = s.vfs := by unfold modCtx; split <;> rfl
@[simp] theorem modCtx_vfEnable (s : State) (n : Nat) (g : Context → Context) : (modCtx s n g).vfEnable = s.vfEnable := by unfold modCtx; split <;> rfl
@[simp] theorem modCtx_mem (s : State) (n : Nat) (g : Context → Context) : (modCtx s n g).mem = s.mem := by unfold modCtx; split <;> rfl
@[simp] theorem modCtx_ports (s : State) (n : Nat) (g : Context → Context) : (modCtx s n g).ports = s.ports := by unfold modCtx; split <;> rfl
@[simp] theorem modCtx_poison (s : State) (n : Nat) (g : Context → Context) : (modCtx s n g).poison = s.poison := by unfold modCtx; split <;> rfl
@[simp] theorem modCtx_clusterTlb (s : State) (n : Nat) (g : Context → Context) : (modCtx s n g).clusterTlb = s.clusterTlb := by unfold modCtx; split <;> rfl
@[simp] theorem modCtx_prq (s : State) (n : Nat) (g : Context → Context) : (modCtx s n g).prq = s.prq := by unfold modCtx; split <;> rfl
@[simp] theorem modCtx_parkedFaults (s : State) (n : Nat) (g : Context → Context) : (modCtx s n g).parkedFaults = s.parkedFaults := by unfold modCtx; split <;> rfl
@[simp] theorem modCtx_responses (s : State) (n : Nat) (g : Context → Context) : (modCtx s n g).responses = s.responses := by unfold modCtx; split <;> rfl
@[simp] theorem modCtx_answering (s : State) (n : Nat) (g : Context → Context) : (modCtx s n g).answering = s.answering := by unfold modCtx; split <;> rfl
@[simp] theorem modCtx_cmds (s : State) (n : Nat) (g : Context → Context) : (modCtx s n g).cmds = s.cmds := by unfold modCtx; split <;> rfl
@[simp] theorem modCtx_nextCmd (s : State) (n : Nat) (g : Context → Context) : (modCtx s n g).nextCmd = s.nextCmd := by unfold modCtx; split <;> rfl
@[simp] theorem modCtx_lastStatus (s : State) (n : Nat) (g : Context → Context) : (modCtx s n g).lastStatus = s.lastStatus := by unfold modCtx; split <;> rfl
@[simp] theorem modCtx_launchTiles (s : State) (n : Nat) (g : Context → Context) : (modCtx s n g).launchTiles = s.launchTiles := by unfold modCtx; split <;> rfl
@[simp] theorem modCtx_launches (s : State) (n : Nat) (g : Context → Context) : (modCtx s n g).launches = s.launches := by unfold modCtx; split <;> rfl
@[simp] theorem modCtx_nextLaunch (s : State) (n : Nat) (g : Context → Context) : (modCtx s n g).nextLaunch = s.nextLaunch := by unfold modCtx; split <;> rfl
@[simp] theorem modCtx_heap (s : State) (n : Nat) (g : Context → Context) : (modCtx s n g).heap = s.heap := by unfold modCtx; split <;> rfl
@[simp] theorem modCtx_nextHeap (s : State) (n : Nat) (g : Context → Context) : (modCtx s n g).nextHeap = s.nextHeap := by unfold modCtx; split <;> rfl
@[simp] theorem modCtx_saves (s : State) (n : Nat) (g : Context → Context) : (modCtx s n g).saves = s.saves := by unfold modCtx; split <;> rfl
@[simp] theorem modCtx_nextTask (s : State) (n : Nat) (g : Context → Context) : (modCtx s n g).nextTask = s.nextTask := by unfold modCtx; split <;> rfl
@[simp] theorem modCtx_qtbase (s : State) (n : Nat) (g : Context → Context) : (modCtx s n g).qtbase = s.qtbase := by unfold modCtx; split <;> rfl
@[simp] theorem modCtx_hwqs (s : State) (n : Nat) (g : Context → Context) : (modCtx s n g).hwqs = s.hwqs := by unfold modCtx; split <;> rfl
@[simp] theorem modCtx_lastRead (s : State) (n : Nat) (g : Context → Context) : (modCtx s n g).lastRead = s.lastRead := by unfold modCtx; split <;> rfl
@[simp] theorem modCtx_crowded (s : State) (n : Nat) (g : Context → Context) : (modCtx s n g).crowded = s.crowded := by unfold modCtx; split <;> rfl
@[simp] theorem modCtx_tailWrites (s : State) (n : Nat) (g : Context → Context) : (modCtx s n g).tailWrites = s.tailWrites := by unfold modCtx; split <;> rfl
@[simp] theorem modCtx_enWrites (s : State) (n : Nat) (g : Context → Context) : (modCtx s n g).enWrites = s.enWrites := by unfold modCtx; split <;> rfl
@[simp] theorem modCtx_sems (s : State) (n : Nat) (g : Context → Context) : (modCtx s n g).sems = s.sems := by unfold modCtx; split <;> rfl
@[simp] theorem modCtx_shareUsed (s : State) (n : Nat) (g : Context → Context) : (modCtx s n g).shareUsed = s.shareUsed := by unfold modCtx; split <;> rfl
@[simp] theorem modCtx_shareStart (s : State) (n : Nat) (g : Context → Context) : (modCtx s n g).shareStart = s.shareStart := by unfold modCtx; split <;> rfl
@[simp] theorem modCtx_periodStart (s : State) (n : Nat) (g : Context → Context) : (modCtx s n g).periodStart = s.periodStart := by unfold modCtx; split <;> rfl
@[simp] theorem modCtx_clusters (s : State) (n : Nat) (g : Context → Context) : (modCtx s n g).clusters = s.clusters := by unfold modCtx; split <;> rfl
@[simp] theorem modCtx_stackMask (s : State) (n : Nat) (g : Context → Context) : (modCtx s n g).stackMask = s.stackMask := by unfold modCtx; split <;> rfl
@[simp] theorem modCtx_device (s : State) (n : Nat) (g : Context → Context) : (modCtx s n g).device = s.device := by unfold modCtx; split <;> rfl
@[simp] theorem modCtx_fabDown (s : State) (n : Nat) (g : Context → Context) : (modCtx s n g).fabDown = s.fabDown := by unfold modCtx; split <;> rfl
@[simp] theorem modCtx_isaMask (s : State) (n : Nat) (g : Context → Context) : (modCtx s n g).isaMask = s.isaMask := by unfold modCtx; split <;> rfl
@[simp] theorem modCtx_hostWidth (s : State) (n : Nat) (g : Context → Context) : (modCtx s n g).hostWidth = s.hostWidth := by unfold modCtx; split <;> rfl
@[simp] theorem modCtx_hostRate (s : State) (n : Nat) (g : Context → Context) : (modCtx s n g).hostRate = s.hostRate := by unfold modCtx; split <;> rfl
@[simp] theorem modCtx_flitSeq (s : State) (n : Nat) (g : Context → Context) : (modCtx s n g).flitSeq = s.flitSeq := by unfold modCtx; split <;> rfl
@[simp] theorem modCtx_colls (s : State) (n : Nat) (g : Context → Context) : (modCtx s n g).colls = s.colls := by unfold modCtx; split <;> rfl
@[simp] theorem modCtx_misroute (s : State) (n : Nat) (g : Context → Context) : (modCtx s n g).misroute = s.misroute := by unfold modCtx; split <;> rfl
@[simp] theorem modCtx_stale (s : State) (n : Nat) (g : Context → Context) : (modCtx s n g).stale = s.stale := by unfold modCtx; split <;> rfl
@[simp] theorem modCtx_eccCorrected (s : State) (n : Nat) (g : Context → Context) : (modCtx s n g).eccCorrected = s.eccCorrected := by unfold modCtx; split <;> rfl
@[simp] theorem modCtx_eccUncorrected (s : State) (n : Nat) (g : Context → Context) : (modCtx s n g).eccUncorrected = s.eccUncorrected := by unfold modCtx; split <;> rfl
@[simp] theorem modCtx_boot (s : State) (n : Nat) (g : Context → Context) : (modCtx s n g).boot = s.boot := by unfold modCtx; split <;> rfl
@[simp] theorem modCtx_idleClocks (s : State) (n : Nat) (g : Context → Context) : (modCtx s n g).idleClocks = s.idleClocks := by unfold modCtx; split <;> rfl
@[simp] theorem modCtx_mcLog (s : State) (n : Nat) (g : Context → Context) : (modCtx s n g).mcLog = s.mcLog := by unfold modCtx; split <;> rfl
@[simp] theorem modCtx_reports (s : State) (n : Nat) (g : Context → Context) : (modCtx s n g).reports = s.reports := by unfold modCtx; split <;> rfl
@[simp] theorem modCtx_boxIdle (s : State) (n : Nat) (g : Context → Context) : (modCtx s n g).boxIdle = s.boxIdle := by unfold modCtx; split <;> rfl
@[simp] theorem modCtx_hostData (s : State) (n : Nat) (g : Context → Context) : (modCtx s n g).hostData = s.hostData := by unfold modCtx; split <;> rfl
@[simp] theorem modCtx_touches (s : State) (n : Nat) (g : Context → Context) : (modCtx s n g).touches = s.touches := by unfold modCtx; split <;> rfl
@[simp] theorem modCtx_acted (s : State) (n : Nat) (g : Context → Context) : (modCtx s n g).acted = s.acted := by unfold modCtx; split <;> rfl
@[simp] theorem modCtx_walkReads (s : State) (n : Nat) (g : Context → Context) : (modCtx s n g).walkReads = s.walkReads := by unfold modCtx; split <;> rfl
@[simp] theorem modCtx_schedule (s : State) (n : Nat) (g : Context → Context) : (modCtx s n g).schedule = s.schedule := by unfold modCtx; split <;> rfl
@[simp] theorem modCtx_cur (s : State) (n : Nat) (g : Context → Context) : (modCtx s n g).cur = s.cur := by unfold modCtx; split <;> rfl
@[simp] theorem modCtx_fresh (s : State) (n : Nat) (g : Context → Context) : (modCtx s n g).fresh = s.fresh := by unfold modCtx; split <;> rfl

/-! ### Tile.setStrand and Tile.setCoupling -/

@[simp] theorem tile_setStrand_couplings (x : Tile) (q : Nat) (st : Strand) : (x.setStrand q st).couplings = x.couplings := rfl
@[simp] theorem tile_setStrand_given (x : Tile) (q : Nat) (st : Strand) : (x.setStrand q st).given = x.given := rfl
@[simp] theorem tile_setStrand_task (x : Tile) (q : Nat) (st : Strand) : (x.setStrand q st).task = x.task := rfl
@[simp] theorem tile_setStrand_flags (x : Tile) (q : Nat) (st : Strand) : (x.setStrand q st).flags = x.flags := rfl
@[simp] theorem tile_setStrand_settle (x : Tile) (q : Nat) (st : Strand) : (x.setStrand q st).settle = x.settle := rfl
@[simp] theorem tile_setStrand_setNow (x : Tile) (q : Nat) (st : Strand) : (x.setStrand q st).setNow = x.setNow := rfl
@[simp] theorem tile_setStrand_wasSet (x : Tile) (q : Nat) (st : Strand) : (x.setStrand q st).wasSet = x.wasSet := rfl
@[simp] theorem tile_setStrand_wasSettle (x : Tile) (q : Nat) (st : Strand) : (x.setStrand q st).wasSettle = x.wasSettle := rfl
@[simp] theorem tile_setStrand_floors (x : Tile) (q : Nat) (st : Strand) : (x.setStrand q st).floors = x.floors := rfl
@[simp] theorem tile_setStrand_tvec (x : Tile) (q : Nat) (st : Strand) : (x.setStrand q st).tvec = x.tvec := rfl
@[simp] theorem tile_setStrand_leasestall (x : Tile) (q : Nat) (st : Strand) : (x.setStrand q st).leasestall = x.leasestall := rfl
@[simp] theorem tile_setStrand_tlb (x : Tile) (q : Nat) (st : Strand) : (x.setStrand q st).tlb = x.tlb := rfl
@[simp] theorem tile_setStrand_icache (x : Tile) (q : Nat) (st : Strand) : (x.setStrand q st).icache = x.icache := rfl
@[simp] theorem tile_setStrand_fetching (x : Tile) (q : Nat) (st : Strand) : (x.setStrand q st).fetching = x.fetching := rfl
@[simp] theorem tile_setStrand_grants (x : Tile) (q : Nat) (st : Strand) : (x.setStrand q st).grants = x.grants := rfl
@[simp] theorem tile_setStrand_m (x : Tile) (q : Nat) (st : Strand) : (x.setStrand q st).m = x.m := rfl
@[simp] theorem tile_setStrand_mBad (x : Tile) (q : Nat) (st : Strand) : (x.setStrand q st).mBad = x.mBad := rfl
@[simp] theorem tile_setStrand_p (x : Tile) (q : Nat) (st : Strand) : (x.setStrand q st).p = x.p := rfl
@[simp] theorem tile_setStrand_qs (x : Tile) (q : Nat) (st : Strand) : (x.setStrand q st).qs = x.qs := rfl
@[simp] theorem tile_setStrand_ds (x : Tile) (q : Nat) (st : Strand) : (x.setStrand q st).ds = x.ds := rfl
@[simp] theorem tile_setStrand_mx (x : Tile) (q : Nat) (st : Strand) : (x.setStrand q st).mx = x.mx := rfl
@[simp] theorem tile_setStrand_rings (x : Tile) (q : Nat) (st : Strand) : (x.setStrand q st).rings = x.rings := rfl
@[simp] theorem tile_setStrand_preempt (x : Tile) (q : Nat) (st : Strand) : (x.setStrand q st).preempt = x.preempt := rfl
@[simp] theorem tile_setCoupling_strands (x : Tile) (a b n : Nat) : (x.setCoupling a b n).strands = x.strands := rfl
@[simp] theorem tile_setCoupling_given (x : Tile) (a b n : Nat) : (x.setCoupling a b n).given = x.given := rfl
@[simp] theorem tile_setCoupling_task (x : Tile) (a b n : Nat) : (x.setCoupling a b n).task = x.task := rfl
@[simp] theorem tile_setCoupling_flags (x : Tile) (a b n : Nat) : (x.setCoupling a b n).flags = x.flags := rfl
@[simp] theorem tile_setCoupling_settle (x : Tile) (a b n : Nat) : (x.setCoupling a b n).settle = x.settle := rfl
@[simp] theorem tile_setCoupling_setNow (x : Tile) (a b n : Nat) : (x.setCoupling a b n).setNow = x.setNow := rfl
@[simp] theorem tile_setCoupling_wasSet (x : Tile) (a b n : Nat) : (x.setCoupling a b n).wasSet = x.wasSet := rfl
@[simp] theorem tile_setCoupling_wasSettle (x : Tile) (a b n : Nat) : (x.setCoupling a b n).wasSettle = x.wasSettle := rfl
@[simp] theorem tile_setCoupling_floors (x : Tile) (a b n : Nat) : (x.setCoupling a b n).floors = x.floors := rfl
@[simp] theorem tile_setCoupling_tvec (x : Tile) (a b n : Nat) : (x.setCoupling a b n).tvec = x.tvec := rfl
@[simp] theorem tile_setCoupling_leasestall (x : Tile) (a b n : Nat) : (x.setCoupling a b n).leasestall = x.leasestall := rfl
@[simp] theorem tile_setCoupling_tlb (x : Tile) (a b n : Nat) : (x.setCoupling a b n).tlb = x.tlb := rfl
@[simp] theorem tile_setCoupling_icache (x : Tile) (a b n : Nat) : (x.setCoupling a b n).icache = x.icache := rfl
@[simp] theorem tile_setCoupling_fetching (x : Tile) (a b n : Nat) : (x.setCoupling a b n).fetching = x.fetching := rfl
@[simp] theorem tile_setCoupling_grants (x : Tile) (a b n : Nat) : (x.setCoupling a b n).grants = x.grants := rfl
@[simp] theorem tile_setCoupling_m (x : Tile) (a b n : Nat) : (x.setCoupling a b n).m = x.m := rfl
@[simp] theorem tile_setCoupling_mBad (x : Tile) (a b n : Nat) : (x.setCoupling a b n).mBad = x.mBad := rfl
@[simp] theorem tile_setCoupling_p (x : Tile) (a b n : Nat) : (x.setCoupling a b n).p = x.p := rfl
@[simp] theorem tile_setCoupling_qs (x : Tile) (a b n : Nat) : (x.setCoupling a b n).qs = x.qs := rfl
@[simp] theorem tile_setCoupling_ds (x : Tile) (a b n : Nat) : (x.setCoupling a b n).ds = x.ds := rfl
@[simp] theorem tile_setCoupling_mx (x : Tile) (a b n : Nat) : (x.setCoupling a b n).mx = x.mx := rfl
@[simp] theorem tile_setCoupling_rings (x : Tile) (a b n : Nat) : (x.setCoupling a b n).rings = x.rings := rfl
@[simp] theorem tile_setCoupling_preempt (x : Tile) (a b n : Nat) : (x.setCoupling a b n).preempt = x.preempt := rfl

/-! ### Strand.setG and Strand.setA -/

@[simp] theorem strand_setG_run (st : Strand) (r : BitVec 6) (v : Word) : (st.setG r v).run = st.run := by unfold Strand.setG; split <;> rfl
@[simp] theorem strand_setG_mode (st : Strand) (r : BitVec 6) (v : Word) : (st.setG r v).mode = st.mode := by unfold Strand.setG; split <;> rfl
@[simp] theorem strand_setG_pc (st : Strand) (r : BitVec 6) (v : Word) : (st.setG r v).pc = st.pc := by unfold Strand.setG; split <;> rfl
@[simp] theorem strand_setG_a (st : Strand) (r : BitVec 6) (v : Word) : (st.setG r v).a = st.a := by unfold Strand.setG; split <;> rfl
@[simp] theorem strand_setG_waitdef (st : Strand) (r : BitVec 6) (v : Word) : (st.setG r v).waitdef = st.waitdef := by unfold Strand.setG; split <;> rfl
@[simp] theorem strand_setG_fpFlags (st : Strand) (r : BitVec 6) (v : Word) : (st.setG r v).fpFlags = st.fpFlags := by unfold Strand.setG; split <;> rfl
@[simp] theorem strand_setG_fpEn (st : Strand) (r : BitVec 6) (v : Word) : (st.setG r v).fpEn = st.fpEn := by unfold Strand.setG; split <;> rfl
@[simp] theorem strand_setG_rmdyn (st : Strand) (r : BitVec 6) (v : Word) : (st.setG r v).rmdyn = st.rmdyn := by unfold Strand.setG; split <;> rfl
@[simp] theorem strand_setG_tpc (st : Strand) (r : BitVec 6) (v : Word) : (st.setG r v).tpc = st.tpc := by unfold Strand.setG; split <;> rfl
@[simp] theorem strand_setG_tcause (st : Strand) (r : BitVec 6) (v : Word) : (st.setG r v).tcause = st.tcause := by unfold Strand.setG; split <;> rfl
@[simp] theorem strand_setG_tdetail0 (st : Strand) (r : BitVec 6) (v : Word) : (st.setG r v).tdetail0 = st.tdetail0 := by unfold Strand.setG; split <;> rfl
@[simp] theorem strand_setG_tdetail1 (st : Strand) (r : BitVec 6) (v : Word) : (st.setG r v).tdetail1 = st.tdetail1 := by unfold Strand.setG; split <;> rfl
@[simp] theorem strand_setG_trep (st : Strand) (r : BitVec 6) (v : Word) : (st.setG r v).trep = st.trep := by unfold Strand.setG; split <;> rfl
@[simp] theorem strand_setG_tscratch (st : Strand) (r : BitVec 6) (v : Word) : (st.setG r v).tscratch = st.tscratch := by unfold Strand.setG; split <;> rfl
@[simp] theorem strand_setG_nest (st : Strand) (r : BitVec 6) (v : Word) : (st.setG r v).nest = st.nest := by unfold Strand.setG; split <;> rfl
@[simp] theorem strand_setG_ss (st : Strand) (r : BitVec 6) (v : Word) : (st.setG r v).ss = st.ss := by unfold Strand.setG; split <;> rfl
@[simp] theorem strand_setG_tkd (st : Strand) (r : BitVec 6) (v : Word) : (st.setG r v).tkd = st.tkd := by unfold Strand.setG; split <;> rfl
@[simp] theorem strand_setG_pm (st : Strand) (r : BitVec 6) (v : Word) : (st.setG r v).pm = st.pm := by unfold Strand.setG; split <;> rfl
@[simp] theorem strand_setG_errors (st : Strand) (r : BitVec 6) (v : Word) : (st.setG r v).errors = st.errors := by unfold Strand.setG; split <;> rfl
@[simp] theorem strand_setG_takeDone (st : Strand) (r : BitVec 6) (v : Word) : (st.setG r v).takeDone = st.takeDone := by unfold Strand.setG; split <;> rfl
@[simp] theorem strand_setG_wait (st : Strand) (r : BitVec 6) (v : Word) : (st.setG r v).wait = st.wait := by unfold Strand.setG; split <;> rfl
@[simp] theorem strand_setG_pause (st : Strand) (r : BitVec 6) (v : Word) : (st.setG r v).pause = st.pause := by unfold Strand.setG; split <;> rfl
@[simp] theorem strand_setG_wake (st : Strand) (r : BitVec 6) (v : Word) : (st.setG r v).wake = st.wake := by unfold Strand.setG; split <;> rfl
@[simp] theorem strand_setG_rep (st : Strand) (r : BitVec 6) (v : Word) : (st.setG r v).rep = st.rep := by unfold Strand.setG; split <;> rfl
@[simp] theorem strand_setG_park (st : Strand) (r : BitVec 6) (v : Word) : (st.setG r v).park = st.park := by unfold Strand.setG; split <;> rfl
@[simp] theorem strand_setG_dispStep (st : Strand) (r : BitVec 6) (v : Word) : (st.setG r v).dispStep = st.dispStep := by unfold Strand.setG; split <;> rfl
@[simp] theorem strand_setG_granted (st : Strand) (r : BitVec 6) (v : Word) : (st.setG r v).granted = st.granted := by unfold Strand.setG; split <;> rfl
@[simp] theorem strand_setG_under (st : Strand) (r : BitVec 6) (v : Word) : (st.setG r v).under = st.under := by unfold Strand.setG; split <;> rfl
@[simp] theorem strand_setG_staged (st : Strand) (r : BitVec 6) (v : Word) : (st.setG r v).staged = st.staged := by unfold Strand.setG; split <;> rfl
@[simp] theorem strand_setG_step (st : Strand) (r : BitVec 6) (v : Word) : (st.setG r v).step = st.step := by unfold Strand.setG; split <;> rfl
@[simp] theorem strand_setG_pins (st : Strand) (r : BitVec 6) (v : Word) : (st.setG r v).pins = st.pins := by unfold Strand.setG; split <;> rfl
@[simp] theorem strand_setG_making (st : Strand) (r : BitVec 6) (v : Word) : (st.setG r v).making = st.making := by unfold Strand.setG; split <;> rfl
@[simp] theorem strand_setG_met (st : Strand) (r : BitVec 6) (v : Word) : (st.setG r v).met = st.met := by unfold Strand.setG; split <;> rfl
@[simp] theorem strand_setG_walk (st : Strand) (r : BitVec 6) (v : Word) : (st.setG r v).walk = st.walk := by unfold Strand.setG; split <;> rfl
@[simp] theorem strand_setG_spawning (st : Strand) (r : BitVec 6) (v : Word) : (st.setG r v).spawning = st.spawning := by unfold Strand.setG; split <;> rfl
@[simp] theorem strand_setG_going (st : Strand) (r : BitVec 6) (v : Word) : (st.setG r v).going = st.going := by unfold Strand.setG; split <;> rfl
@[simp] theorem strand_setG_entering (st : Strand) (r : BitVec 6) (v : Word) : (st.setG r v).entering = st.entering := by unfold Strand.setG; split <;> rfl
@[simp] theorem strand_setG_lastPc (st : Strand) (r : BitVec 6) (v : Word) : (st.setG r v).lastPc = st.lastPc := by unfold Strand.setG; split <;> rfl
@[simp] theorem strand_setA_run (st : Strand) (r : Nat) (v : Word) : (st.setA r v).run = st.run := rfl
@[simp] theorem strand_setA_mode (st : Strand) (r : Nat) (v : Word) : (st.setA r v).mode = st.mode := rfl
@[simp] theorem strand_setA_pc (st : Strand) (r : Nat) (v : Word) : (st.setA r v).pc = st.pc := rfl
@[simp] theorem strand_setA_g (st : Strand) (r : Nat) (v : Word) : (st.setA r v).g = st.g := rfl
@[simp] theorem strand_setA_waitdef (st : Strand) (r : Nat) (v : Word) : (st.setA r v).waitdef = st.waitdef := rfl
@[simp] theorem strand_setA_fpFlags (st : Strand) (r : Nat) (v : Word) : (st.setA r v).fpFlags = st.fpFlags := rfl
@[simp] theorem strand_setA_fpEn (st : Strand) (r : Nat) (v : Word) : (st.setA r v).fpEn = st.fpEn := rfl
@[simp] theorem strand_setA_rmdyn (st : Strand) (r : Nat) (v : Word) : (st.setA r v).rmdyn = st.rmdyn := rfl
@[simp] theorem strand_setA_tpc (st : Strand) (r : Nat) (v : Word) : (st.setA r v).tpc = st.tpc := rfl
@[simp] theorem strand_setA_tcause (st : Strand) (r : Nat) (v : Word) : (st.setA r v).tcause = st.tcause := rfl
@[simp] theorem strand_setA_tdetail0 (st : Strand) (r : Nat) (v : Word) : (st.setA r v).tdetail0 = st.tdetail0 := rfl
@[simp] theorem strand_setA_tdetail1 (st : Strand) (r : Nat) (v : Word) : (st.setA r v).tdetail1 = st.tdetail1 := rfl
@[simp] theorem strand_setA_trep (st : Strand) (r : Nat) (v : Word) : (st.setA r v).trep = st.trep := rfl
@[simp] theorem strand_setA_tscratch (st : Strand) (r : Nat) (v : Word) : (st.setA r v).tscratch = st.tscratch := rfl
@[simp] theorem strand_setA_nest (st : Strand) (r : Nat) (v : Word) : (st.setA r v).nest = st.nest := rfl
@[simp] theorem strand_setA_ss (st : Strand) (r : Nat) (v : Word) : (st.setA r v).ss = st.ss := rfl
@[simp] theorem strand_setA_tkd (st : Strand) (r : Nat) (v : Word) : (st.setA r v).tkd = st.tkd := rfl
@[simp] theorem strand_setA_pm (st : Strand) (r : Nat) (v : Word) : (st.setA r v).pm = st.pm := rfl
@[simp] theorem strand_setA_errors (st : Strand) (r : Nat) (v : Word) : (st.setA r v).errors = st.errors := rfl
@[simp] theorem strand_setA_takeDone (st : Strand) (r : Nat) (v : Word) : (st.setA r v).takeDone = st.takeDone := rfl
@[simp] theorem strand_setA_wait (st : Strand) (r : Nat) (v : Word) : (st.setA r v).wait = st.wait := rfl
@[simp] theorem strand_setA_pause (st : Strand) (r : Nat) (v : Word) : (st.setA r v).pause = st.pause := rfl
@[simp] theorem strand_setA_wake (st : Strand) (r : Nat) (v : Word) : (st.setA r v).wake = st.wake := rfl
@[simp] theorem strand_setA_rep (st : Strand) (r : Nat) (v : Word) : (st.setA r v).rep = st.rep := rfl
@[simp] theorem strand_setA_park (st : Strand) (r : Nat) (v : Word) : (st.setA r v).park = st.park := rfl
@[simp] theorem strand_setA_dispStep (st : Strand) (r : Nat) (v : Word) : (st.setA r v).dispStep = st.dispStep := rfl
@[simp] theorem strand_setA_granted (st : Strand) (r : Nat) (v : Word) : (st.setA r v).granted = st.granted := rfl
@[simp] theorem strand_setA_under (st : Strand) (r : Nat) (v : Word) : (st.setA r v).under = st.under := rfl
@[simp] theorem strand_setA_staged (st : Strand) (r : Nat) (v : Word) : (st.setA r v).staged = st.staged := rfl
@[simp] theorem strand_setA_step (st : Strand) (r : Nat) (v : Word) : (st.setA r v).step = st.step := rfl
@[simp] theorem strand_setA_pins (st : Strand) (r : Nat) (v : Word) : (st.setA r v).pins = st.pins := rfl
@[simp] theorem strand_setA_making (st : Strand) (r : Nat) (v : Word) : (st.setA r v).making = st.making := rfl
@[simp] theorem strand_setA_met (st : Strand) (r : Nat) (v : Word) : (st.setA r v).met = st.met := rfl
@[simp] theorem strand_setA_walk (st : Strand) (r : Nat) (v : Word) : (st.setA r v).walk = st.walk := rfl
@[simp] theorem strand_setA_spawning (st : Strand) (r : Nat) (v : Word) : (st.setA r v).spawning = st.spawning := rfl
@[simp] theorem strand_setA_going (st : Strand) (r : Nat) (v : Word) : (st.setA r v).going = st.going := rfl
@[simp] theorem strand_setA_entering (st : Strand) (r : Nat) (v : Word) : (st.setA r v).entering = st.entering := rfl
@[simp] theorem strand_setA_lastPc (st : Strand) (r : Nat) (v : Word) : (st.setA r v).lastPc = st.lastPc := rfl

/-! ### acts -/

@[simp] theorem acts_cycle (s : State) (c : CoreId) : (acts s c).cycle = s.cycle := by unfold acts; split <;> rfl
@[simp] theorem acts_leasectl (s : State) (c : CoreId) : (acts s c).leasectl = s.leasectl := by unfold acts; split <;> rfl
@[simp] theorem acts_tiles (s : State) (c : CoreId) : (acts s c).tiles = s.tiles := by unfold acts; split <;> rfl
@[simp] theorem acts_boxes (s : State) (c : CoreId) : (acts s c).boxes = s.boxes := by unfold acts; split <;> rfl
@[simp] theorem acts_boxProgs (s : State) (c : CoreId) : (acts s c).boxProgs = s.boxProgs := by unfold acts; split <;> rfl
@[simp] theorem acts_boxLoads (s : State) (c : CoreId) : (acts s c).boxLoads = s.boxLoads := by unfold acts; split <;> rfl
@[simp] theorem acts_leaseren (s : State) (c : CoreId) : (acts s c).leaseren = s.leaseren := by unfold acts; split <;> rfl
@[simp] theorem acts_atomrace (s : State) (c : CoreId) : (acts s c).atomrace = s.atomrace := by unfold acts; split <;> rfl
@[simp] theorem acts_hostRace (s : State) (c : CoreId) : (acts s c).hostRace = s.hostRace := by unfold acts; split <;> rfl
@[simp] theorem acts_ctxs (s : State) (c : CoreId) : (acts s c).ctxs = s.ctxs := by unfold acts; split <;> rfl
@[simp] theorem acts_parts (s : State) (c : CoreId) : (acts s c).parts = s.parts := by unfold acts; split <;> rfl
@[simp] theorem acts_vfs (s : State) (c : CoreId) : (acts s c).vfs = s.vfs := by unfold acts; split <;> rfl
@[simp] theorem acts_vfEnable (s : State) (c : CoreId) : (acts s c).vfEnable = s.vfEnable := by unfold acts; split <;> rfl
@[simp] theorem acts_mem (s : State) (c : CoreId) : (acts s c).mem = s.mem := by unfold acts; split <;> rfl
@[simp] theorem acts_ports (s : State) (c : CoreId) : (acts s c).ports = s.ports := by unfold acts; split <;> rfl
@[simp] theorem acts_poison (s : State) (c : CoreId) : (acts s c).poison = s.poison := by unfold acts; split <;> rfl
@[simp] theorem acts_clusterTlb (s : State) (c : CoreId) : (acts s c).clusterTlb = s.clusterTlb := by unfold acts; split <;> rfl
@[simp] theorem acts_prq (s : State) (c : CoreId) : (acts s c).prq = s.prq := by unfold acts; split <;> rfl
@[simp] theorem acts_parkedFaults (s : State) (c : CoreId) : (acts s c).parkedFaults = s.parkedFaults := by unfold acts; split <;> rfl
@[simp] theorem acts_responses (s : State) (c : CoreId) : (acts s c).responses = s.responses := by unfold acts; split <;> rfl
@[simp] theorem acts_answering (s : State) (c : CoreId) : (acts s c).answering = s.answering := by unfold acts; split <;> rfl
@[simp] theorem acts_cmds (s : State) (c : CoreId) : (acts s c).cmds = s.cmds := by unfold acts; split <;> rfl
@[simp] theorem acts_nextCmd (s : State) (c : CoreId) : (acts s c).nextCmd = s.nextCmd := by unfold acts; split <;> rfl
@[simp] theorem acts_lastStatus (s : State) (c : CoreId) : (acts s c).lastStatus = s.lastStatus := by unfold acts; split <;> rfl
@[simp] theorem acts_launchTiles (s : State) (c : CoreId) : (acts s c).launchTiles = s.launchTiles := by unfold acts; split <;> rfl
@[simp] theorem acts_launches (s : State) (c : CoreId) : (acts s c).launches = s.launches := by unfold acts; split <;> rfl
@[simp] theorem acts_nextLaunch (s : State) (c : CoreId) : (acts s c).nextLaunch = s.nextLaunch := by unfold acts; split <;> rfl
@[simp] theorem acts_heap (s : State) (c : CoreId) : (acts s c).heap = s.heap := by unfold acts; split <;> rfl
@[simp] theorem acts_nextHeap (s : State) (c : CoreId) : (acts s c).nextHeap = s.nextHeap := by unfold acts; split <;> rfl
@[simp] theorem acts_saves (s : State) (c : CoreId) : (acts s c).saves = s.saves := by unfold acts; split <;> rfl
@[simp] theorem acts_nextTask (s : State) (c : CoreId) : (acts s c).nextTask = s.nextTask := by unfold acts; split <;> rfl
@[simp] theorem acts_qtbase (s : State) (c : CoreId) : (acts s c).qtbase = s.qtbase := by unfold acts; split <;> rfl
@[simp] theorem acts_hwqs (s : State) (c : CoreId) : (acts s c).hwqs = s.hwqs := by unfold acts; split <;> rfl
@[simp] theorem acts_lastRead (s : State) (c : CoreId) : (acts s c).lastRead = s.lastRead := by unfold acts; split <;> rfl
@[simp] theorem acts_crowded (s : State) (c : CoreId) : (acts s c).crowded = s.crowded := by unfold acts; split <;> rfl
@[simp] theorem acts_tailWrites (s : State) (c : CoreId) : (acts s c).tailWrites = s.tailWrites := by unfold acts; split <;> rfl
@[simp] theorem acts_enWrites (s : State) (c : CoreId) : (acts s c).enWrites = s.enWrites := by unfold acts; split <;> rfl
@[simp] theorem acts_sems (s : State) (c : CoreId) : (acts s c).sems = s.sems := by unfold acts; split <;> rfl
@[simp] theorem acts_shareUsed (s : State) (c : CoreId) : (acts s c).shareUsed = s.shareUsed := by unfold acts; split <;> rfl
@[simp] theorem acts_shareStart (s : State) (c : CoreId) : (acts s c).shareStart = s.shareStart := by unfold acts; split <;> rfl
@[simp] theorem acts_periodStart (s : State) (c : CoreId) : (acts s c).periodStart = s.periodStart := by unfold acts; split <;> rfl
@[simp] theorem acts_clusters (s : State) (c : CoreId) : (acts s c).clusters = s.clusters := by unfold acts; split <;> rfl
@[simp] theorem acts_stackMask (s : State) (c : CoreId) : (acts s c).stackMask = s.stackMask := by unfold acts; split <;> rfl
@[simp] theorem acts_device (s : State) (c : CoreId) : (acts s c).device = s.device := by unfold acts; split <;> rfl
@[simp] theorem acts_fabDown (s : State) (c : CoreId) : (acts s c).fabDown = s.fabDown := by unfold acts; split <;> rfl
@[simp] theorem acts_isaMask (s : State) (c : CoreId) : (acts s c).isaMask = s.isaMask := by unfold acts; split <;> rfl
@[simp] theorem acts_hostWidth (s : State) (c : CoreId) : (acts s c).hostWidth = s.hostWidth := by unfold acts; split <;> rfl
@[simp] theorem acts_hostRate (s : State) (c : CoreId) : (acts s c).hostRate = s.hostRate := by unfold acts; split <;> rfl
@[simp] theorem acts_flitSeq (s : State) (c : CoreId) : (acts s c).flitSeq = s.flitSeq := by unfold acts; split <;> rfl
@[simp] theorem acts_colls (s : State) (c : CoreId) : (acts s c).colls = s.colls := by unfold acts; split <;> rfl
@[simp] theorem acts_misroute (s : State) (c : CoreId) : (acts s c).misroute = s.misroute := by unfold acts; split <;> rfl
@[simp] theorem acts_stale (s : State) (c : CoreId) : (acts s c).stale = s.stale := by unfold acts; split <;> rfl
@[simp] theorem acts_eccCorrected (s : State) (c : CoreId) : (acts s c).eccCorrected = s.eccCorrected := by unfold acts; split <;> rfl
@[simp] theorem acts_eccUncorrected (s : State) (c : CoreId) : (acts s c).eccUncorrected = s.eccUncorrected := by unfold acts; split <;> rfl
@[simp] theorem acts_boot (s : State) (c : CoreId) : (acts s c).boot = s.boot := by unfold acts; split <;> rfl
@[simp] theorem acts_idleClocks (s : State) (c : CoreId) : (acts s c).idleClocks = s.idleClocks := by unfold acts; split <;> rfl
@[simp] theorem acts_mcLog (s : State) (c : CoreId) : (acts s c).mcLog = s.mcLog := by unfold acts; split <;> rfl
@[simp] theorem acts_reports (s : State) (c : CoreId) : (acts s c).reports = s.reports := by unfold acts; split <;> rfl
@[simp] theorem acts_boxIdle (s : State) (c : CoreId) : (acts s c).boxIdle = s.boxIdle := by unfold acts; split <;> rfl
@[simp] theorem acts_hostData (s : State) (c : CoreId) : (acts s c).hostData = s.hostData := by unfold acts; split <;> rfl
@[simp] theorem acts_touches (s : State) (c : CoreId) : (acts s c).touches = s.touches := by unfold acts; split <;> rfl
@[simp] theorem acts_walkReads (s : State) (c : CoreId) : (acts s c).walkReads = s.walkReads := by unfold acts; split <;> rfl
@[simp] theorem acts_schedule (s : State) (c : CoreId) : (acts s c).schedule = s.schedule := by unfold acts; split <;> rfl
@[simp] theorem acts_cur (s : State) (c : CoreId) : (acts s c).cur = s.cur := by unfold acts; split <;> rfl
@[simp] theorem acts_fresh (s : State) (c : CoreId) : (acts s c).fresh = s.fresh := by unfold acts; split <;> rfl
@[simp] theorem acts_getTile (s : State) (c : CoreId) (t : Nat) : getTile (acts s c) t = getTile s t := by simp [getTile]
@[simp] theorem acts_getStrand (s : State) (c d : CoreId) : getStrand (acts s c) d = getStrand s d := by cases d <;> simp [getStrand]

end Sys2Proof.Laws
end

