-- ==== Sys2Proof/Laws/Issue.lean ====
section
/-! SUPPORT. Reading what an update of a tile, a strand or a coupling leaves, and what a word that takes effect does. -/

set_option Elab.async false

namespace Sys2Proof.Laws

open Sys2Proof.Machine

/-! ### Tiles and strands -/

@[simp] theorem getTile_setTile (s : State) (t k : Nat) (x : Tile) :
    getTile (setTile s t x) k = if t = k then x else getTile s k := by
  simp [getTile]

@[simp] theorem getTile_modTile (s : State) (t k : Nat) (f : Tile → Tile) :
    getTile (modTile s t f) k = if t = k then f (getTile s k) else getTile s k := by
  simp only [modTile, getTile_setTile]; split <;> simp_all

@[simp] theorem strand_setStrand (x : Tile) (q p : Nat) (st : Strand) :
    (x.setStrand q st).strand p = if q % 4 = p % 4 then st else x.strand p := by
  simp only [Tile.setStrand, Tile.strand, Vector.getElem_set]

@[simp] theorem strand_setCoupling (x : Tile) (a b n q : Nat) : (x.setCoupling a b n).strand q = x.strand q := rfl

@[simp] theorem coupling_setStrand (x : Tile) (q a b : Nat) (st : Strand) :
    (x.setStrand q st).coupling a b = x.coupling a b := rfl

@[simp] theorem coupling_setCoupling (x : Tile) (a b n d e : Nat) :
    (x.setCoupling a b n).coupling d e = if 4 * a + b = 4 * d + e then n else x.coupling d e := by
  simp [Tile.coupling, Tile.setCoupling]

/-- Two cores are one: tiles number their strands modulo 4. -/
def sameCore : CoreId → CoreId → Bool
  | .tile t q, .tile u p => t == u && q % 4 == p % 4
  | .sbox g, .sbox h => g == h
  | _, _ => false

@[simp] theorem sameCore_self (c : CoreId) : sameCore c c = true := by cases c <;> simp [sameCore]

@[simp] theorem getStrand_setStrand (s : State) (c d : CoreId) (st : Strand) :
    getStrand (setStrand s c st) d = if sameCore c d then st else getStrand s d := by
  cases c <;> cases d <;> simp [getStrand, setStrand, sameCore] <;> (try (split <;> simp_all)) <;> rfl

theorem getStrand_same {c d : CoreId} (h : sameCore c d = true) (s : State) : getStrand s c = getStrand s d := by
  cases c <;> cases d <;> simp_all [getStrand, sameCore, Tile.strand]

@[simp] theorem getStrand_modStrand (s : State) (c d : CoreId) (f : Strand → Strand) :
    getStrand (modStrand s c f) d = if sameCore c d then f (getStrand s d) else getStrand s d := by
  simp only [modStrand, getStrand_setStrand]
  split
  · rename_i h; rw [getStrand_same h]
  · rfl

@[simp] theorem getStrand_modTile_couplings (s : State) (t a b : Nat) (n : Tile → Nat) (d : CoreId) :
    getStrand (modTile s t (fun x => x.setCoupling a b (n x))) d = getStrand s d := by
  cases d
  · rename_i k q
    simp only [getStrand, getTile_modTile]; split <;> simp_all
  · rfl

/-! ### A word that takes effect -/

/-- The take leaves the strand as it is but for `takeDone`. -/
theorem takeToken_strand {s s1 : State} {c : CoreId} {i : Instr} (h : takeToken s c i = .ok s1) :
    ∃ b, getStrand s1 c = { getStrand s c with takeDone := b } := by
  simp only [takeToken] at h
  split at h
  · injection h with h; subst h; exact ⟨_, rfl⟩
  · split at h
    · injection h with h; subst h; exact ⟨_, rfl⟩
    · split at h
      · cases h
      · injection h with h; subst h; exact ⟨true, by simp⟩

/-- The strand of a word that takes effect: its take is done, and it is the last word issued. -/
theorem begun_strand {s u : State} {c : CoreId} {i : Instr} (h : begun s c i = some u) :
    ∃ b, getStrand u c =
      { getStrand s c with takeDone := b, lastPc := (getStrand s c).pc, run := .running } := by
  simp only [begun] at h
  split at h
  · cases h
  · rename_i s1 h1
    split at h
    · cases h
    · injection h with h; subst h
      obtain ⟨b, hb⟩ := takeToken_strand h1
      exact ⟨b, by simp [hb]⟩

/-- Its effect, and then its end. -/
theorem issueWord_issues {s u : State} {c : CoreId} {i : Instr} (h : Issues s c i u) (b : Body) :
    issueWord i b s = finishWord c i (getStrand s c).wait (getStrand s c).lastPc (b c u) := by
  obtain ⟨⟨rfl, h2, h3⟩, h4⟩ := h
  simp only [begun] at h4
  split at h4
  · cases h4
  · rename_i s1 h5
    split at h4
    · cases h4
    · rename_i h6
      injection h4 with h4; subst h4
      obtain ⟨b', hb⟩ := takeToken_strand h5
      simp [issueWord, h2, h3, h5, h6, hb]

/-- Every word of a strand but REP is issued with its effect. -/
theorem exec_bodyOf {i : Instr} {b : Body} (h : bodyOf i = some b) (s : State) : exec i s = issueWord i b s := by
  cases i <;> first | (cases h; rfl) | cases h

/-- A body that retires completes. -/
theorem issues_retire {s u v : State} {c : CoreId} {i : Instr} (h : Issues s c i u) (b : Body) (hb : b c u = .retire v) :
    issueWord i b s = .next (retireWord v s.cur i ((getStrand v s.cur).pc + 8)) := by
  rw [issueWord_issues h, hb, h.1.1]; rfl

/-- A body that jumps. -/
theorem issues_jump {s u v : State} {c : CoreId} {i : Instr} {pc : Word} (h : Issues s c i u) (b : Body)
    (hb : b c u = .jump pc v) : issueWord i b s = .next (retireWord v s.cur i pc) := by
  rw [issueWord_issues h, hb, h.1.1]; rfl

/-- A body that traps. -/
theorem issues_trap {s u v : State} {c : CoreId} {i : Instr} {t : TrapInfo} (h : Issues s c i u) (b : Body)
    (hb : b c u = .trap t v) : issueWord i b s = .next (trapCore v s.cur t) := by
  rw [issueWord_issues h, hb, h.1.1]; rfl

/-- A body that waits. -/
theorem issues_wait {s u v : State} {c : CoreId} {i : Instr} {w : WaitSpec} (h : Issues s c i u) (b : Body)
    (hb : b c u = .wait w v) : issueWord i b s =
      .next (enterWait (modStrand v s.cur (fun st => { st with lastPc := (getStrand s s.cur).lastPc })) s.cur i w
        (getStrand s s.cur).wait) := by
  rw [issueWord_issues h, hb, h.1.1]; rfl

/-- A word that takes effect finds the G registers as they were. -/
theorem begun_getG {s u : State} {c : CoreId} {i : Instr} (h : Issues s c i u) (r : BitVec 6) :
    (getStrand u c).getG r = (getStrand s c).getG r := by
  obtain ⟨b, hb⟩ := begun_strand h.2; rw [hb]; rfl

/-- A word that takes effect finds the A registers as they were. -/
theorem begun_getA {s u : State} {c : CoreId} {i : Instr} (h : Issues s c i u) (r : Nat) :
    (getStrand u c).getA r = (getStrand s c).getA r := by
  obtain ⟨b, hb⟩ := begun_strand h.2; rw [hb]; rfl

/-- A word that takes effect stands at the program counter it had. -/
theorem begun_pc {s u : State} {c : CoreId} {i : Instr} (h : Issues s c i u) :
    (getStrand u c).pc = (getStrand s c).pc := by
  obtain ⟨b, hb⟩ := begun_strand h.2; rw [hb]

/-- A word whose effect retires completes. -/
theorem completes_of {s u v : State} {c : CoreId} {i : Instr} {b : Body} (h : Issues s c i u) (hb : bodyOf i = some b)
    (h1 : b c u = .retire v) : Completes s i v := by
  unfold Completes; rw [exec_bodyOf hb, issues_retire h b h1]

/-- A word whose effect jumps. -/
theorem jumps_of {s u v : State} {c : CoreId} {i : Instr} {b : Body} {pc : Word} (h : Issues s c i u)
    (hb : bodyOf i = some b) (h1 : b c u = .jump pc v) : JumpsTo s i pc v := by
  unfold JumpsTo; rw [exec_bodyOf hb, issues_jump h b h1]

/-- A word whose effect traps. -/
theorem traps_of {s u v : State} {c : CoreId} {i : Instr} {b : Body} {n : Nat} {d0 d1 : Word} (h : Issues s c i u)
    (hb : bodyOf i = some b) (h1 : b c u = .trap { cond := n, d0 := d0, d1 := d1 } v) : Traps s i n d0 d1 v := by
  unfold Traps; rw [exec_bodyOf hb, issues_trap h b h1]

/-- A word whose effect waits. -/
theorem waits_of {s u v : State} {c : CoreId} {i : Instr} {b : Body} {w : WaitSpec} (h : Issues s c i u)
    (hb : bodyOf i = some b) (h1 : b c u = .wait w v) : Waits s i w v := by
  unfold Waits; rw [exec_bodyOf hb, issues_wait h b h1]

/-- The checks of a word that is reached accept its fields. -/
theorem reaches_fieldsOk {s : State} {c : CoreId} {i : Instr} {b : Body} (h : Reaches s c i) (hb : bodyOf i = some b) :
    fieldsOk i = true := by
  have h := h.2.2
  cases i <;> first
    | (cases hb; done)
    | (simp only [decodeTrap] at h
       split at h
       · cases h
       · split at h
         · cases h
         · split at h
           · cases h
           · rename_i h'; simp only [Bool.or_eq_true, not_or, Bool.not_eq_true', Bool.not_eq_false] at h'; exact h'.1)

/-- A word ends as its effect says. -/
theorem ends_of {s u : State} {c : CoreId} {i : Instr} {b : Body} {r : Res} (h : Issues s c i u) (hb : bodyOf i = some b)
    (h1 : b c u = r) : EndsAs s i r := by
  unfold EndsAs; rw [exec_bodyOf hb, issueWord_issues h, h1, h.1.1]

/-- A word whose results raise flags ends with them. -/
theorem flags_of {s u v : State} {c : CoreId} {i : Instr} {b : Body} {fl : BitVec 6} (h : Issues s c i u) (hb : bodyOf i = some b)
    (h1 : b c u = flagsDone v c fl) : EndsWithFlags s i v fl := by
  have hc := h.1.1
  subst hc
  refine ⟨?_, ?_⟩
  · intro h2
    refine completes_of h hb ?_
    rw [h1]; exact if_neg (fun h3 => h3 h2)
  · intro h2
    have h3 : flagsDone v s.cur fl = .after { cond := 28, d0 := fl.zeroExtend 64 } (orFlags v s.cur fl) := if_pos h2
    rw [exec_bodyOf hb, issueWord_issues h, h1, h3]; rfl

end Sys2Proof.Laws
end

