-- ==== Sys2Proof/Laws/Line.lean ====
section
/-! SUPPORT. Lines of M: what writing cells leaves in every cell (R116, R117). -/

set_option Elab.async false

namespace Sys2Proof.Laws

open Sys2Proof.Machine

/-- The element of a line built element by element. -/
theorem lineGet_gen (f : Nat → Slot) (i : Nat) (h : i < 64) : lineGet (lineGen f) i = f i := by
  simp [lineGet, lineGen, Nat.mod_eq_of_lt h]

/-- The element of a line after one was set. -/
theorem lineGet_set (l : Line) (i j : Nat) (v : Slot) (h : i % 64 < 64) : lineGet (l.set (i % 64) v h) j = if i % 64 = j % 64 then v else lineGet l j := by
  simp [lineGet, Vector.getElem_set]

/-- The cell of M after one cell was written (R116). -/
theorem mSlot_write (x : Tile) (d r c e a b : Nat) (v : Slot) (hr : r < 64) (ha : a < 64) (hc : c < 64) (hb : b < 64) :
    mSlot (writeSlot x d r c v) e a b = if d = e ∧ r = a ∧ c = b then v else mSlot x e a b := by
  simp only [mSlot, mRow, writeSlot, tabGet_set]
  by_cases h : 64 * d + r = 64 * e + a
  · have h1 : d = e := by omega
    have h2 : r = a := by omega
    subst h1 h2
    simp [lineGet, Nat.mod_eq_of_lt hc, Nat.mod_eq_of_lt hb, Vector.getElem_set]
  · have : ¬ (d = e ∧ r = a ∧ c = b) := by rintro ⟨rfl, rfl, _⟩; exact h rfl
    simp [h, this]

/-- The cells that a line reference names lie in its register (R117). -/
theorem cell_lt (r : MRef) (i : Nat) (hi : i < 64) (h : r.idx < 64) : (mCell r i).1 < 64 ∧ (mCell r i).2 < 64 := by
  unfold mCell; split <;> simp <;> omega

/-- The cell of M after the first `n` cells of a column or a diagonal were written (R117). -/
theorem mSlot_writeCells (r : MRef) (l : Line) (x : Tile) (h : r.idx < 64) (hd : r.dir ≠ 0) (n : Nat) (hn : n ≤ 64) (e a b : Nat) (ha : a < 64) (hb : b < 64) :
    mSlot (writeCells r l n x) e a b = if r.reg = e ∧ a < n ∧ mCell r a = (a, b) then lineGet l a else mSlot x e a b := by
  induction n with
  | zero => simp [writeCells]
  | succ n ih =>
    have hc := cell_lt r n (by omega) h
    simp only [writeCells]
    rw [mSlot_write _ _ _ _ _ _ _ _ hc.1 ha hc.2 hb, ih (by omega)]
    have h1 : (mCell r n).1 = n := by unfold mCell; split <;> simp_all
    by_cases h2 : a = n
    · subst h2
      by_cases h3 : r.reg = e
      · by_cases h4 : (mCell r a).2 = b
        · have : mCell r a = (a, b) := by rw [← h4, Prod.ext_iff]; exact ⟨h1, rfl⟩
          simp [h3, this]
        · have : mCell r a ≠ (a, b) := by intro h5; exact h4 (by rw [h5])
          simp [h4, this]
      · simp [h3]
    · have h3 : ¬ n = a := fun h => h2 h.symm
      by_cases h5 : a < n
      · have : a < n + 1 := by omega
        simp [h1, h3, h5, this]
      · have : ¬ a < n + 1 := by omega
        simp [h1, h3, h5, this]

/-- Writing cells changes M alone. -/
theorem writeCells_rest (r : MRef) (l : Line) (x : Tile) (n : Nat) : { writeCells r l n x with m := x.m } = x := by
  induction n with
  | zero => rfl
  | succ n ih =>
    simp only [writeCells, writeSlot]
    exact ih

end Sys2Proof.Laws
end

