-- ==== Sys2Proof/Laws/Memory.lean ====
section
/-! SUPPORT. What a write to device memory does, a translation, and the canonical form of device memory (R237 to R241). -/

set_option Elab.async false

namespace Sys2Proof.Laws

open Sys2Proof.Machine

/-! ### Stores -/

/-- A store changes memory and nothing else. -/
theorem paStore_eq (s : State) (pa : Nat) (bs : List Byte) : paStore s pa bs = { s with mem := (paStore s pa bs).mem } := by
  induction bs generalizing s pa with
  | nil => rfl
  | cons b bs ih =>
    simp only [paStore]
    rw [ih]
    split <;> rfl

/-- A store keeps the canonical form. -/
theorem paStore_wf {s : State} (pa : Nat) (bs : List Byte) (h : s.mem.wf = true) : (paStore s pa bs).mem.wf = true := by
  induction bs generalizing s pa with
  | nil => exact h
  | cons b bs ih =>
    simp only [paStore]
    split
    · exact ih _ h
    · exact ih (s := { s with mem := Memory.write s.mem pa b }) _ (wf_write pa b h)

/-- The byte at an address after a store: the one stored there, where storage is laid out, and else the byte before. -/
theorem paByte_paStore {s : State} (pa : Nat) (bs : List Byte) (k : Nat) (h : s.mem.wf = true) :
    paByte (paStore s pa bs) k =
      if pa ≤ k ∧ k < pa + bs.length ∧ (isTier2 k = true → tier2Backed s k = true) then bs.getD (k - pa) 0 else paByte s k := by
  induction bs generalizing s pa with
  | nil =>
    rw [if_neg (by simp; omega)]; rfl
  | cons b bs ih =>
    simp only [paStore]
    by_cases hu : (isTier2 pa && !tier2Backed s pa) = true
    · rw [if_pos hu, ih (pa + 1) h]
      by_cases hk : k = pa
      · subst hk
        have hn : ¬ (isTier2 k = true → tier2Backed s k = true) := by
          simp only [Bool.and_eq_true, Bool.not_eq_true'] at hu
          intro h1; simp_all
        rw [if_neg (by omega), if_neg (fun h1 => hn h1.2.2)]
      · by_cases hc : pa + 1 ≤ k ∧ k < pa + 1 + bs.length ∧ (isTier2 k = true → tier2Backed s k = true)
        · rw [if_pos hc, if_pos (by simp only [List.length_cons]; exact ⟨by omega, by omega, hc.2.2⟩)]
          obtain ⟨n, hn⟩ : ∃ n, k - pa = n + 1 := ⟨k - pa - 1, by omega⟩
          rw [hn, show k - (pa + 1) = n by omega]; rfl
        · rw [if_neg hc, if_neg (by simp only [List.length_cons]; intro h1; exact hc ⟨by omega, by omega, h1.2.2⟩)]
    · have he : tier2Backed { s with mem := Memory.write s.mem pa b } k = tier2Backed s k := rfl
      rw [if_neg hu, ih (s := { s with mem := Memory.write s.mem pa b }) (pa + 1) (wf_write pa b h), he]
      by_cases hk : k = pa
      · subst hk
        have hn : isTier2 k = true → tier2Backed s k = true := by
          intro h1; simp only [Bool.and_eq_true, Bool.not_eq_true'] at hu; simp_all
        rw [if_neg (by omega), if_pos (by simp only [List.length_cons]; exact ⟨by omega, by omega, hn⟩)]
        simp only [paByte, he]
        rw [if_neg (by simpa using hn), read_write h]; simp
      · have hb : paByte { s with mem := Memory.write s.mem pa b } k = paByte s k := by
          simp only [paByte, he, read_write h, if_neg (fun h1 => hk (Eq.symm h1))]
        by_cases hc : pa + 1 ≤ k ∧ k < pa + 1 + bs.length ∧ (isTier2 k = true → tier2Backed s k = true)
        · rw [if_pos hc, if_pos (by simp only [List.length_cons]; exact ⟨by omega, by omega, hc.2.2⟩)]
          obtain ⟨n, hn⟩ : ∃ n, k - pa = n + 1 := ⟨k - pa - 1, by omega⟩
          rw [hn, show k - (pa + 1) = n by omega]; rfl
        · rw [if_neg hc, if_neg (by simp only [List.length_cons]; intro h1; exact hc ⟨by omega, by omega, h1.2.2⟩), hb]

/-! ### What a write is noticed as -/

/-- What the monitor notices of a write changes memory, hardware queues and the two lists it keeps. -/
theorem noteQueue_eq (pa n : Nat) (s : State) (q : Nat) : ∃ m h e w, noteQueue pa n s q =
    { s with mem := m, hwqs := h, enWrites := e, tailWrites := w } := by
  have hs : ∀ (s : State) pa bs, ∃ m, paStore s pa bs = { s with mem := m } := fun s pa bs => ⟨_, paStore_eq s pa bs⟩
  have hf : ∃ m h e w, noteQueueFlags s q = { s with mem := m, hwqs := h, enWrites := e, tailWrites := w } := by
    simp only [noteQueueFlags, modHwq]
    obtain ⟨m, hm⟩ := hs s (queueDesc s q + 9) [((paByte s (queueDesc s q + 9)) &&& 0xFD) |||
      (if ((getHwq s q).qerr && !(paByte s (queueDesc s q + 9)).getLsbD 1) = true then 2 else 0)]
    rw [hm]
    split <;> exact ⟨_, _, _, _, rfl⟩
  obtain ⟨m, h, e, w, hf⟩ := hf
  simp only [noteQueue, hf]
  split <;> split <;> split <;>
    first
      | exact ⟨_, _, _, _, rfl⟩
      | (rw [paStore_eq]; exact ⟨_, _, _, _, rfl⟩)

theorem noteQueueFlags_wf {s : State} (q : Nat) (h : s.mem.wf = true) : (noteQueueFlags s q).mem.wf = true := by
  simp only [noteQueueFlags]
  split <;> exact paStore_wf _ _ h

theorem noteQueue_wf {s : State} (pa n q : Nat) (h : s.mem.wf = true) : (noteQueue pa n s q).mem.wf = true := by
  have h1 := noteQueueFlags_wf (s := s) q h
  simp only [noteQueue]
  split <;> split <;> split <;> first | exact paStore_wf _ _ h1 | exact paStore_wf _ _ h | exact h1 | exact h

@[simp] theorem wake_mem (s : State) (c : CoreId) (b : BitVec 6) : (wake s c b).mem = s.mem := by
  simp [wake, modStrand]
@[simp] theorem wakeTile_mem (s : State) (t : Nat) (b : BitVec 6) : (wakeTile s t b).mem = s.mem := rfl

/-- A fold of updates that keep memory keeps it. -/
theorem foldl_mem {α : Type} (f : State → α → State) (h : ∀ s x, (f s x).mem = s.mem) (l : List α) (s : State) :
    (l.foldl f s).mem = s.mem := by
  induction l generalizing s with
  | nil => rfl
  | cons x l ih => simp only [List.foldl_cons, ih, h]

/-- A write to device memory keeps the canonical form. -/
theorem paWrite_wf {s : State} (pa : Nat) (bs : List Byte) (h : s.mem.wf = true) : (paWrite s pa bs).mem.wf = true := by
  have hq : ∀ (l : List Nat) (s : State), s.mem.wf = true → (l.foldl (noteQueue pa bs.length) s).mem.wf = true := by
    intro l
    induction l with
    | nil => exact fun _ h => h
    | cons q l ih => exact fun s h => ih _ (noteQueue_wf pa bs.length q h)
  simp only [paWrite, noteWrite]
  rw [foldl_mem]
  · exact hq _ _ (paStore_wf pa bs h)
  · intro s x
    rw [foldl_mem _ (fun s g => wake_mem s _ _), foldl_mem _ (fun s t => wakeTile_mem s t _)]

/-- Reset memory is in canonical form. -/
theorem reset_wf : State.reset.mem.wf = true := rfl

/-! ### Translations -/

/-- A translation changes translation caches alone. -/
theorem translate_eq (s : State) (t ctx va : Nat) (acc : Access) (m : Mode) :
    ∃ x y, (Machine.translate s t ctx va acc m).2 = { s with tiles := x, clusterTlb := y } := by
  unfold Machine.translate
  dsimp only
  split
  · exact ⟨_, _, rfl⟩
  · split
    · exact ⟨_, _, rfl⟩
    · split <;> exact ⟨_, _, rfl⟩

/-- A translation keeps memory. -/
@[simp] theorem translate_mem (s : State) (t ctx va : Nat) (acc : Access) (m : Mode) : (Machine.translate s t ctx va acc m).2.mem = s.mem := by
  obtain ⟨x, y, h⟩ := translate_eq s t ctx va acc m
  rw [h]

/-! ### Tables and updates that meet -/

/-- A key written twice holds the later value alone. -/
theorem tabPut_put {V : Type} (m : Tab V) (i : Nat) (a b : V) : tabPut (tabPut m i a) i b = tabPut m i b := by
  induction m with
  | nil => simp [tabPut]
  | cons e m ih =>
    obtain ⟨k, w⟩ := e
    simp only [tabPut]
    split
    · simp [tabPut]
    · split
      · simp [tabPut]
      · simp only [tabPut]; rw [if_neg (by assumption), if_neg (by assumption), ih]

theorem setTile_setTile (s : State) (t : Nat) (x y : Tile) : setTile (setTile s t x) t y = setTile s t y := by
  simp only [setTile, tabPut_put]

theorem modTile_modTile (s : State) (t : Nat) (f g : Tile → Tile) :
    modTile (modTile s t f) t g = modTile s t (fun x => g (f x)) := by
  simp only [modTile]
  rw [getTile_setTile, if_pos rfl, setTile_setTile]

end Sys2Proof.Laws
end

