-- ==== Sys2Proof/Tests/Slice0.lean ====
section
/-! SUPPORT. Tests: words of the spec decode, ill-formed terms are refused, single steps give the results the spec
gives, and for each statement states and operands that meet its hypotheses. -/

namespace Sys2Proof.Tests

open Sys2Proof Sys2Proof.Machine

set_option Elab.async false

/-! ### Words (R28, R36) -/

/-- Each word decodes to its instruction, and the instruction is encoded as its word. -/
def bothWays (l : List (Word × Instr)) : Bool :=
  l.all (fun e => (match decode e.1 with | .ok i => i == e.2 | .error _ => false) && encode e.2 == e.1 && e.2.wf)

theorem test_words_flow : bothWays [
    (0x0100000000000006, .nop ⟨0, 0, 0, 0, 0, 6⟩),
    (0x0500600000000006, .jr ⟨0, 6, 0, 0, 0, 6⟩),
    (0x0614600000000006, .jrl ⟨5, 6, 0, 0, 0, 6⟩),
    (0x0B00000000000006, .endTask ⟨0, 0, 0, 0, 0, 6⟩),
    (0x0C00600000000006, .yield ⟨0, 6, 0, 0, 0, 6⟩),
    (0x0280000FFFFFFFE6, .br ⟨8, 0, 0, 4294967294, 6⟩),
    (0x0331870FFFFFFFE6, .bcc ⟨3, 6, 7, 4294967294, 6⟩),
    (0x0431870FFFFFFFE6, .bcall ⟨3, 6, 7, 4294967294, 6⟩),
    (0x0701800FFFFFFFE6, .loop ⟨0, 6, 0, 4294967294, 6⟩),
    (0x085547C800000000, .rep ⟨341, 1, 15, 2, 0⟩),
    (0x0902000FFFFFFFE6, .fork ⟨2, 0, 0, 4294967294, 6⟩),
    (0x0A00000055400006, .rdv ⟨0, 0, 0, 0, 341, 0, 6⟩),
    (0x0D20000500000006, .tkgive ⟨2, 0, 0, 5, 0, 0, 6⟩),
    (0x0E20000555400006, .tktake ⟨2, 0, 0, 5, 341, 0, 6⟩),
    (0x0FA0140000000006, .tkcnt ⟨10, 0, 5, 0, 0, 0, 6⟩)] = true := by decide +kernel

theorem test_words_register : bothWays [
    (0x101461C001000006, .add ⟨5, 6, 7, 0, 1, 6⟩),
    (0x111461C001000006, .sub ⟨5, 6, 7, 0, 1, 6⟩),
    (0x121461C001000006, .mul ⟨5, 6, 7, 0, 1, 6⟩),
    (0x131461C003000006, .mulh ⟨5, 6, 7, 0, 3, 6⟩),
    (0x141461C003000006, .div ⟨5, 6, 7, 0, 3, 6⟩),
    (0x151461C003000006, .rem ⟨5, 6, 7, 0, 3, 6⟩),
    (0x161461C001000006, .and ⟨5, 6, 7, 0, 1, 6⟩),
    (0x171461C001000006, .or ⟨5, 6, 7, 0, 1, 6⟩),
    (0x181461C001000006, .xor ⟨5, 6, 7, 0, 1, 6⟩),
    (0x191461C001000006, .shl ⟨5, 6, 7, 0, 1, 6⟩),
    (0x1A1461C001000006, .shr ⟨5, 6, 7, 0, 1, 6⟩),
    (0x1B1461C001000006, .sar ⟨5, 6, 7, 0, 1, 6⟩),
    (0x1C1461C003000006, .min ⟨5, 6, 7, 0, 3, 6⟩),
    (0x1D1461C003000006, .max ⟨5, 6, 7, 0, 3, 6⟩),
    (0x1E1461C007000006, .setcc ⟨5, 6, 7, 0, 7, 6⟩),
    (0x1F1461C800000006, .sel ⟨5, 6, 7, 8, 0, 6⟩)] = true := by decide +kernel

theorem test_words_immediate : bothWays [
    (0x2014680000000126, .addi ⟨5, 6, 549755813906, 6⟩),
    (0x2114680000000126, .andi ⟨5, 6, 549755813906, 6⟩),
    (0x2214680000000126, .ori ⟨5, 6, 549755813906, 6⟩),
    (0x2314680000000126, .xori ⟨5, 6, 549755813906, 6⟩),
    (0x24146000000003F6, .shli ⟨5, 6, 63, 6⟩),
    (0x25146000000003F6, .shri ⟨5, 6, 63, 6⟩),
    (0x26146000000003F6, .sari ⟨5, 6, 63, 6⟩),
    (0x2714678000000016, .setcci ⟨5, 6, 515396075521, 6⟩),
    (0x2814080000000126, .limm ⟨5, 0, 549755813906, 6⟩),
    (0x291400000ABCDEF6, .limmh ⟨5, 0, 11259375, 6⟩),
    (0x2A14600000000006, .clz ⟨5, 6, 0, 0, 0, 6⟩),
    (0x2B14600000000006, .popc ⟨5, 6, 0, 0, 0, 6⟩)] = true := by decide +kernel

theorem test_words_address_and_csr : bothWays [
    (0x319661C00F000006, .aoff ⟨37, 38, 7, 0, 15, 6⟩),
    (0x3316600000000006, .agets ⟨5, 38, 0, 0, 0, 6⟩),
    (0x3416600000000006, .ageto ⟨5, 38, 0, 0, 0, 6⟩),
    (0x3094080000000126, .amake ⟨37, 0, 549755813906, 6⟩),
    (0x3296680000000126, .aoffi ⟨37, 38, 549755813906, 6⟩),
    (0x3514000000000126, .csrr ⟨5, 0, 18, 6⟩),
    (0x361460000000FFF6, .csrw ⟨5, 6, 4095, 6⟩),
    (0x371460000000FFF6, .csrset ⟨5, 6, 4095, 6⟩),
    (0x381460000000FFF6, .csrclr ⟨5, 6, 4095, 6⟩)] = true := by decide +kernel

theorem test_words_segment : bothWays [
    (0x401646C955600086, .ld ⟨5, 9, 6, 3, 2, 1, 341, 131080, 6⟩),
    (0x411646CA55600086, .st ⟨5, 9, 6, 3, 2, 2, 341, 131080, 6⟩),
    (0x4279149C55600086, .ldl ⟨7, 9, 5, 156, 341, 131080, 6⟩),
    (0x4379149C55600086, .stl ⟨7, 9, 5, 156, 341, 131080, 6⟩),
    (0x449661C000000006, .scopy ⟨37, 38, 7, 0, 0, 6⟩),
    (0x459401C000000006, .szero ⟨37, 0, 7, 0, 0, 6⟩),
    (0x460061C800000006, .salloc ⟨0, 6, 7, 8, 0, 6⟩),
    (0x4700600000000006, .sfree ⟨0, 6, 0, 0, 0, 6⟩),
    (0x480061C000000006, .sgrow ⟨0, 6, 7, 0, 0, 6⟩),
    (0x490061C000000006, .sattr ⟨0, 6, 7, 0, 0, 6⟩),
    (0x4A14600002000006, .squery ⟨5, 6, 0, 0, 2, 6⟩),
    (0x4B00600000000006, .srecall ⟨0, 6, 0, 0, 0, 6⟩),
    (0x4C00600000000006, .spush ⟨0, 6, 0, 0, 0, 6⟩)] = true := by decide +kernel

theorem test_words_queue_and_move : bothWays [
    (0x507917FF55600086, .qrd ⟨7, 9, 5, 1023, 341, 131080, 6⟩),
    (0x5139140155600086, .qwr ⟨3, 9, 5, 1, 341, 131080, 6⟩),
    (0x52B0140100000006, .qcnt ⟨11, 0, 5, 1, 0, 0, 6⟩),
    (0x5334148200000F06, .movl ⟨833, 1154, 0, 0, 0, 3, 1, 1, 0, 6⟩),
    (0x5434148203F00F06, .bcast ⟨833, 1154, 63, 0, 0, 3, 1, 1, 0, 6⟩),
    (0x5501F48203FA0006, .extr ⟨31, 1154, 63, 10, 0, 0, 0, 0, 0, 6⟩),
    (0x5634148203F00006, .ins ⟨833, 1154, 63, 0, 0, 0, 0, 0, 0, 6⟩),
    (0x5734148250300F26, .limml ⟨833, 1154, 1283, 0, 0, 3, 1, 1, 2, 6⟩)] = true := by decide +kernel

theorem test_words_float : bothWays [
    (0x603414825034CF06, .fadd ⟨833, 1154, 1283, 4, 6, 3, 1, 1, 0, 6⟩),
    (0x613414825034CF06, .fsub ⟨833, 1154, 1283, 4, 6, 3, 1, 1, 0, 6⟩),
    (0x623414825034CF06, .fmul ⟨833, 1154, 1283, 4, 6, 3, 1, 1, 0, 6⟩),
    (0x633414825034CF06, .fma ⟨833, 1154, 1283, 4, 6, 3, 1, 1, 0, 6⟩),
    (0x6434148250330F06, .fmax ⟨833, 1154, 1283, 3, 0, 3, 1, 1, 0, 6⟩),
    (0x6534148250330F06, .fmin ⟨833, 1154, 1283, 3, 0, 3, 1, 1, 0, 6⟩),
    (0x6634148200020F06, .fabs ⟨833, 1154, 0, 2, 0, 3, 1, 1, 0, 6⟩),
    (0x6734148200020F06, .fneg ⟨833, 1154, 0, 2, 0, 3, 1, 1, 0, 6⟩),
    (0x6834148200014F06, .fexp2 ⟨833, 1154, 0, 1, 2, 3, 1, 1, 0, 6⟩),
    (0x6934148200014F06, .flog2 ⟨833, 1154, 0, 1, 2, 3, 1, 1, 0, 6⟩),
    (0x6A34148200014F06, .frcp ⟨833, 1154, 0, 1, 2, 3, 1, 1, 0, 6⟩),
    (0x6B34148200014F06, .frsq ⟨833, 1154, 0, 1, 2, 3, 1, 1, 0, 6⟩),
    (0x6C341482000A4F86, .fcvt ⟨833, 1154, 0, 10, 2, 3, 1, 1, 8, 6⟩),
    (0x6D3414825034CF06, .fscale ⟨833, 1154, 1283, 4, 6, 3, 1, 1, 0, 6⟩)] = true := by decide +kernel

theorem test_words_integer : bothWays [
    (0x7034148250380F16, .iadd ⟨833, 1154, 1283, 8, 0, 3, 1, 1, 1, 6⟩),
    (0x7134148250380F16, .isub ⟨833, 1154, 1283, 8, 0, 3, 1, 1, 1, 6⟩),
    (0x7234148250380F16, .imul ⟨833, 1154, 1283, 8, 0, 3, 1, 1, 1, 6⟩),
    (0x7334148250380F16, .imad ⟨833, 1154, 1283, 8, 0, 3, 1, 1, 1, 6⟩),
    (0x7434148250350F06, .iand ⟨833, 1154, 1283, 5, 0, 3, 1, 1, 0, 6⟩),
    (0x7534148250350F06, .ior ⟨833, 1154, 1283, 5, 0, 3, 1, 1, 0, 6⟩),
    (0x7634148250350F06, .ixor ⟨833, 1154, 1283, 5, 0, 3, 1, 1, 0, 6⟩),
    (0x7734148250380F16, .ishl ⟨833, 1154, 1283, 8, 0, 3, 1, 1, 1, 6⟩),
    (0x7834148250350F06, .ishr ⟨833, 1154, 1283, 5, 0, 3, 1, 1, 0, 6⟩),
    (0x7934148250350F06, .imin ⟨833, 1154, 1283, 5, 0, 3, 1, 1, 0, 6⟩),
    (0x7A34148250350F06, .imax ⟨833, 1154, 1283, 5, 0, 3, 1, 1, 0, 6⟩),
    (0x7B00748250340F76, .fcmp ⟨7, 1154, 1283, 4, 0, 3, 1, 1, 7, 6⟩),
    (0x7C00748250360F56, .icmp ⟨7, 1154, 1283, 6, 0, 3, 1, 1, 5, 6⟩),
    (0x7D00701F00000096, .pset ⟨7, 31, 0, 0, 0, 0, 0, 0, 9, 6⟩),
    (0x7E34148250300F06, .psel ⟨833, 1154, 1283, 0, 0, 3, 1, 1, 0, 6⟩)] = true := by decide +kernel

theorem test_words_reduction : bothWays [
    (0x8034148200050F16, .redsum ⟨833, 1154, 0, 5, 0, 3, 1, 1, 1, 6⟩),
    (0x8134148200080F06, .redmax ⟨833, 1154, 0, 8, 0, 3, 1, 1, 0, 6⟩),
    (0x8234148200080F06, .redmin ⟨833, 1154, 0, 8, 0, 3, 1, 1, 0, 6⟩),
    (0x8334148200050F16, .scanadd ⟨833, 1154, 0, 5, 0, 3, 1, 1, 1, 6⟩),
    (0x8434148250300F06, .perm ⟨833, 1154, 1283, 0, 0, 3, 1, 1, 0, 6⟩),
    (0x8534148200090F86, .bppack ⟨833, 1154, 0, 9, 0, 3, 1, 1, 8, 6⟩),
    (0x8634148200290F26, .bpunp ⟨833, 1154, 2, 9, 0, 3, 1, 1, 2, 6⟩),
    (0x8734100000000F06, .osminit ⟨833, 0, 0, 0, 0, 3, 1, 1, 0, 6⟩),
    (0x883414820000CF06, .osmx ⟨833, 1154, 0, 0, 6, 3, 1, 1, 0, 6⟩)] = true := by decide +kernel

theorem test_words_matrix : bothWays [
    (0x9009414055640116, .mldw ⟨0, 9, 4, 5, 0, 341, 9, 0, 17, 6⟩),
    (0x9100000055400006, .mswap ⟨0, 0, 0, 0, 0, 341, 0, 0, 0, 6⟩),
    (0x923901405540C006, .mstream ⟨3, 9, 0, 5, 0, 341, 0, 3, 0, 6⟩),
    (0x9339400055508006, .mrank1 ⟨3, 9, 4, 0, 0, 341, 4, 2, 0, 6⟩),
    (0x9430000055400006, .acczero ⟨3, 0, 0, 0, 0, 341, 0, 0, 0, 6⟩),
    (0x9539014055480056, .accrd ⟨3, 9, 0, 5, 0, 341, 2, 0, 5, 6⟩),
    (0x9639014055410006, .accwr ⟨3, 9, 0, 5, 0, 341, 0, 4, 0, 6⟩),
    (0x9730000055400006, .accpin ⟨3, 0, 0, 0, 0, 341, 0, 0, 0, 6⟩),
    (0x9830000055400006, .accunpin ⟨3, 0, 0, 0, 0, 341, 0, 0, 0, 6⟩),
    (0x9939000055400016, .accspill ⟨3, 9, 0, 0, 0, 341, 0, 0, 1, 6⟩),
    (0x9939014055400036, .accspillOther ⟨3, 9, 0, 5, 0, 341, 0, 0, 3, 6⟩),
    (0x9A39000055400006, .accfill ⟨3, 9, 0, 0, 0, 341, 0, 0, 0, 6⟩),
    (0x9A39014055400026, .accfillOther ⟨3, 9, 0, 5, 0, 341, 0, 0, 2, 6⟩),
    (0x9B39414055400806, .gdelta ⟨3, 9, 4, 5, 0, 341, 0, 0, 128, 6⟩),
    (0x9C304140554000B6, .gdread ⟨3, 0, 4, 5, 0, 341, 0, 0, 11, 6⟩)] = true := by decide +kernel

theorem test_words_engine : bothWays [
    (0xA089140155600086, .ecmd ⟨8, 9, 5, 1, 341, 131080, 6⟩),
    (0xA100004555400006, .ewait ⟨0, 0, 0, 69, 341, 0, 6⟩),
    (0xA200144555400006, .epoll ⟨0, 0, 5, 69, 341, 0, 6⟩),
    (0xA309940055600086, .elink ⟨0, 9, 37, 0, 341, 131080, 6⟩),
    (0xA49903FF55600086, .ekick ⟨9, 9, 0, 1023, 341, 131080, 6⟩),
    (0xA530140055400006, .eqstat ⟨3, 0, 5, 0, 341, 0, 6⟩),
    (0xA609940155600086, .spawnSeg ⟨0, 9, 37, 1, 341, 131080, 6⟩),
    (0xA619140155600086, .spawnVa ⟨1, 9, 5, 1, 341, 131080, 6⟩),
    (0xA700003F55400006, .withdraw ⟨0, 0, 0, 63, 341, 0, 6⟩),
    (0xA814600005000006, .ttread ⟨5, 6, 0, 0, 5, 6⟩),
    (0xA914600000000006, .skewack ⟨5, 6, 0, 0, 0, 6⟩)] = true := by decide +kernel

theorem test_words_device_memory : bothWays [
    (0xB01461F240200086, .ldg ⟨5, 6, 7, 3, 2, 1, 0, 0, 131080, 6⟩),
    (0xB11461C280200086, .stg ⟨5, 6, 7, 0, 2, 2, 0, 0, 131080, 6⟩),
    (0xB21461E0C2A00086, .atg ⟨5, 6, 7, 2, 0, 3, 0, 10, 131080, 6⟩),
    (0xB30061C200200086, .prefg ⟨0, 6, 7, 0, 2, 0, 0, 0, 131080, 6⟩),
    (0xB400000028000006, .fence ⟨0, 0, 0, 0, 0, 0, 5, 0, 0, 6⟩)] = true := by decide +kernel

theorem test_words_synchronisation : bothWays [
    (0xC01646AB55600086, .atl ⟨5, 9, 6, 2, 10, 3, 341, 131080, 6⟩),
    (0xC19003FF55400006, .sempost ⟨9, 0, 0, 1023, 341, 0, 6⟩),
    (0xC29003FF55400006, .semwait ⟨9, 0, 0, 1023, 341, 0, 6⟩),
    (0xC39017FF55400006, .semtry ⟨9, 0, 5, 1023, 341, 0, 6⟩),
    (0xC490940055400006, .acqbufP ⟨9, 0, 37, 0, 341, 0, 6⟩),
    (0xC490940155400006, .acqbufC ⟨9, 0, 37, 1, 341, 0, 6⟩),
    (0xC590000055400006, .relbufP ⟨9, 0, 0, 0, 341, 0, 6⟩),
    (0xC590000155400006, .relbufC ⟨9, 0, 0, 1, 341, 0, 6⟩),
    (0xC590140255400006, .relbufSet ⟨9, 0, 5, 2, 341, 0, 6⟩),
    (0xC60014FF55400006, .ringwait ⟨0, 0, 5, 255, 341, 0, 6⟩),
    (0xC70014FF55400006, .ringpost ⟨0, 0, 5, 255, 341, 0, 6⟩),
    (0xC850000055400006, .bar ⟨5, 0, 0, 0, 341, 0, 6⟩)] = true := by decide +kernel

theorem test_words_generator : bothWays [
    (0xD099000055600086, .agset ⟨9, 9, 0, 0, 341, 131080, 6⟩),
    (0xD190140755400006, .agget ⟨9, 0, 5, 7, 341, 0, 6⟩),
    (0xD200140555400006, .slres ⟨0, 0, 5, 5, 341, 0, 6⟩)] = true := by decide +kernel

theorem test_words_system : bothWays [
    (0xF000000800000016, .trap ⟨0, 0, 0, 2147483649, 6⟩),
    (0xF100000000000006, .eret ⟨0, 0, 0, 0, 6⟩),
    (0xF200187000000006, .wfe ⟨0, 6, 7, 0, 6⟩),
    (0xF300187000000006, .tlbinvVa ⟨0, 6, 7, 0, 6⟩),
    (0xF301007000000006, .tlbinvCtx ⟨1, 0, 7, 0, 6⟩),
    (0xF302000000000006, .tlbinvAll ⟨2, 0, 0, 0, 6⟩),
    (0xF400187000000006, .preemptK ⟨0, 6, 7, 0, 6⟩),
    (0xF401187000000006, .preemptR ⟨1, 6, 7, 0, 6⟩),
    (0xF500187000000006, .qkill ⟨0, 6, 7, 0, 6⟩),
    (0xF600187000000006, .preset ⟨0, 6, 7, 0, 6⟩),
    (0xF700187000000006, .semmapMap ⟨0, 6, 7, 0, 6⟩),
    (0xF701187000000006, .semmapUnmap ⟨1, 6, 7, 0, 6⟩),
    (0xF800187000000006, .partsetDef ⟨0, 6, 7, 0, 6⟩),
    (0xF801187000000006, .partsetDel ⟨1, 6, 7, 0, 6⟩),
    (0xF802187000000006, .partsetVfquota ⟨2, 6, 7, 0, 6⟩),
    (0xF803187000000006, .partsetVfused ⟨3, 6, 7, 0, 6⟩),
    (0xF900187000000006, .ctxldLoad ⟨0, 6, 7, 0, 6⟩),
    (0xF901187000000006, .ctxldDestroy ⟨1, 6, 7, 0, 6⟩),
    (0xF902187000000006, .ctxldHold ⟨2, 6, 7, 0, 6⟩),
    (0xF903187000000006, .ctxldRelease ⟨3, 6, 7, 0, 6⟩),
    (0xFA00187000000006, .dbgscanOut ⟨0, 6, 7, 0, 6⟩),
    (0xFA01187000000006, .dbgscanIn ⟨1, 6, 7, 0, 6⟩),
    (0xFA02180000000006, .dbgscanRun ⟨2, 6, 0, 0, 6⟩)] = true := by decide +kernel

/-! ### Ill-formed terms (R28 to R34, R41) -/

/-- None of the terms is well-formed. -/
def allRefused (l : List Instr) : Bool := l.all (fun i => !i.wf)

theorem test_ill_formed_fr : (List.all [
    ((Instr.nop : FR → Instr), (⟨0, 0, 0, 0, 0, 6⟩ : FR)),
    ((Instr.jr : FR → Instr), (⟨0, 6, 0, 0, 0, 6⟩ : FR)),
    ((Instr.jrl : FR → Instr), (⟨5, 6, 0, 0, 0, 6⟩ : FR)),
    ((Instr.endTask : FR → Instr), (⟨0, 0, 0, 0, 0, 6⟩ : FR)),
    ((Instr.yield : FR → Instr), (⟨0, 6, 0, 0, 0, 6⟩ : FR)),
    ((Instr.add : FR → Instr), (⟨5, 6, 7, 0, 1, 6⟩ : FR)),
    ((Instr.sub : FR → Instr), (⟨5, 6, 7, 0, 1, 6⟩ : FR)),
    ((Instr.mul : FR → Instr), (⟨5, 6, 7, 0, 1, 6⟩ : FR)),
    ((Instr.mulh : FR → Instr), (⟨5, 6, 7, 0, 3, 6⟩ : FR)),
    ((Instr.div : FR → Instr), (⟨5, 6, 7, 0, 3, 6⟩ : FR)),
    ((Instr.rem : FR → Instr), (⟨5, 6, 7, 0, 3, 6⟩ : FR)),
    ((Instr.and : FR → Instr), (⟨5, 6, 7, 0, 1, 6⟩ : FR)),
    ((Instr.or : FR → Instr), (⟨5, 6, 7, 0, 1, 6⟩ : FR)),
    ((Instr.xor : FR → Instr), (⟨5, 6, 7, 0, 1, 6⟩ : FR)),
    ((Instr.shl : FR → Instr), (⟨5, 6, 7, 0, 1, 6⟩ : FR)),
    ((Instr.shr : FR → Instr), (⟨5, 6, 7, 0, 1, 6⟩ : FR)),
    ((Instr.sar : FR → Instr), (⟨5, 6, 7, 0, 1, 6⟩ : FR)),
    ((Instr.min : FR → Instr), (⟨5, 6, 7, 0, 3, 6⟩ : FR)),
    ((Instr.max : FR → Instr), (⟨5, 6, 7, 0, 3, 6⟩ : FR)),
    ((Instr.setcc : FR → Instr), (⟨5, 6, 7, 0, 7, 6⟩ : FR)),
    ((Instr.sel : FR → Instr), (⟨5, 6, 7, 8, 0, 6⟩ : FR)),
    ((Instr.clz : FR → Instr), (⟨5, 6, 0, 0, 0, 6⟩ : FR)),
    ((Instr.popc : FR → Instr), (⟨5, 6, 0, 0, 0, 6⟩ : FR)),
    ((Instr.aoff : FR → Instr), (⟨37, 38, 7, 0, 15, 6⟩ : FR)),
    ((Instr.agets : FR → Instr), (⟨5, 38, 0, 0, 0, 6⟩ : FR)),
    ((Instr.ageto : FR → Instr), (⟨5, 38, 0, 0, 0, 6⟩ : FR)),
    ((Instr.scopy : FR → Instr), (⟨37, 38, 7, 0, 0, 6⟩ : FR)),
    ((Instr.szero : FR → Instr), (⟨37, 0, 7, 0, 0, 6⟩ : FR)),
    ((Instr.salloc : FR → Instr), (⟨0, 6, 7, 8, 0, 6⟩ : FR)),
    ((Instr.sfree : FR → Instr), (⟨0, 6, 0, 0, 0, 6⟩ : FR)),
    ((Instr.sgrow : FR → Instr), (⟨0, 6, 7, 0, 0, 6⟩ : FR)),
    ((Instr.sattr : FR → Instr), (⟨0, 6, 7, 0, 0, 6⟩ : FR)),
    ((Instr.squery : FR → Instr), (⟨5, 6, 0, 0, 2, 6⟩ : FR)),
    ((Instr.srecall : FR → Instr), (⟨0, 6, 0, 0, 0, 6⟩ : FR)),
    ((Instr.spush : FR → Instr), (⟨0, 6, 0, 0, 0, 6⟩ : FR)),
    ((Instr.ttread : FR → Instr), (⟨5, 6, 0, 0, 5, 6⟩ : FR)),
    ((Instr.skewack : FR → Instr), (⟨5, 6, 0, 0, 0, 6⟩ : FR))] (fun e => allRefused [e.1 { e.2 with rd := 48 }, e.1 { e.2 with ra := 48 }, e.1 { e.2 with rb := 48 }, e.1 { e.2 with rc := 48 }, e.1 { e.2 with fn := 255 }])) = true := by decide +kernel

theorem test_ill_formed_fb : (List.all [
    ((Instr.br : FB → Instr), (⟨8, 0, 0, 4294967294, 6⟩ : FB)),
    ((Instr.bcc : FB → Instr), (⟨3, 6, 7, 4294967294, 6⟩ : FB)),
    ((Instr.bcall : FB → Instr), (⟨3, 6, 7, 4294967294, 6⟩ : FB)),
    ((Instr.loop : FB → Instr), (⟨0, 6, 0, 4294967294, 6⟩ : FB))] (fun e => allRefused [e.1 { e.2 with cond := 15 }, e.1 { e.2 with ra := 48 }, e.1 { e.2 with rb := 48 }])) = true := by decide +kernel

theorem test_ill_formed_fp : (List.all [
    ((Instr.rep : FP → Instr), (⟨341, 1, 15, 2, 0⟩ : FP))] (fun e => allRefused [e.1 { e.2 with sync := 1 }])) = true := by decide +kernel

theorem test_ill_formed_fs : (List.all [
    ((Instr.fork : FS → Instr), (⟨2, 0, 0, 4294967294, 6⟩ : FS)),
    ((Instr.trap : FS → Instr), (⟨0, 0, 0, 2147483649, 6⟩ : FS)),
    ((Instr.eret : FS → Instr), (⟨0, 0, 0, 0, 6⟩ : FS)),
    ((Instr.wfe : FS → Instr), (⟨0, 6, 7, 0, 6⟩ : FS)),
    ((Instr.tlbinvVa : FS → Instr), (⟨0, 6, 7, 0, 6⟩ : FS)),
    ((Instr.tlbinvCtx : FS → Instr), (⟨1, 0, 7, 0, 6⟩ : FS)),
    ((Instr.tlbinvAll : FS → Instr), (⟨2, 0, 0, 0, 6⟩ : FS)),
    ((Instr.preemptK : FS → Instr), (⟨0, 6, 7, 0, 6⟩ : FS)),
    ((Instr.preemptR : FS → Instr), (⟨1, 6, 7, 0, 6⟩ : FS)),
    ((Instr.qkill : FS → Instr), (⟨0, 6, 7, 0, 6⟩ : FS)),
    ((Instr.preset : FS → Instr), (⟨0, 6, 7, 0, 6⟩ : FS)),
    ((Instr.semmapMap : FS → Instr), (⟨0, 6, 7, 0, 6⟩ : FS)),
    ((Instr.semmapUnmap : FS → Instr), (⟨1, 6, 7, 0, 6⟩ : FS)),
    ((Instr.partsetDef : FS → Instr), (⟨0, 6, 7, 0, 6⟩ : FS)),
    ((Instr.partsetDel : FS → Instr), (⟨1, 6, 7, 0, 6⟩ : FS)),
    ((Instr.partsetVfquota : FS → Instr), (⟨2, 6, 7, 0, 6⟩ : FS)),
    ((Instr.partsetVfused : FS → Instr), (⟨3, 6, 7, 0, 6⟩ : FS)),
    ((Instr.ctxldLoad : FS → Instr), (⟨0, 6, 7, 0, 6⟩ : FS)),
    ((Instr.ctxldDestroy : FS → Instr), (⟨1, 6, 7, 0, 6⟩ : FS)),
    ((Instr.ctxldHold : FS → Instr), (⟨2, 6, 7, 0, 6⟩ : FS)),
    ((Instr.ctxldRelease : FS → Instr), (⟨3, 6, 7, 0, 6⟩ : FS)),
    ((Instr.dbgscanOut : FS → Instr), (⟨0, 6, 7, 0, 6⟩ : FS)),
    ((Instr.dbgscanIn : FS → Instr), (⟨1, 6, 7, 0, 6⟩ : FS)),
    ((Instr.dbgscanRun : FS → Instr), (⟨2, 6, 0, 0, 6⟩ : FS))] (fun e => allRefused [e.1 { e.2 with fn8 := 255 }, e.1 { e.2 with ra := 48 }, e.1 { e.2 with rb := 48 }])) = true := by decide +kernel

theorem test_ill_formed_fq : (List.all [
    ((Instr.rdv : FQ → Instr), (⟨0, 0, 0, 0, 341, 0, 6⟩ : FQ)),
    ((Instr.tkgive : FQ → Instr), (⟨2, 0, 0, 5, 0, 0, 6⟩ : FQ)),
    ((Instr.tktake : FQ → Instr), (⟨2, 0, 0, 5, 341, 0, 6⟩ : FQ)),
    ((Instr.tkcnt : FQ → Instr), (⟨10, 0, 5, 0, 0, 0, 6⟩ : FQ)),
    ((Instr.ldl : FQ → Instr), (⟨7, 9, 5, 156, 341, 131080, 6⟩ : FQ)),
    ((Instr.stl : FQ → Instr), (⟨7, 9, 5, 156, 341, 131080, 6⟩ : FQ)),
    ((Instr.qrd : FQ → Instr), (⟨7, 9, 5, 1023, 341, 131080, 6⟩ : FQ)),
    ((Instr.qwr : FQ → Instr), (⟨3, 9, 5, 1, 341, 131080, 6⟩ : FQ)),
    ((Instr.qcnt : FQ → Instr), (⟨11, 0, 5, 1, 0, 0, 6⟩ : FQ)),
    ((Instr.ecmd : FQ → Instr), (⟨8, 9, 5, 1, 341, 131080, 6⟩ : FQ)),
    ((Instr.ewait : FQ → Instr), (⟨0, 0, 0, 69, 341, 0, 6⟩ : FQ)),
    ((Instr.epoll : FQ → Instr), (⟨0, 0, 5, 69, 341, 0, 6⟩ : FQ)),
    ((Instr.elink : FQ → Instr), (⟨0, 9, 37, 0, 341, 131080, 6⟩ : FQ)),
    ((Instr.ekick : FQ → Instr), (⟨9, 9, 0, 1023, 341, 131080, 6⟩ : FQ)),
    ((Instr.eqstat : FQ → Instr), (⟨3, 0, 5, 0, 341, 0, 6⟩ : FQ)),
    ((Instr.spawnSeg : FQ → Instr), (⟨0, 9, 37, 1, 341, 131080, 6⟩ : FQ)),
    ((Instr.spawnVa : FQ → Instr), (⟨1, 9, 5, 1, 341, 131080, 6⟩ : FQ)),
    ((Instr.withdraw : FQ → Instr), (⟨0, 0, 0, 63, 341, 0, 6⟩ : FQ)),
    ((Instr.sempost : FQ → Instr), (⟨9, 0, 0, 1023, 341, 0, 6⟩ : FQ)),
    ((Instr.semwait : FQ → Instr), (⟨9, 0, 0, 1023, 341, 0, 6⟩ : FQ)),
    ((Instr.semtry : FQ → Instr), (⟨9, 0, 5, 1023, 341, 0, 6⟩ : FQ)),
    ((Instr.acqbufP : FQ → Instr), (⟨9, 0, 37, 0, 341, 0, 6⟩ : FQ)),
    ((Instr.acqbufC : FQ → Instr), (⟨9, 0, 37, 1, 341, 0, 6⟩ : FQ)),
    ((Instr.relbufP : FQ → Instr), (⟨9, 0, 0, 0, 341, 0, 6⟩ : FQ)),
    ((Instr.relbufC : FQ → Instr), (⟨9, 0, 0, 1, 341, 0, 6⟩ : FQ)),
    ((Instr.relbufSet : FQ → Instr), (⟨9, 0, 5, 2, 341, 0, 6⟩ : FQ)),
    ((Instr.ringwait : FQ → Instr), (⟨0, 0, 5, 255, 341, 0, 6⟩ : FQ)),
    ((Instr.ringpost : FQ → Instr), (⟨0, 0, 5, 255, 341, 0, 6⟩ : FQ)),
    ((Instr.bar : FQ → Instr), (⟨5, 0, 0, 0, 341, 0, 6⟩ : FQ)),
    ((Instr.agset : FQ → Instr), (⟨9, 9, 0, 0, 341, 131080, 6⟩ : FQ)),
    ((Instr.agget : FQ → Instr), (⟨9, 0, 5, 7, 341, 0, 6⟩ : FQ)),
    ((Instr.slres : FQ → Instr), (⟨0, 0, 5, 5, 341, 0, 6⟩ : FQ))] (fun e => allRefused [e.1 { e.2 with rc := 48 }])) = true := by decide +kernel

theorem test_ill_formed_fi : (List.all [
    ((Instr.addi : FI → Instr), (⟨5, 6, 549755813906, 6⟩ : FI)),
    ((Instr.andi : FI → Instr), (⟨5, 6, 549755813906, 6⟩ : FI)),
    ((Instr.ori : FI → Instr), (⟨5, 6, 549755813906, 6⟩ : FI)),
    ((Instr.xori : FI → Instr), (⟨5, 6, 549755813906, 6⟩ : FI)),
    ((Instr.shli : FI → Instr), (⟨5, 6, 63, 6⟩ : FI)),
    ((Instr.shri : FI → Instr), (⟨5, 6, 63, 6⟩ : FI)),
    ((Instr.sari : FI → Instr), (⟨5, 6, 63, 6⟩ : FI)),
    ((Instr.setcci : FI → Instr), (⟨5, 6, 515396075521, 6⟩ : FI)),
    ((Instr.limm : FI → Instr), (⟨5, 0, 549755813906, 6⟩ : FI)),
    ((Instr.limmh : FI → Instr), (⟨5, 0, 11259375, 6⟩ : FI)),
    ((Instr.amake : FI → Instr), (⟨37, 0, 549755813906, 6⟩ : FI)),
    ((Instr.aoffi : FI → Instr), (⟨37, 38, 549755813906, 6⟩ : FI)),
    ((Instr.csrr : FI → Instr), (⟨5, 0, 18, 6⟩ : FI)),
    ((Instr.csrw : FI → Instr), (⟨5, 6, 4095, 6⟩ : FI)),
    ((Instr.csrset : FI → Instr), (⟨5, 6, 4095, 6⟩ : FI)),
    ((Instr.csrclr : FI → Instr), (⟨5, 6, 4095, 6⟩ : FI))] (fun e => allRefused [e.1 { e.2 with rd := 48 }, e.1 { e.2 with ra := 48 }])) = true := by decide +kernel

theorem test_ill_formed_fm : (List.all [
    ((Instr.ld : FM → Instr), (⟨5, 9, 6, 3, 2, 1, 341, 131080, 6⟩ : FM)),
    ((Instr.st : FM → Instr), (⟨5, 9, 6, 3, 2, 2, 341, 131080, 6⟩ : FM)),
    ((Instr.atl : FM → Instr), (⟨5, 9, 6, 2, 10, 3, 341, 131080, 6⟩ : FM))] (fun e => allRefused [e.1 { e.2 with rd := 48 }, e.1 { e.2 with rx := 48 }])) = true := by decide +kernel

theorem test_ill_formed_fl : (List.all [
    ((Instr.movl : FL → Instr), (⟨833, 1154, 0, 0, 0, 3, 1, 1, 0, 6⟩ : FL)),
    ((Instr.bcast : FL → Instr), (⟨833, 1154, 63, 0, 0, 3, 1, 1, 0, 6⟩ : FL)),
    ((Instr.extr : FL → Instr), (⟨31, 1154, 63, 10, 0, 0, 0, 0, 0, 6⟩ : FL)),
    ((Instr.ins : FL → Instr), (⟨833, 1154, 63, 0, 0, 0, 0, 0, 0, 6⟩ : FL)),
    ((Instr.fadd : FL → Instr), (⟨833, 1154, 1283, 4, 6, 3, 1, 1, 0, 6⟩ : FL)),
    ((Instr.fsub : FL → Instr), (⟨833, 1154, 1283, 4, 6, 3, 1, 1, 0, 6⟩ : FL)),
    ((Instr.fmul : FL → Instr), (⟨833, 1154, 1283, 4, 6, 3, 1, 1, 0, 6⟩ : FL)),
    ((Instr.fma : FL → Instr), (⟨833, 1154, 1283, 4, 6, 3, 1, 1, 0, 6⟩ : FL)),
    ((Instr.fmax : FL → Instr), (⟨833, 1154, 1283, 3, 0, 3, 1, 1, 0, 6⟩ : FL)),
    ((Instr.fmin : FL → Instr), (⟨833, 1154, 1283, 3, 0, 3, 1, 1, 0, 6⟩ : FL)),
    ((Instr.fabs : FL → Instr), (⟨833, 1154, 0, 2, 0, 3, 1, 1, 0, 6⟩ : FL)),
    ((Instr.fneg : FL → Instr), (⟨833, 1154, 0, 2, 0, 3, 1, 1, 0, 6⟩ : FL)),
    ((Instr.fexp2 : FL → Instr), (⟨833, 1154, 0, 1, 2, 3, 1, 1, 0, 6⟩ : FL)),
    ((Instr.flog2 : FL → Instr), (⟨833, 1154, 0, 1, 2, 3, 1, 1, 0, 6⟩ : FL)),
    ((Instr.frcp : FL → Instr), (⟨833, 1154, 0, 1, 2, 3, 1, 1, 0, 6⟩ : FL)),
    ((Instr.frsq : FL → Instr), (⟨833, 1154, 0, 1, 2, 3, 1, 1, 0, 6⟩ : FL)),
    ((Instr.fcvt : FL → Instr), (⟨833, 1154, 0, 10, 2, 3, 1, 1, 8, 6⟩ : FL)),
    ((Instr.fscale : FL → Instr), (⟨833, 1154, 1283, 4, 6, 3, 1, 1, 0, 6⟩ : FL)),
    ((Instr.iadd : FL → Instr), (⟨833, 1154, 1283, 8, 0, 3, 1, 1, 1, 6⟩ : FL)),
    ((Instr.isub : FL → Instr), (⟨833, 1154, 1283, 8, 0, 3, 1, 1, 1, 6⟩ : FL)),
    ((Instr.imul : FL → Instr), (⟨833, 1154, 1283, 8, 0, 3, 1, 1, 1, 6⟩ : FL)),
    ((Instr.imad : FL → Instr), (⟨833, 1154, 1283, 8, 0, 3, 1, 1, 1, 6⟩ : FL)),
    ((Instr.iand : FL → Instr), (⟨833, 1154, 1283, 5, 0, 3, 1, 1, 0, 6⟩ : FL)),
    ((Instr.ior : FL → Instr), (⟨833, 1154, 1283, 5, 0, 3, 1, 1, 0, 6⟩ : FL)),
    ((Instr.ixor : FL → Instr), (⟨833, 1154, 1283, 5, 0, 3, 1, 1, 0, 6⟩ : FL)),
    ((Instr.ishl : FL → Instr), (⟨833, 1154, 1283, 8, 0, 3, 1, 1, 1, 6⟩ : FL)),
    ((Instr.ishr : FL → Instr), (⟨833, 1154, 1283, 5, 0, 3, 1, 1, 0, 6⟩ : FL)),
    ((Instr.imin : FL → Instr), (⟨833, 1154, 1283, 5, 0, 3, 1, 1, 0, 6⟩ : FL)),
    ((Instr.imax : FL → Instr), (⟨833, 1154, 1283, 5, 0, 3, 1, 1, 0, 6⟩ : FL)),
    ((Instr.fcmp : FL → Instr), (⟨7, 1154, 1283, 4, 0, 3, 1, 1, 7, 6⟩ : FL)),
    ((Instr.icmp : FL → Instr), (⟨7, 1154, 1283, 6, 0, 3, 1, 1, 5, 6⟩ : FL)),
    ((Instr.pset : FL → Instr), (⟨7, 31, 0, 0, 0, 0, 0, 0, 9, 6⟩ : FL)),
    ((Instr.psel : FL → Instr), (⟨833, 1154, 1283, 0, 0, 3, 1, 1, 0, 6⟩ : FL)),
    ((Instr.redsum : FL → Instr), (⟨833, 1154, 0, 5, 0, 3, 1, 1, 1, 6⟩ : FL)),
    ((Instr.redmax : FL → Instr), (⟨833, 1154, 0, 8, 0, 3, 1, 1, 0, 6⟩ : FL)),
    ((Instr.redmin : FL → Instr), (⟨833, 1154, 0, 8, 0, 3, 1, 1, 0, 6⟩ : FL)),
    ((Instr.scanadd : FL → Instr), (⟨833, 1154, 0, 5, 0, 3, 1, 1, 1, 6⟩ : FL)),
    ((Instr.perm : FL → Instr), (⟨833, 1154, 1283, 0, 0, 3, 1, 1, 0, 6⟩ : FL)),
    ((Instr.bppack : FL → Instr), (⟨833, 1154, 0, 9, 0, 3, 1, 1, 8, 6⟩ : FL)),
    ((Instr.bpunp : FL → Instr), (⟨833, 1154, 2, 9, 0, 3, 1, 1, 2, 6⟩ : FL)),
    ((Instr.osminit : FL → Instr), (⟨833, 0, 0, 0, 0, 3, 1, 1, 0, 6⟩ : FL)),
    ((Instr.osmx : FL → Instr), (⟨833, 1154, 0, 0, 6, 3, 1, 1, 0, 6⟩ : FL))] (fun e => allRefused [e.1 { e.2 with ld := 0xFFF }, e.1 { e.2 with la := 0xFFF }, e.1 { e.2 with ty := 15 }, e.1 { e.2 with rm := 7 }, e.1 { e.2 with fn := 15 }])) = true := by decide +kernel

theorem test_ill_formed_fx : (List.all [
    ((Instr.mldw : FX → Instr), (⟨0, 9, 4, 5, 0, 341, 9, 0, 17, 6⟩ : FX)),
    ((Instr.mswap : FX → Instr), (⟨0, 0, 0, 0, 0, 341, 0, 0, 0, 6⟩ : FX)),
    ((Instr.mstream : FX → Instr), (⟨3, 9, 0, 5, 0, 341, 0, 3, 0, 6⟩ : FX)),
    ((Instr.mrank1 : FX → Instr), (⟨3, 9, 4, 0, 0, 341, 4, 2, 0, 6⟩ : FX)),
    ((Instr.acczero : FX → Instr), (⟨3, 0, 0, 0, 0, 341, 0, 0, 0, 6⟩ : FX)),
    ((Instr.accrd : FX → Instr), (⟨3, 9, 0, 5, 0, 341, 2, 0, 5, 6⟩ : FX)),
    ((Instr.accwr : FX → Instr), (⟨3, 9, 0, 5, 0, 341, 0, 4, 0, 6⟩ : FX)),
    ((Instr.accpin : FX → Instr), (⟨3, 0, 0, 0, 0, 341, 0, 0, 0, 6⟩ : FX)),
    ((Instr.accunpin : FX → Instr), (⟨3, 0, 0, 0, 0, 341, 0, 0, 0, 6⟩ : FX)),
    ((Instr.accspill : FX → Instr), (⟨3, 9, 0, 0, 0, 341, 0, 0, 1, 6⟩ : FX)),
    ((Instr.accspillOther : FX → Instr), (⟨3, 9, 0, 5, 0, 341, 0, 0, 3, 6⟩ : FX)),
    ((Instr.accfill : FX → Instr), (⟨3, 9, 0, 0, 0, 341, 0, 0, 0, 6⟩ : FX)),
    ((Instr.accfillOther : FX → Instr), (⟨3, 9, 0, 5, 0, 341, 0, 0, 2, 6⟩ : FX)),
    ((Instr.gdelta : FX → Instr), (⟨3, 9, 4, 5, 0, 341, 0, 0, 128, 6⟩ : FX)),
    ((Instr.gdread : FX → Instr), (⟨3, 0, 4, 5, 0, 341, 0, 0, 11, 6⟩ : FX))] (fun e => allRefused [e.1 { e.2 with rk := 48 }, e.1 { e.2 with fn := 63 }, e.1 { e.2 with tw := 15 }, e.1 { e.2 with ta := 15 }, e.1 { e.2 with flags := 1023 }])) = true := by decide +kernel

theorem test_ill_formed_fg : (List.all [
    ((Instr.ldg : FG → Instr), (⟨5, 6, 7, 3, 2, 1, 0, 0, 131080, 6⟩ : FG)),
    ((Instr.stg : FG → Instr), (⟨5, 6, 7, 0, 2, 2, 0, 0, 131080, 6⟩ : FG)),
    ((Instr.atg : FG → Instr), (⟨5, 6, 7, 2, 0, 3, 0, 10, 131080, 6⟩ : FG)),
    ((Instr.prefg : FG → Instr), (⟨0, 6, 7, 0, 2, 0, 0, 0, 131080, 6⟩ : FG)),
    ((Instr.fence : FG → Instr), (⟨0, 0, 0, 0, 0, 0, 5, 0, 0, 6⟩ : FG))] (fun e => allRefused [e.1 { e.2 with rd := 48 }, e.1 { e.2 with rb := 48 }, e.1 { e.2 with rx := 48 }, e.1 { e.2 with scope := 7 }, e.1 { e.2 with aop := 31 }])) = true := by decide +kernel

theorem test_ill_formed_flow_and_registers : allRefused [
    .br ⟨8, 1, 0, 4294967294, 6⟩, .loop ⟨0, 0, 0, 4294967294, 6⟩, .fork ⟨0, 0, 0, 4294967294, 6⟩,
    .fork ⟨4, 0, 0, 4294967294, 6⟩, .rdv ⟨1, 0, 0, 0, 341, 0, 6⟩, .tkgive ⟨0, 0, 0, 5, 0, 0, 6⟩,
    .tkgive ⟨2, 0, 0, 64, 0, 0, 6⟩, .tkgive ⟨2, 0, 0, 5, 1, 0, 6⟩, .tkcnt ⟨4, 0, 5, 0, 0, 0, 6⟩,
    .add ⟨5, 6, 7, 0, 2, 6⟩, .mulh ⟨5, 6, 7, 0, 4, 6⟩, .setcc ⟨5, 6, 7, 0, 8, 6⟩, .shli ⟨5, 6, 64, 6⟩,
    .setcci ⟨5, 6, 0x8000000000, 6⟩, .limm ⟨5, 1, 549755813906, 6⟩, .limmh ⟨5, 0, 0x1000000, 6⟩,
    .add ⟨32, 6, 7, 0, 1, 6⟩, .amake ⟨5, 0, 549755813906, 6⟩, .aoff ⟨37, 38, 7, 0, 16, 6⟩, .agets ⟨5, 6, 0, 0, 0, 6⟩,
    .csrr ⟨5, 1, 18, 6⟩, .csrw ⟨5, 6, 0x1000, 6⟩] = true := by decide +kernel

theorem test_ill_formed_segments_and_queues : allRefused [
    .ld ⟨5, 9, 6, 3, 2, 2, 341, 131080, 6⟩, .st ⟨5, 9, 6, 3, 2, 1, 341, 131080, 6⟩,
    .ldl ⟨7, 9, 5, 0x0C0, 341, 131080, 6⟩, .ldl ⟨7, 9, 5, 0x100, 341, 131080, 6⟩, .scopy ⟨37, 37, 7, 0, 0, 6⟩,
    .squery ⟨5, 6, 0, 0, 3, 6⟩, .qrd ⟨8, 9, 5, 1023, 341, 131080, 6⟩, .qrd ⟨7, 9, 5, 0, 341, 131080, 6⟩,
    .qwr ⟨4, 9, 5, 1, 341, 131080, 6⟩, .qcnt ⟨12, 0, 5, 1, 0, 0, 6⟩, .qcnt ⟨11, 0, 5, 2, 0, 0, 6⟩] = true := by decide +kernel

theorem test_ill_formed_lines : allRefused [
    .limml ⟨0xFFF, 1154, 1283, 0, 0, 3, 1, 1, 2, 6⟩, .limml ⟨833, 1154, 1283, 0, 0, 3, 1, 1, 3, 6⟩,
    .limml ⟨833, 1154, 1283, 1, 0, 3, 1, 1, 2, 6⟩, .movl ⟨0x0C0, 1154, 0, 0, 0, 3, 1, 1, 0, 6⟩,
    .movl ⟨833, 0x0E0, 0, 0, 0, 3, 1, 1, 0, 6⟩, .movl ⟨0x4C4, 1154, 0, 0, 0, 3, 1, 1, 0, 6⟩,
    .movl ⟨833, 0x4C8, 0, 0, 0, 3, 1, 1, 0, 6⟩, .movl ⟨833, 0x8D0, 0, 0, 0, 3, 1, 1, 0, 6⟩,
    .movl ⟨833, 0xCC0, 0, 0, 0, 3, 1, 1, 0, 6⟩, .movl ⟨833, 1154, 0, 0, 0, 3, 0, 1, 0, 6⟩,
    .bcast ⟨833, 1154, 64, 0, 0, 3, 1, 1, 0, 6⟩, .extr ⟨32, 1154, 63, 10, 0, 0, 0, 0, 0, 6⟩,
    .extr ⟨31, 1154, 63, 9, 0, 0, 0, 0, 0, 6⟩, .ins ⟨0x4C0, 1154, 63, 0, 0, 0, 0, 0, 0, 6⟩,
    .fadd ⟨833, 1154, 1283, 5, 6, 3, 1, 1, 0, 6⟩, .fma ⟨0x4C0, 1154, 1283, 4, 6, 3, 1, 1, 0, 6⟩,
    .fexp2 ⟨833, 1154, 0, 3, 2, 3, 1, 1, 0, 6⟩, .fexp2 ⟨833, 1154, 1, 1, 2, 3, 1, 1, 0, 6⟩,
    .fcvt ⟨833, 1154, 0, 10, 2, 3, 1, 1, 9, 6⟩, .iadd ⟨833, 1154, 1283, 4, 0, 3, 1, 1, 1, 6⟩,
    .iadd ⟨833, 1154, 1283, 8, 0, 3, 1, 1, 2, 6⟩, .iand ⟨833, 1154, 1283, 5, 0, 3, 1, 1, 1, 6⟩,
    .fcmp ⟨8, 1154, 1283, 4, 0, 3, 1, 1, 7, 6⟩, .icmp ⟨7, 1154, 1283, 6, 0, 3, 1, 1, 6, 6⟩,
    .pset ⟨7, 32, 0, 0, 0, 0, 0, 0, 9, 6⟩, .psel ⟨833, 1154, 1283, 0, 0, 3, 0, 1, 0, 6⟩,
    .redsum ⟨833, 1154, 0, 6, 0, 3, 1, 1, 1, 6⟩, .redmax ⟨833, 1154, 0, 4, 0, 3, 1, 1, 0, 6⟩,
    .bppack ⟨833, 1154, 0, 9, 0, 3, 1, 1, 1, 6⟩, .bppack ⟨833, 1154, 0, 9, 0, 3, 1, 1, 9, 6⟩,
    .bpunp ⟨833, 1154, 0, 9, 0, 3, 1, 1, 2, 6⟩, .bpunp ⟨833, 1154, 3, 9, 0, 3, 1, 1, 2, 6⟩,
    .osmx ⟨833, 1154, 0, 1, 6, 3, 1, 1, 0, 6⟩] = true := by decide +kernel

theorem test_ill_formed_matrix : allRefused [
    .mldw ⟨1, 9, 4, 5, 0, 341, 9, 0, 17, 6⟩, .mldw ⟨0, 9, 4, 5, 0, 341, 2, 0, 17, 6⟩,
    .mldw ⟨0, 9, 4, 5, 0, 341, 9, 0, 0x12, 6⟩, .mstream ⟨3, 9, 0, 5, 0, 341, 0, 2, 0, 6⟩,
    .mstream ⟨3, 9, 0, 5, 0, 341, 0, 3, 2, 6⟩, .mstream ⟨3, 9, 0, 5, 0, 341, 0, 3, 1, 6⟩,
    .mrank1 ⟨3, 9, 4, 0, 0, 341, 4, 5, 0, 6⟩, .acczero ⟨3, 1, 0, 0, 0, 341, 0, 0, 0, 6⟩,
    .accrd ⟨3, 9, 0, 5, 0, 341, 2, 0, 7, 6⟩, .accspill ⟨3, 9, 0, 0, 0, 341, 0, 0, 4, 6⟩,
    .accspillOther ⟨3, 9, 0, 5, 0, 341, 0, 0, 0, 6⟩, .accfill ⟨3, 9, 0, 0, 0, 341, 0, 0, 1, 6⟩,
    .gdelta ⟨3, 9, 4, 5, 0, 341, 0, 0, 0x10, 6⟩, .gdread ⟨3, 0, 4, 5, 0, 341, 0, 0, 0x80, 6⟩,
    .gdread ⟨3, 0, 4, 5, 0, 341, 0, 0, 0x10, 6⟩] = true := by decide +kernel

theorem test_ill_formed_engines_and_memory : allRefused [
    .ecmd ⟨4, 9, 5, 1, 341, 131080, 6⟩, .ewait ⟨0, 0, 0, 0x80, 341, 0, 6⟩, .epoll ⟨0, 0, 5, 5, 341, 0, 6⟩,
    .elink ⟨0, 9, 37, 1, 341, 131080, 6⟩, .ekick ⟨9, 9, 0, 0, 341, 131080, 6⟩, .ekick ⟨2, 9, 0, 1023, 341, 131080, 6⟩,
    .eqstat ⟨9, 0, 5, 0, 341, 0, 6⟩, .spawnSeg ⟨0, 9, 5, 1, 341, 131080, 6⟩, .spawnVa ⟨1, 9, 0, 1, 341, 131080, 6⟩,
    .withdraw ⟨0, 0, 0, 64, 341, 0, 6⟩, .ttread ⟨5, 6, 0, 0, 6, 6⟩, .ldg ⟨5, 6, 7, 3, 2, 2, 0, 0, 131080, 6⟩,
    .stg ⟨5, 6, 7, 0, 2, 1, 0, 0, 131080, 6⟩, .atg ⟨5, 6, 7, 1, 0, 3, 0, 10, 131080, 6⟩,
    .atg ⟨5, 6, 7, 3, 0, 3, 0, 10, 131080, 6⟩, .atg ⟨5, 6, 7, 2, 1, 3, 0, 10, 131080, 6⟩,
    .prefg ⟨1, 6, 7, 0, 2, 0, 0, 0, 131080, 6⟩, .fence ⟨0, 0, 0, 0, 0, 0, 6, 0, 0, 6⟩,
    .fence ⟨0, 1, 0, 0, 0, 0, 5, 0, 0, 6⟩, .atl ⟨5, 9, 6, 1, 10, 3, 341, 131080, 6⟩,
    .atl ⟨5, 9, 6, 2, 11, 3, 341, 131080, 6⟩, .sempost ⟨9, 0, 5, 1023, 341, 0, 6⟩, .semtry ⟨9, 1, 5, 1023, 341, 0, 6⟩,
    .acqbufP ⟨9, 0, 37, 2, 341, 0, 6⟩, .relbufSet ⟨9, 0, 5, 3, 341, 0, 6⟩, .ringwait ⟨0, 0, 0, 255, 341, 0, 6⟩,
    .ringwait ⟨0, 0, 5, 256, 341, 0, 6⟩, .bar ⟨4, 0, 0, 0, 341, 0, 6⟩, .agget ⟨9, 0, 5, 8, 341, 0, 6⟩,
    .slres ⟨0, 0, 5, 4, 341, 0, 6⟩, .trap ⟨1, 0, 0, 2147483649, 6⟩, .eret ⟨0, 0, 0, 1, 6⟩, .wfe ⟨0, 6, 7, 1, 6⟩,
    .tlbinvCtx ⟨1, 1, 7, 0, 6⟩, .dbgscanRun ⟨2, 6, 1, 0, 6⟩] = true := by decide +kernel

/-- WB without a take or a blocking wait (R31). -/
theorem test_ill_formed_wb : allRefused [.ld ⟨5, 9, 6, 3, 2, 1, 1, 0, 0⟩, .st ⟨5, 9, 6, 3, 2, 0, 1, 0, 0⟩, .epoll ⟨0, 0, 5, 0, 1, 0, 2⟩,
    .ecmd ⟨0, 0, 0, 1, 1, 0, 0⟩, .sempost ⟨0, 0, 0, 0, 1, 0, 0⟩] = true := by decide +kernel

/-! ### States for the witnesses and the single steps -/

/-- A context of partition 0 with a first page at address 0, and one segment of each kind that the witnesses use. -/
def block : CtxBlock :=
  { rings := 3, part := 0, queue := 5, vf := 0, vfv := false, tier := 1, ptbase := 0x100000, sidbase := 0x400000,
    sidsize := 0x10000, fqbase := 0x500000, savebase := 0x600000, resq := 4096, skew := 0, replay := 0 }

/-- A RESIDENT copy at a first granule. -/
def copyAt (base : Nat) (data : Memory) : SegCopy := { res := .resident, base := base, touch := 0, data := data, poison := [], side := [] }

/-- A segment homed on tile 0. -/
def segAs (bytes : Nat) (attr : Word) (c : SegCopy) : Segment := { bytes := bytes, home := 0, attr := attr, making := false, copies := [(0, c)] }

def context : Context :=
  { newCtx block with
    segs := [
      (1, segAs 256 0 (copyAt 0 [(0, 0x11), (1, 0x22), (8, 0x80)])),
      (2, segAs 65600 0 (copyAt 4 [])),
      (3, segAs 512 0 (copyAt 1029 [(3, 0x3F), (2, 0x80)])),
      (4, segAs 64 2 (copyAt 1040 [])),
      (5, segAs 64 0 ({ copyAt 0 [] with res := .pushed })),
      (6, { bytes := 64, home := 40, attr := 0, making := false, copies := [(40, copyAt 0 [])] })]
    ringCtr := [(2, 0xFFFFFFFF)]
    semMap := [(9, 3)] }

/-- Page tables that map virtual page 0 to 0x200000 and page 1 to 0x210000, readable, writable and executable. -/
def tables : Memory :=
  [(0x100000, 0x01), (0x100001, 0x10), (0x100002, 0x10), (0x101000, 0x01), (0x101001, 0x20), (0x101002, 0x10),
   (0x102000, 0x01), (0x102001, 0x30), (0x102002, 0x10), (0x103000, 0x1F), (0x103002, 0x20), (0x103008, 0x1F),
   (0x10300A, 0x21), (0x200040, 0x34), (0x200041, 0x12)]

/-- A strand that runs at PC 64. -/
def strandAt (m : Mode) (g : List (Nat × Word)) (a : List (Nat × Word)) : Strand :=
  a.foldl (fun s e => s.setA e.1 e.2) (g.foldl (fun s e => s.setG (BitVec.ofNat 6 e.1) e.2)
    { Strand.blank with run := .running, mode := m, pc := 64 })

/-- Tile 0 with a task of context 0 whose strand `q` is `st`, every client's floor at 3,072 granules. -/
def world (q : Nat) (st : Strand) : State :=
  { State.reset with
    cur := .tile 0 q
    tiles := [(0, { Tile.blank with task := some placeTask, floors := Vector.replicate 7 3072, tvec := 0x8000 }.setStrand q st)]
    ctxs := [(0, context)]
    parts := [(0, { clusters := BitVec.allOnes 64, tshare := 1024, fabric := 16, tier2 := 1024, host := 1024, borrow := true, used := 0 })]
    mem := tables }

/-- Strand `q` of `world` in user mode, with G and A registers. -/
def user (q : Nat) (g : List (Nat × Word)) (a : List (Nat × Word) := []) : State := world q (strandAt .user g a)

/-- Strand `q` of `world` in supervisor mode. -/
def super (q : Nat) (g : List (Nat × Word)) (a : List (Nat × Word) := []) : State := world q (strandAt .supervisor g a)

/-- The state with other segments. -/
def withSegs (s : State) (l : Tab Segment) : State := { s with ctxs := [(0, { context with segs := l, sidings := 64 })] }

/-- The tile of a state, changed. -/
def onTile (s : State) (f : Tile → Tile) : State := modTile s 0 f

/-- The word stands at the core whose turn it is, passes its checks, and its take and give are possible. -/
def issues (s : State) (i : Instr) : Bool :=
  decide (dropRep (judge s s.cur i) s.cur i = s) && (decodeTrap s s.cur i).isNone && (begun s s.cur i).isSome

/-- The state in which the word takes effect. -/
def go (s : State) (i : Instr) : State := (begun s s.cur i).getD s

/-- `issues` says that the hypothesis `Issues` of the statements is met, with the state `go`. -/
theorem issues_of {s : State} {i : Instr} (h : issues s i = true) : Issues s s.cur i (go s i) := by
  simp only [issues, Bool.and_eq_true, decide_eq_true_eq, Option.isNone_iff_eq_none, Option.isSome_iff_exists] at h
  obtain ⟨⟨h1, h2⟩, u, h3⟩ := h
  exact ⟨⟨rfl, h1, h2⟩, by simp [go, h3]⟩

/-- The value is there and meets `p`. -/
def okAnd {ε α : Type} (x : Except ε α) (p : α → Bool) : Bool :=
  match x with
  | .ok v => p v
  | .error _ => false

/-- There is no value, and its place is taken by what meets `p`. -/
def errAnd {ε α : Type} (x : Except ε α) (p : ε → Bool) : Bool :=
  match x with
  | .ok _ => false
  | .error e => p e

/-- The next state, tested. -/
def nextAnd (o : Host.Outcome State Fault Refusal) (p : State → Bool) : Bool :=
  match o with
  | .next t => p t
  | _ => false

/-- A trap of a condition. -/
def isTrap (cond : Nat) : Res → Bool
  | .trap x _ => x.cond == cond
  | _ => false

/-- Words with only the fields named. -/
def r0 : FR := ⟨0, 0, 0, 0, 0, 0⟩
def i0 : FI := ⟨0, 0, 0, 0⟩
def b0 : FB := ⟨0, 0, 0, 0, 0⟩
def m0 : FM := ⟨0, 0, 0, 0, 0, 0, 0, 0, 0⟩
def g0 : FG := ⟨0, 0, 0, 0, 0, 0, 0, 0, 0, 0⟩
def l0 : FL := ⟨0, 0, 0, 0, 0, 0, 0, 0, 0, 0⟩
def q0 : FQ := ⟨0, 0, 0, 0, 0, 0, 0⟩
def x0 : FX := ⟨0, 0, 0, 0, 0, 0, 0, 0, 0, 0⟩
def s0 : FS := ⟨0, 0, 0, 0, 0⟩

/-- How the effect of a word that takes effect ends. -/
def ends (s : State) (i : Instr) : Option Res := if issues s i then (bodyOf i).map (fun b => b s.cur (go s i)) else none

/-- The word takes effect and its effect completes. -/
def retires (s : State) (i : Instr) : Bool :=
  (ends s i).any (fun r => match r with
    | .retire _ | .jump _ _ | .done _ | .gone _ => true
    | _ => false)

/-- The word takes effect and does a part of its work. -/
def goesOn (s : State) (i : Instr) : Bool :=
  (ends s i).any (fun r => match r with
    | .more _ => true
    | _ => false)

/-- The word takes effect and its effect traps with a condition. -/
def traps (n : Nat) (s : State) (i : Instr) : Bool :=
  (ends s i).any (fun r => match r with
    | .trap x _ => x.cond == n
    | .after x _ => x.cond == n
    | _ => false)

/-- The word takes effect and its effect waits, 15 for a pause. -/
def waits (k : Nat) (s : State) (i : Instr) : Bool :=
  (ends s i).any (fun r => match r with
    | .wait w _ => w.kind == k
    | .pause _ _ => k == 15
    | _ => false)

/-- The word completes, and the state it leaves meets `p`. -/
def effect (s : State) (i : Instr) (p : State → Bool) : Bool :=
  (ends s i).any (fun r => match r with
    | .retire t => p t
    | _ => false)


/-! ### Witnesses: words of every strand. Each theorem is named after its statement and meets its hypotheses, clause by
clause: a list of words that complete (`retires`), trap (`traps`) or wait (`waits`) on states that the clauses describe. -/

/-- C of tile 0 at ADD, at a word with a set zero bit, and at a block that is not in the cache. -/
def fetchAt (s : State) (w : Option Word) : State :=
  { onTile s (fun x => { x with icache := w.elim [] (fun w => [⟨0, 64, placeLeaf, w :: List.replicate 7 0⟩]) }) with
    schedule := [⟨0, .issue (.tile 0 0)⟩] }

theorem wit_StepRunsDecodedWord :
    let s := fetchAt (user 0 [])
    let c := CoreId.tile 0 0
    List.all [some 0x100C40C000000000, some 0x100C40C000000010, none] (fun w =>
      (s w).schedule == [⟨0, .issue c⟩] && (s w).boot == .up && !preemptHolds (s w) c && (getStrand (s w) c).run == .running &&
      (getStrand (s w) c).pause == none && !preemptedDue (s w) c && !errorDue (s w) c && wordAt (s w) c 64 == w) = true := by decide +kernel

/-- END on L, ERET in user mode and BAR past TILE on X fail one check each. -/
theorem wit_DecodeChecksTrapInOrder :
    let at_ := fun (s : State) (i : Instr) => decide (dropRep (judge s s.cur i) s.cur i = s)
    at_ (user 1 []) (.endTask r0) = true ∧ strandOk (user 1 []).cur 0x0B = false ∧
    at_ (user 0 []) (.eret s0) = true ∧ supForm 0xF1 = true ∧ (getStrand (user 0 []) (.tile 0 0)).mode = .user ∧
    at_ (user 2 []) (.bar { q0 with qn := 1 }) = true ∧
    fieldsAtOk (user 2 []) (.tile 0 2) (.bar { q0 with qn := 1 }) = false := by decide +kernel

/-- A NOP of C that takes from L and gives to L: no token to take, one to take and room for its give, no room. -/
theorem wit_TakeBeforeIssue :
    let s := fun (take give : Nat) => onTile (user 0 []) (fun x => (x.setCoupling 1 0 take).setCoupling 0 1 give)
    let i := Instr.nop { r0 with sync := 5 }
    takeOf i ≠ 0 ∧ giveOf i ≠ 0 ∧ decodeTrap (s 0 0) (.tile 0 0) i = none ∧ issues (s 1 62) i = true ∧
    (getTile (s 0 0) 0).coupling 1 0 = 0 ∧ (getTile (s 1 63) 0).coupling 0 1 + 1 = 64 ∧ peerOf 0 (giveOf i) = 1 := by
  decide +kernel

theorem wit_RetiringWordsGiveAndMoveOn : stepDue (getStrand (user 3 []) (.tile 0 3)) = false ∧
    giveOf (.nop { r0 with sync := 1 }) ≠ 0 ∧ giveOf (.nop r0) = 0 := by decide +kernel

/-- 7 and -2, at 64 and 32 bits, signed and not. -/
theorem wit_AluResults :
    let f : FR := { r0 with rd := 5, ra := 6, rb := 7 }
    let s := user 0 [(6, 7), (7, -2)]
    ([.add f, .sub f, .mul f, .mulh f, .and f, .or f, .xor f, .shl f, .shr f, .sar f, .min f, .max f, .add { f with fn := 1 },
      .mulh { f with fn := 3 }, .min { f with fn := 2 }, .sar { f with fn := 1 }] : List Instr).all (retires s) = true := by
  decide +kernel

/-- A divisor of -1 with the most negative dividend, and a divisor of 0. -/
theorem wit_DivisionResultsAndTrap :
    let f : FR := { r0 with rd := 5, ra := 6, rb := 7 }
    let g : FR := { f with fn := 3 }
    ([.div f, .rem f, .div g, .rem g] : List Instr).all (retires (user 1 [(6, 0x8000000000000000), (7, -1)])) = true ∧
    ([.div f, .rem f, .div g, .rem g] : List Instr).all (traps 29 (user 1 [(6, 5)])) = true := by decide +kernel

/-- The two ends of FN, and CLZ and POPC of 0 and of all ones. -/
theorem wit_ConditionAndCountResults :
    let f : FR := { r0 with rd := 5, ra := 6, rb := 7 }
    let s := user 0 [(6, -1), (7, 1), (8, 0)]
    ([.setcc f, .setcc { f with fn := 7 }, .setcci { i0 with rd := 5, ra := 6 },
      .setcci { i0 with rd := 5, ra := 6, imm := 0x7FFFFFFFFF }, .sel { f with rc := 8 }, .sel { f with rc := 7 },
      .clz { f with rb := 0 }, .clz { f with ra := 8, rb := 0 }, .popc { f with rb := 0 }] : List Instr).all (retires s) = true := by
  decide +kernel

theorem wit_ImmediateResults :
    let f : FI := { i0 with rd := 5, ra := 6, imm := 0xFFFFFFFFFF }
    ([.addi f, .andi f, .ori f, .xori f, .shli { f with imm := 63 }, .shri { f with imm := 63 }, .sari { f with imm := 0 },
      .limm { f with ra := 0 }, .limmh { f with ra := 0, imm := 0xFFFFFF }] : List Instr).all
        (retires (user 2 [(6, 0x8000000000000001)])) = true := by decide +kernel

/-- AMAKE from an immediate, from the largest legal G value, and from the first that is not. -/
theorem wit_AddressRegisterResults :
    let s := user 0 [(6, 0x0000FFFFFFFFFFFF), (7, 0x0001000000000000)] [(1, 0x0001FFFFFFFF)]
    ([.amake { i0 with rd := 32, imm := 0x123456789A }, .amake { i0 with rd := 47, ra := 6 },
      .aoff { r0 with rd := 32, ra := 33, rb := 6, fn := 15 }, .aoffi { i0 with rd := 33, ra := 33, imm := 1 },
      .agets { r0 with rd := 5, ra := 33 }, .ageto { r0 with rd := 5, ra := 33 }] : List Instr).all (retires s) = true ∧
    traps 19 s (.amake { i0 with rd := 47, ra := 7 }) = true := by decide +kernel

theorem wit_RegisterWordsFrame :
    let s := user 0 [(6, 7), (7, 2)]
    let i := Instr.add { r0 with rd := 5, ra := 6, rb := 7 }
    issues s i = true ∧ stepDue (getStrand s (.tile 0 0)) = false ∧ (opOf i).toNat = 0x10 ∧
    nextAnd (exec i s) (fun t => (getStrand t (.tile 0 0)).getG 5 == 9) = true := by decide +kernel

/-- A class-11 number, a class-10 number in user mode, a number that is not defined, a read-only number written, and
reads and writes of WAITDEF in both modes and of a floor in supervisor mode, past its limit and not. -/
theorem wit_CsrInstructionRules :
    let f : FI := { i0 with rd := 5, ra := 6 }
    let s := user 0 [(6, 0x7FFF)]
    let p := super 0 [(6, 0x7FFF)]
    let all := fun (n : BitVec 40) => ([.csrr { f with ra := 0, imm := n }, .csrw { f with imm := n }, .csrset { f with imm := n },
      .csrclr { f with imm := n }] : List Instr)
    (all 0xC00).all (traps 4 p) = true ∧ (all 0x800).all (traps 5 s) = true ∧ (all 0x3FF).all (traps 4 s) = true ∧
    (all 0).all (retires s) = true ∧ retires s (.csrset { f with ra := 0, imm := 0x400 }) = true ∧
    traps 4 s (.csrw { f with imm := 0x400 }) = true ∧ (all 0x820).all (retires p) = true ∧
    traps 4 p (.csrw { f with imm := 0x810 }) = true := by decide +kernel

theorem wit_CsrMaps :
    let s := super 0 []
    let c := CoreId.tile 0 0
    coreCtx s c = some 0 ∧ (tabFind s.ctxs 0).isSome = true ∧
    ([0x000, 0x001, 0x002, 0x820, 0x821, 0x822, 0x823, 0x824, 0x825, 0x827, 0x801, 0x828, 0x800, 0x802, 0x826, 0x810] : List Nat).all
      (fun n => (csrWrite s c n 1).isSome) = true ∧ csrWrite s c 0x816 0x7FFF = none := by decide +kernel

/-- Taken, not taken, out of the address space at its two ends; JR at the last block, above, and off a block. -/
theorem wit_BranchResults :
    let f : FB := { b0 with ra := 6, rb := 7 }
    let s := user 0 [(6, 1), (7, 1), (8, 2), (9, 0x000FFFFFFFFFFFC0), (10, 0x0010000000000000), (11, 8)]
    ([.br { b0 with cond := 8, off := -1 }, .bcc f, .bcc { f with cond := 1 }, .bcall f, .bcall { f with cond := 1 },
      .loop { b0 with ra := 6 }, .loop { b0 with ra := 8 }, .jr { r0 with ra := 9 }, .jrl { r0 with rd := 5, ra := 9 },
      .nop r0] : List Instr).all (retires s) = true ∧
    ([.br { b0 with cond := 8, off := -2 }, .bcc { f with off := -2 }, .bcall { f with off := -2 }, .loop { b0 with ra := 8, off := -2 },
      .jr { r0 with ra := 10 }, .jrl { r0 with ra := 10 }] : List Instr).all (traps 19 s) = true ∧
    ([.jr { r0 with ra := 11 }, .jrl { r0 with ra := 11 }] : List Instr).all (traps 6 s) = true := by decide +kernel

/-- FORK of the idle L, out of space, and of an L that runs; RDV on X, and on C with the others idle, arrived, running. -/
theorem wit_ForkAndRendezvous :
    let s := user 0 []
    let l := fun (r : RunState) => onTile s (fun x => x.setStrand 1 { Strand.blank with run := r })
    let f : FS := { s0 with fn8 := 1 }
    retires s (.fork f) = true ∧ traps 19 s (.fork { f with imm := -2 }) = true ∧ traps 24 (l .running) (.fork f) = true ∧
    retires (user 2 []) (.rdv q0) = true ∧ retires s (.rdv q0) = true ∧ retires (l .arrived) (.rdv q0) = true ∧
    waits 1 (l .running) (.rdv q0) = true := by decide +kernel

/-- A command that a tile's word may have queued. -/
def command (queue : EngQueue) (raw : BitVec 1024) : Cmd :=
  { raw := raw, queue := queue, tile := 0, seq := 0, box := false, ctx := 0, task := 0, launch := none, pos := 0, hwq := 5, addr := mkA 1 0,
    state := .queued, engine := 0, progress := 0, flags := 0, sticky := 0, demand := 0, withdrawals := 0, withdrawn := false,
    absorbed := false, entered := 0, clock := 0, begun := false, ranges := [], behind := [], pins := [], names := [], fits := 15, wrote := false,
    reads := [], ready := false, sub := 0, block := none, sent := 0, chain := none, under := .queued, held := false, faulted := false, met := false, walk := none, ringSeen := false, inst := 0,
    fed := 0, acks := 0, inbox := [], flights := [], turn := 0, anon := none, test := 0, work := none }

/-- The state with one command. -/
def withCmd (s : State) (k : Cmd) : State := { s with cmds := [(0, k)], nextCmd := 1 }

/-- END with the others idle and no command, with a command, and with a strand that runs; TASK_RETIRE after its wait. -/
theorem wit_TaskEnd :
    let s := user 0 []
    let k := withCmd s (command (.ce 0) 4)
    let e := Instr.endTask r0
    let w := nextAnd (exec e k) (fun t => (getStrand t (.tile 0 0)).run == .waiting &&
      issues { t with cmds := [] } e && taskCmds { t with cmds := [] } 0 placeTask == [])
    retires s e = true ∧ taskCmds s 0 placeTask = [] ∧ (getTile s 0).preempt = none ∧ tabFind s.launches 0 = none ∧
    waits 10 k e = true ∧ traps 24 (onTile s (fun x => x.setStrand 1 { Strand.blank with run := .running })) e = true ∧
    w = true := by decide +kernel

theorem wit_PausesAndWakes :
    let paused := fun (p : Pause) (wake : BitVec 6) => world 0 { strandAt .user [(6, 1)] [] with pause := some p, wake := wake }
    let c := CoreId.tile 0 0
    retires (user 0 []) (.yield r0) = true ∧ (getStrand (paused (.yield 0 none) 0) c).pause = some (.yield 0 none) ∧
    (getStrand (paused (.yield 1 none) 0) c).pause = some (.yield 1 none) ∧ (paused (.yield 1 none) 0).cycle < 1 ∧
    retires (world 0 { strandAt .user [] [] with wake := 1 }) (.wfe s0) = true ∧ waits 15 (user 0 []) (.wfe s0) = true ∧
    (getStrand (paused (.wfe none s0) 2) c).wake ≠ 0 ∧ (getStrand (paused (.wfe (some 0) s0) 0) c).wake = 0 := by decide +kernel

/-- TKGIVE to the limit of 63 and past it; TKTAKE of as many as there are and of more; TKCNT in both directions. -/
theorem wit_ExplicitTokens :
    let s := onTile (user 0 []) (fun x => (x.setCoupling 0 1 60).setCoupling 1 0 4)
    let f : FQ := { q0 with qn := 1, aux := 3 }
    retires s (.tkgive f) = true ∧ traps 23 s (.tkgive { f with aux := 4 }) = true ∧ traps 23 s (.tkgive { f with sync := 1 }) = true ∧
    retires s (.tktake { f with aux := 4 }) = true ∧ waits 0 s (.tktake { f with aux := 5 }) = true ∧
    retires s (.tkcnt { q0 with qn := 1, rc := 5 }) = true ∧ retires s (.tkcnt { q0 with qn := 9, rc := 5 }) = true := by
  decide +kernel

/-- A wait of a strand on a word. -/
def waitOn (what : WaitFor) (kind : BitVec 4) (name : BitVec 12) (i : Instr) : Wait :=
  { what := what, kind := kind, name := name, psrc := 7, prod := none, code := 0, count := 0, began := 0, bounded := true, instr := i }

/-- Strand `q` of `world` that waits. -/
def waiting (q : Nat) (w : Wait) : State :=
  world q { strandAt .user [(6, 1)] [(1, mkA 1 0)] with run := .waiting, wait := some w }

/-- For a wait of each kind that has ended, the event that runs the word: the word completes. -/
theorem wit_WaitEndsRunTheWord :
    let ended := fun (q : Nat) (what : WaitFor) (kind : BitVec 4) (i : Instr) (f : State → State) =>
      let s := f (waiting q (waitOn what kind 0 i))
      retires s i
    let id_ := fun (s : State) => s
    ended 0 .rdvJoin 1 (.rdv q0) id_ = true ∧
    ended 0 .take 0 (.nop { r0 with sync := 4 }) (fun s => onTile s (fun x => x.setCoupling 1 0 1)) = true ∧
    ended 0 .tokens 0 (.tktake { q0 with qn := 1, aux := 1 }) (fun s => onTile s (fun x => x.setCoupling 1 0 1)) = true ∧
    ended 0 .segment 11 (.sfree { r0 with ra := 6 }) id_ = true ∧
    ended 0 .ewait 4 (.ewait { q0 with aux := 1 }) (fun s => onTile s (fun x => { x with flags := 2 })) = true ∧
    ended 0 .relOrder 11 (.st { m0 with rd := 6, ar := 1, ord := 2 }) id_ = true ∧
    ended 0 .fence 11 (.fence { g0 with scope := 3 }) id_ = true ∧
    ended 0 .barrier 8 (.bar q0) id_ = true ∧
    ended 2 .lineOperands 2 (.movl { l0 with ld := 0x100, la := 0x4C0 }) (fun s => onTile s (fun x =>
      setOpQueue x 0 { Queue.empty with lines := [⟨true, false, Line.zero, 0, 1, 0, 0, 4, false⟩] })) = true ∧
    ended 1 .queueSpace 11 (.qrd { q0 with ar := 1, aux := 1 }) id_ = true ∧
    ended 3 .drainLine 11 (.qwr { q0 with ar := 1, aux := 1 }) (fun s => onTile s (fun x =>
      setDrQueue x 0 { Queue.empty with lines := [⟨true, false, Line.zero, 0, 0, 0, 0, 0, false⟩] })) = true ∧
    ended 0 .semaphore 5 (.semwait { q0 with aux := 9 }) (fun s => { s with sems := [(3, ⟨1, [.tile 0 0], 0, false⟩)] }) = true := by
  decide +kernel

/-- A take of 65 clocks against the bound of 64, whose coupling is still empty. -/
theorem wit_StallTrap :
    let i := Instr.nop { r0 with sync := 4 }
    let w := { waitOn .take 0 4 i with psrc := 1, prod := some 1, count := 65 }
    let s := waiting 0 w
    issues s i = false ∧ decodeTrap s (.tile 0 0) i = none ∧ dropRep (judge s (.tile 0 0) i) (.tile 0 0) i = s ∧
    takeOf i ≠ 0 ∧ peerOf 0 (takeOf i) = 1 ∧ (getStrand s (.tile 0 0)).takeDone = false ∧ (getTile s 0).coupling 1 0 = 0 ∧
    boundClocks w.code < w.count ∧ w.name = BitVec.ofNat 12 (4 * 1 + 0) := by decide +kernel

theorem wit_TrapEntry : (getStrand (user 1 []) (.tile 0 1)).mode = .user ∧ (getTile (user 1 []) 0).tvec ≠ 0 ∧
    (getStrand (super 1 []) (.tile 0 1)).mode = .supervisor ∧ (getTile (super 1 []) 0).task = some placeTask ∧
    (getTile (onTile (user 1 []) (fun x => { x with tvec := 0 })) 0).tvec = 0 := by decide +kernel

/-- The ends of the ranges of REM and of the step sums. -/
theorem wit_RepStateLayout : ∀ r ∈ ([⟨1, -8192, 0, 8191, none⟩, ⟨1024, 8191, -1, -8192, none⟩] : List Rep),
    1 ≤ r.rem ∧ r.rem ≤ 1024 ∧ (∀ x ∈ [r.offd, r.offa, r.offb], -8192 ≤ x ∧ x ≤ 8191) ∧
    repOfState (repState (some r)) = some r := by decide +kernel

/-- TRAP in user mode with a handler; ERET to the last word of the space, above it, and off a word. -/
theorem wit_TrapAndReturn :
    let back := fun (pc : Word) => world 0 { strandAt .supervisor [] [] with tpc := pc, pm := false, tkd := true }
    issues (user 0 []) (.trap { s0 with imm := 5 }) = true ∧ (getTile (go (user 0 []) (.trap s0)) 0).tvec ≠ 0 ∧
    issues (back 0x000FFFFFFFFFFFF8) (.eret s0) = true ∧
    traps 19 (back 0x0010000000000004) (.eret s0) = true ∧ traps 6 (back 4) (.eret s0) = true := by decide +kernel

theorem wit_EngineErrorsTaken :
    let e : EngineError := ⟨40, 5, 0, 0, 0⟩
    let s := world 0 { strandAt .user [] [] with errors := [e] }
    let l := world 1 { Strand.blank with run := .arrived, errors := [e] }
    (getStrand s (.tile 0 0)).errors = [e] ∧ (getStrand s (.tile 0 0)).mode = .user ∧ (getTile s 0).tvec ≠ 0 ∧
    (getStrand (super 0 []) (.tile 0 0)).mode = .supervisor ∧ (getStrand l (.tile 0 1)).errors ≠ [] ∧
    (getStrand l (.tile 0 1)).run = .arrived := by decide +kernel

/-- REP with CNT 1 over MOVL, in its first pass and in the last of a sequence, and over NOP, which is not allowed. -/
theorem wit_RepSequences :
    let g := Instr.movl { l0 with ld := 0x100, la := 0x200 }
    let code := fun (w : Word) => onTile (user 2 []) (fun x =>
      { x with icache := [⟨0, 64, placeLeaf, encode (.rep ⟨2, 1, 1, 0, 0⟩) :: w :: List.replicate 6 0⟩] })
    let f : FP := ⟨2, 1, 1, 0, 0⟩
    let s := code (encode g)
    let r0' : Rep := { rem := 2, offd := 0, offa := 0, offb := 0, word := none }
    let s1 := modStrand s (.tile 0 2) (fun st => { st with rep := some r0' })
    decodeTrap s (.tile 0 2) (.rep f) = none ∧ (getStrand s (.tile 0 2)).rep = none ∧
    wordAt s1 (.tile 0 2) 72 = some (encode g) ∧ okAnd (governedWord s1 (.tile 0 2) f (encode g)) (· == g) = true ∧
    okAnd (takeToken (judge s1 (.tile 0 2) g) (.tile 0 2) g) (fun s2 => giveOverflows s2 (.tile 0 2) g == false) = true ∧
    nextAnd (exec (.rep f) s) (fun t => (getStrand t (.tile 0 2)).rep ==
      some { rem := 1, offd := 1, offa := 1, offb := 0, word := some g }) = true ∧
    (wordAt (code (encode (.nop r0))) (.tile 0 2) 72 = some (encode (.nop r0)) ∧ (opOf (.nop r0)).toNat / 16 = 0) := by
  decide +kernel

/-! ### Witnesses: segments -/

/-- An A value with an offset for each check: name 0, a free name, the last bytes, one past them, misaligned, RO,
another group. -/
theorem wit_SegmentOperandChecks :
    let s := user 0 []
    let at_ := fun (name off n align : Nat) (write : Bool) (k : Nat) =>
      errAnd (segCheck s 0 0 (mkA name off) off n align write) (isTrap k)
    at_ 0 0 1 1 false 8 = true ∧ at_ 4095 0 1 1 false 9 = true ∧ at_ 4096 0 1 1 false 9 = true ∧ at_ 6 0 1 1 false 9 = true ∧
    at_ 1 253 4 1 false 10 = true ∧ at_ 1 250 4 4 false 7 = true ∧ at_ 4 0 4 4 true 14 = true ∧
    okAnd (segCheck s 0 0 (mkA 1 252) 252 4 4 true) (fun r => r.2 == 252) = true ∧
    okAnd (segCheck s 0 0 (mkA 4 60) 60 4 4 false) (fun r => r.1.tile == 0) = true := by decide +kernel

/-- A grant at once; past the floor; past the quota; of an absent copy. -/
theorem wit_GrantInTheAskingStep :
    let s := user 0 []
    let floor := fun (n : Nat) => onTile s (fun x => { x with floors := Vector.replicate 7 (BitVec.ofNat 15 n) })
    let quota := { s with ctxs := [(0, { context with resquota := [(0, 3)] })] }
    let ask := fun (s : State) (name : Nat) (p : State → Bool) => (findSeg s 0 name).any (fun g =>
      (tabFind g.copies 0).isSome && okAnd (grantRefs s (.tile 0 0) 0 0 [⟨name, 0, g⟩]) p)
    let fails := fun (s : State) (name : Nat) (k : Nat) => (findSeg s 0 name).any (fun g =>
      errAnd (grantRefs s (.tile 0 0) 0 0 [⟨name, 0, g⟩]) (isTrap k))
    (getTile s 0).grants = [] ∧ ask s 1 (fun v => v.touches == 1) = true ∧ ask (floor 4) 1 (fun _ => true) = true ∧
    fails (floor 3) 1 15 = true ∧
    (match lookGrant quota 0 0 0 [(1, 4)] none with | .traps x => x.cond == 12 | _ => false) = true ∧
    (findSeg s 0 5).any (fun g => errAnd (grantRefs s (.tile 0 0) 0 0 [⟨5, 0, g⟩]) (fun r => match r with
      | .wait w _ => w.what == .grant
      | _ => false)) = true := by decide +kernel

/-- LD of the last doubleword; LDL of an FP32 and from a BF16 segment that has a width; a segment without one; a poisoned
sector. -/
theorem wit_LoadResults :
    let s := user 0 [] [(1, mkA 1 248), (2, mkA 3 0), (3, mkA 0 0)]
    let x := user 2 [] [(1, mkA 1 0), (2, mkA 3 0), (3, mkA 7 0)]
    let p := withSegs s [(1, segAs 256 0 { copyAt 0 [] with poison := [3] })]
    let bp := withSegs x [(7, segAs 4096 0x900 (copyAt 0 []))]
    retires s (.ld { m0 with rd := 5, ar := 1, sz := 3 }) = true ∧ traps 8 s (.ld { m0 with rd := 5, ar := 3 }) = true ∧
    traps 40 p (.ld { m0 with rd := 5, ar := 1, sz := 3 }) = true ∧
    retires x (.ldl { q0 with ar := 1, qn := 15, aux := 0xBF }) = true ∧ traps 27 bp (.ldl { q0 with ar := 3 }) = true := by
  decide +kernel

/-- The first bytes of segment 1, as its data lists them. -/
theorem test_ld_little_endian :
    effect (user 0 [] [(1, mkA 1 0)]) (.ld { m0 with rd := 5, ar := 1, sz := 1 })
      (fun t => (getStrand t (.tile 0 0)).getG 5 == 0x2211) = true := by decide +kernel

/-- ST to the last word of a segment, a rel store with and without a command before it, and STL. -/
theorem wit_StoreResultsAndFrame :
    let s := user 0 [(5, 0x1234)] [(1, mkA 1 252), (2, mkA 0 0)]
    let k := withCmd s (command (.ce 0) 4)
    retires s (.st { m0 with rd := 5, ar := 1, sz := 2 }) = true ∧ retires s (.st { m0 with rd := 5, ar := 1, ord := 2 }) = true ∧
    waits 11 k (.st { m0 with rd := 5, ar := 1, ord := 2 }) = true ∧ traps 8 s (.st { m0 with rd := 5, ar := 2 }) = true ∧
    retires (user 2 [] [(1, mkA 1 0)]) (.stl { q0 with ar := 1, qn := 2, aux := 0x40 }) = true ∧
    (findSeg s 0 1).any (fun g => (tabFind g.copies 0).any (fun c => c.data.wf)) = true := by decide +kernel

/-- SZERO of 0, 1, 70 and 2^20 + 1 bytes; SCOPY of a range to itself, to a range that overlaps, and to one that does not, as it
reads and as it writes its last portion. -/
theorem wit_CopyAndZero :
    let s := user 0 [(5, 0), (6, 1), (7, 0x100001), (8, 70)] [(1, mkA 1 0), (2, mkA 1 0), (3, mkA 1 69), (4, mkA 1 70)]
    let read := onTile s (fun x => x.setStrand 0 { x.strand 0 with staged := some [7] })
    ([.szero { r0 with rd := 33, rb := 5 }, .szero { r0 with rd := 33, rb := 6 }, .scopy { r0 with rd := 33, ra := 34, rb := 5 }] :
      List Instr).all (retires s) = true ∧
    ([.szero { r0 with rd := 33, rb := 8 }, .scopy { r0 with rd := 33, ra := 34, rb := 8 }, .scopy { r0 with rd := 33, ra := 36, rb := 8 }] :
      List Instr).all (goesOn s) = true ∧
    retires read (.scopy { r0 with rd := 33, ra := 36, rb := 6 }) = true ∧
    traps 10 s (.szero { r0 with rd := 33, rb := 7 }) = true ∧ traps 10 s (.scopy { r0 with rd := 33, ra := 34, rb := 7 }) = true ∧
    traps 10 s (.scopy { r0 with rd := 33, ra := 35, rb := 8 }) = true := by decide +kernel

/-- SALLOC with the least and the greatest length, a bad name, length, word and home; the other words on a segment that is
free of commands, that a command names, and that is RO, PUSHED or NOPUSH. -/
theorem wit_SegmentManagement :
    let big := (getTile (user 0 []) 0)
    let s := user 0 [(1, 9), (2, 64), (3, 0x100001), (4, 63), (5, 0x10), (6, 1), (7, 5), (8, 0x01C0000000000000), (9, 0x20), (10, 4097),
      (11, 256), (12, 640), (13, 0x10000), (14, 2), (15, 4), (16, 192), (17, 3)]
    let p := super 0 [(1, 9), (2, 64), (5, 0x10)]
    let gr := fun (s : State) (name n : Nat) =>
      onTile s (fun x => x.setStrand 0 { x.strand 0 with granted := some ⟨0, [(name, n)], none⟩ })
    let named := withCmd s { command (.ce 0) 4 with names := [1] }
    let salloc := fun (ra rb rc : BitVec 6) => Instr.salloc { r0 with ra := ra, rb := rb, rc := rc }
    big.floors[0] = 3072 ∧
    waits 11 s (salloc 1 2 0) = true ∧ retires (gr s 9 1) (salloc 1 2 0) = true ∧ retires (gr p 9 1) (salloc 1 2 5) = true ∧ traps 8 s (salloc 0 2 0) = true ∧
    traps 9 s (salloc 10 2 0) = true ∧ traps 9 s (salloc 13 2 0) = true ∧ traps 9 s (salloc 6 2 0) = true ∧
    traps 10 s (salloc 1 4 0) = true ∧ traps 10 s (salloc 1 3 0) = true ∧ traps 27 s (salloc 1 2 9) = true ∧
    traps 5 s (salloc 1 2 5) = true ∧ traps 14 s (salloc 1 2 8) = true ∧
    retires s (.sfree { r0 with ra := 6 }) = true ∧ waits 11 named (.sfree { r0 with ra := 6 }) = true ∧
    retires s (.sgrow { r0 with ra := 6, rb := 11 }) = true ∧ waits 11 s (.sgrow { r0 with ra := 17, rb := 12 }) = true ∧
    retires (gr s 3 10) (.sgrow { r0 with ra := 17, rb := 12 }) = true ∧
    traps 10 s (.sgrow { r0 with ra := 6, rb := 16 }) = true ∧
    retires s (.sattr { r0 with ra := 6, rb := 14 }) = true ∧ traps 27 s (.sattr { r0 with ra := 6, rb := 9 }) = true ∧
    traps 14 s (.sattr { r0 with ra := 6, rb := 15 }) = true ∧ traps 5 s (.sattr { r0 with ra := 6, rb := 5 }) = true ∧
    waits 11 named (.sattr { r0 with ra := 6, rb := 14 }) = true ∧
    retires s (.srecall { r0 with ra := 6 }) = true ∧ retires s (.srecall { r0 with ra := 7 }) = true ∧
    retires s (.srecall { r0 with ra := 1 }) = true ∧ waits 11 s (.spush { r0 with ra := 6 }) = true ∧ retires s (.spush { r0 with ra := 7 }) = true ∧
    waits 11 named (.spush { r0 with ra := 6 }) = true ∧
    retires s (.squery { r0 with rd := 5, ra := 1 }) = true ∧ retires s (.squery { r0 with rd := 5, ra := 6, fn := 2 }) = true := by
  decide +kernel

/-- A copy on its way out and one on its way back; a queue head that is alive and one that is not. -/
theorem wit_ResidencyMovements :
    let s := user 0 []
    let res := fun (r : Residency) => withSegs s [(5, segAs 64 0 { copyAt 0 [] with res := r })]
    let q := fun (name : Nat) => { onTile s (fun x => { x with grants := [⟨none, 0, 0, 0, [(name, 1)], false, 0, false, 4096, none, false⟩] }) with ctxs := s.ctxs }
    nextAnd (exec (.push 0 0 5) (res .pushing)) (· != res .pushing) = true ∧
    nextAnd (exec (.push 0 0 5) (res .resident)) (· == res .resident) = true ∧
    nextAnd (exec (.recallMove 0 0 5) (res .recalling)) (· != res .recalling) = true ∧
    grantLives (q 5) ⟨none, 0, 0, 0, [(5, 1)], false, 0, false, 4096, none, false⟩ = true ∧ (getTile (q 5) 0).grants ≠ [] ∧
    quotaImpossible (q 5) 0 0 [(5, 1)] = false ∧
    (match lookGrant (q 5) 0 0 0 [(5, 1)] none with | .recalling _ => true | _ => false) = true ∧
    (match lookGrant (q 1) 0 0 0 [(1, 4)] none with | .granted => true | _ => false) = true ∧
    grantLives { q 5 with ctxs := [] } ⟨none, 0, 0, 0, [(5, 1)], false, 0, false, 4096, none, false⟩ = false := by decide +kernel

/-! ### Witnesses: lines -/

/-- The last row, column and diagonal of the last register. -/
theorem wit_LineMapping : ∀ r ∈ ([⟨15, 0, 63⟩, ⟨15, 1, 63⟩, ⟨15, 2, 63⟩] : List MRef), r.reg < 16 ∧ r.dir ≤ 2 ∧ r.idx < 64 ∧
    mCell r 63 = (63, if r.dir = 2 then 62 else 63) := by decide +kernel

/-- An operand queue with a line, filled or not, one that is POISONED, and a full drain queue. -/
theorem wit_LineOperands :
    let line := fun (filled : Bool) => (⟨filled, false, Line.zero, 0, 1, 0, 0, 4, false⟩ : QLine)
    let s := user 2 []
    let c := CoreId.tile 0 2
    let oq := fun (q : Queue) => onTile s (fun x => setOpQueue x 7 q)
    let pop : FL := { l0 with ld := 0x100, la := 0x4C7 }
    let push : FL := { l0 with ld := 0x4C3, la := 0x200 }
    let err := fun (x : Ex LineIn) (k : Nat) => errAnd x (fun r => match r with
      | .wait w _ => w.kind == k
      | .trap t _ => t.cond == k
      | _ => false)
    okAnd (lineIn c pop [pop.la] false true (oq { Queue.empty with lines := [line true] })) (fun _ => true) = true ∧
    err (lineIn c pop [pop.la] false true (oq { Queue.empty with lines := [line false] })) 2 = true ∧
    err (lineIn c pop [pop.la] false true (oq { Queue.empty with state := .poisoned, cause := 0x140 })) 22 = true ∧
    err (lineIn c push [push.la] false true (onTile s (fun x => setDrQueue x 3 { Queue.empty with lines := List.replicate 16 (line true) }))) 3 = true ∧
    okAnd (lineIn c push [push.la] false true s) (fun i => i.en == BitVec.allOnes 64) = true ∧
    okAnd (lineIn c { push with rm := 6 } [push.la] false true (world 2 { strandAt .user [] [] with rmdyn := 5 })) (fun i => i.rm == 5) = true ∧
    err (lineIn c { push with rm := 6 } [push.la] false true (world 2 { strandAt .user [] [] with rmdyn := 6 })) 4 = true ∧
    popOf pop.la = some 7 ∧ pushOf push.ld = some 3 ∧ pushOf pop.ld = none := by decide +kernel

/-- QRD of one line and into a full queue, QWR of one line and from an empty queue, QCNT of both kinds. -/
theorem wit_QueueWords :
    let line : QLine := ⟨true, false, Line.zero, 0, 1, 0, 0, 4, false⟩
    let l := user 1 [] [(1, mkA 1 0)]
    let w := user 3 [] [(1, mkA 1 0)]
    let f : FQ := { q0 with qn := 3, ar := 1, aux := 1 }
    retires l (.qrd f) = true ∧ waits 11 (onTile l (fun x => setOpQueue x 3 { Queue.empty with lines := List.replicate 16 line })) (.qrd f) = true ∧
    waits 11 (onTile l (fun x => setOpQueue x 3 { Queue.empty with state := .poisoned })) (.qrd f) = true ∧
    retires (onTile w (fun x => setDrQueue x 3 { Queue.empty with lines := [line] })) (.qwr f) = true ∧ waits 11 w (.qwr f) = true ∧
    retires l (.qcnt { q0 with qn := 7, rc := 5 }) = true ∧ retires l (.qcnt { q0 with qn := 11, rc := 5, aux := 1 }) = true ∧
    nextAnd (exec (.qrdLineFill 0 3) (onTile l (fun x => setOpQueue x 3 { Queue.empty with lines := [{ line with filled := false }] })))
      (fun t => (opQueue (getTile t 0) 3).lines.all (·.filled)) = true := by decide +kernel

theorem wit_LineMoves :
    let s := user 2 [(6, 0xFF)]
    let f : FL := { l0 with ld := 0x100, la := 0x201 }
    ([.movl f, .bcast { f with lb := 63 }, .perm { f with lb := 0x202 }, .limml { f with fn := 2, lb := 0xFFF },
      .psel { f with lb := 0x202, pe := 1 }, .bpunp { f with lb := 8, ty := 9, fn := 8 }, .ins { f with lb := 63 },
      .extr { f with ld := 31, lb := 63, ty := 10 }, .osminit { l0 with ld := 0x13F }] ++
      (List.range 10).map (fun n => .pset { l0 with ld := 7, fn := BitVec.ofNat 4 n }) : List Instr).all (retires s) = true := by
  decide +kernel

/-- Each floating word on lines of zeros completes, and FRCP of zero raises DZ, which traps when it is enabled. -/
theorem wit_FloatLineResults :
    let s := user 2 []
    let f : FL := { l0 with ld := 0x100, la := 0x201 }
    let g : FL := { f with lb := 0x202 }
    ([.fadd g, .fsub g, .fmul g, .fma g, .fexp2 f, .flog2 f, .frcp f, .frsq f, .fscale g, .fcvt { f with ty := 4, fn := 8 },
      .fmax g, .fmin g, .fabs f, .fneg f] : List Instr).all (retires s) = true ∧
    traps 28 (world 2 { strandAt .user [] [] with fpEn := 63 }) (.frcp f) = true := by decide +kernel

theorem wit_ExactValuesKeepTheirCodes : firstNan [readElem 3 0x7E] = none ∧ firstNan [readElem 4 0x7C] = none ∧
    firstNan [readElem 3 0x7F] ≠ none := by decide +kernel

/-- Each integer word completes on lines of zeros; IADD of two lines of the largest INT8 saturates, and traps when SAT is
enabled. -/
theorem wit_IntegerLineResults :
    let s := user 2 [(6, 0x7F)]
    let g : FL := { l0 with ld := 0x100, la := 0x201, lb := 0x202, ty := 7 }
    let h : FL := { g with la := 0x0C6, lb := 0x0C6, fn := 1 }
    ([.iadd g, .isub g, .imul g, .imad g, .ishl g, .ishr g, .imin g, .imax g, .iand g, .ior g, .ixor g,
      .iadd { g with ty := 5 }, .iadd { g with ty := 8 }] : List Instr).all (retires s) = true ∧
    effect s (.iadd h) (fun t => lineGet (readM (getTile t 0) ⟨1, 0, 0⟩) 63 == 0x7F) = true ∧
    traps 28 (world 2 { strandAt .user [(6, 0x7F)] [] with fpEn := 63 }) (.iadd h) = true := by decide +kernel

theorem wit_CompareReduceAndScan :
    let s := user 2 []
    let f : FL := { l0 with ld := 0x100, la := 0x201 }
    ([.icmp { f with ld := 7, lb := 0x202, ty := 5, fn := 5 }, .fcmp { f with ld := 0, lb := 0x202, fn := 7 }, .redsum f,
      .redsum { f with ty := 5, fn := 1 }, .redmax f, .redmin { f with ty := 8 }, .scanadd f, .scanadd { f with ty := 5 },
      .bppack { f with ty := 9, fn := 8 }, .osmx f] : List Instr).all (retires s) = true ∧
    traps 40 (onTile s (fun x => { x with mBad := [256 * 1 + 4 * 1] })) (.osmx f) = true := by decide +kernel

/-! ### Witnesses: the matrix engine -/

/-- A number as the sum of fields at bit offsets. -/
def fields (l : List (Nat × Nat)) : Nat := (l.map (fun e => e.2 * 2 ^ e.1)).sum

/-- The `n` bytes of a number at an address, as memory lists them. -/
def numAt (a n v : Nat) : Memory := ((leBytes n v).zipIdx.filter (fun e => e.1 != 0)).map (fun e => (a + e.2, e.1))

/-- X of tile 0 with BF16 and FP32 segments, and ACC3 bound or not. -/
def engineAt (bound : Bool) (g : List (Nat × Word)) (data : Memory := []) : State :=
  let s := user 2 g [(1, mkA 1 0), (2, mkA 2 0), (3, mkA 3 0), (4, mkA 4 0)]
  { s with ctxs := [(0, { context with
      segs := [(1, segAs 32768 0x100 (copyAt 0 [])), (2, segAs 65600 0 (copyAt 512 data)), (3, segAs 1024 0 (copyAt 1537 [])),
        (4, segAs 1024 0 (copyAt 1553 []))]
      accs := if bound then [(3, Acc.fresh 0)] else [] })] }

/-- The engine free, frozen, and with each word on sources it accepts. -/
theorem wit_PlanesAndBindings :
    let s := engineAt false []
    let f : FX := { x0 with an := 3 }
    let words : List Instr := [.mldw { x0 with ar1 := 1, tw := 1 }, .mswap x0, .mrank1 { f with ar1 := 3, ar2 := 4, ta := 0, tw := 0 },
      .acczero f, .accpin f, .accunpin f]
    words.all (waits 11 (onTile s (fun x => { x with mx := { x.mx with frozen := true } }))) = true ∧
    (getTile s 0).mx.frozen = false ∧ mattaskOn s 0 = false ∧
    ([.mldw { x0 with ar1 := 1, tw := 1 }, .mswap x0, .acczero f, .accpin f, .accunpin f] : List Instr).all (retires s) = true ∧
    issues s (.mrank1 { f with ar1 := 3, ar2 := 4 }) = true ∧
    okAnd (mxSeg s (.tile 0 2) (mkA 3 0) 512 4 0 false) (fun x => x.1.tile == 0 && !segPoisoned s 0 x.1.name x.1.tile x.2 512) = true ∧
    okAnd (readyAcc s 0 0 3) (fun _ => true) = true ∧
    (let a := { Acc.fresh 0 with pin := true }
     traps 25 { s with ctxs := [(0, { context with accs := [(0, a), (1, a), (2, a)] })] } (.accpin f)) = true := by
  decide +kernel

/-- Row words with a legal count of 1, of 2, with 0, and with 129 rows. -/
theorem wit_MatrixStreams :
    let s := engineAt true [(5, 1), (6, 0), (7, 129), (8, 2)]
    let f : FX := { x0 with an := 3, ar1 := 3, rk := 5 }
    let st : FX := { x0 with an := 3, ar1 := 1, rk := 6, ta := 1 }
    ([.accrd { f with rk := 6 }, .accwr { f with rk := 6 }] : List Instr).all (retires s) = true ∧
    ([.mstream { st with rk := 7 }, .accrd { f with rk := 7 }, .accwr { f with rk := 7 }] : List Instr).all (traps 26 s) = true ∧
    traps 26 (engineAt false [(5, 1)]) (.accrd f) = true ∧ retires s (.mstream st) = true ∧
    (getTile s 0).mx.active.unloaded = none ∧
    ([.mstream { st with rk := 8 }, .accrd { f with rk := 8 }, .accwr { f with rk := 8 }] : List Instr).all (goesOn s) = true ∧
    okAnd (mxSeg s (.tile 0 2) (mkA 1 0) 256 2 1 false) (fun x => okAnd (operandGrant s (.tile 0 2) [x.1]) (fun w =>
      okAnd (rowEnters (.tile 0 2) st (some x) 128 0 0 w) (fun v => (getTile v 0).mx.wave.isSome &&
        (getAcc v 0 0 3).isSome))) = true ∧
    goesOn s (.mstream { st with rk := 5 }) = true ∧
    retires (onTile s (fun x => { x with mx := { x.mx with
      wave := some (Wave.enter [])
      prog := { Progress.zero with state := .active, an := 3 } } })) (.mstream { st with rk := 5 }) = true := by
  decide +kernel

/-- No token, one token, 129 tokens, and GDREAD of an UNBOUND name. -/
theorem wit_DeltaWords :
    let f : FX := { x0 with an := 3, ar1 := 3, ar2 := 4, rk := 5 }
    let s := engineAt true [(5, 0), (6, 129), (7, 1), (8, 2)]
    retires s (.gdelta { f with ar2 := 0 }) = true ∧ retires s (.gdread f) = true ∧
    traps 26 s (.gdelta { f with ar2 := 0, rk := 6 }) = true ∧ traps 26 s (.gdread { f with rk := 6 }) = true ∧
    traps 26 (engineAt false [(5, 0)]) (.gdread f) = true ∧
    ([.gdelta { f with ar1 := 2, ar2 := 0, rk := 8 }, .gdread { f with rk := 8 }] : List Instr).all (goesOn s) = true ∧
    okAnd (mxSeg s (.tile 0 2) (mkA 3 0) 512 4 0 false) (fun x => okAnd (mxSeg s (.tile 0 2) (mkA 4 0) 512 4 0 true) (fun y =>
      okAnd (operandGrant (bindAcc s 0 0 3) (.tile 0 2) [x.1, y.1]) (fun w =>
        okAnd (tokenStep (.tile 0 2) f false true (some x) (some y) 2 0 w) (fun _ => true)))) = true := by
  decide +kernel

/-- The header of an image of 0 rows of context 0, closed and not pinned; and one that is pinned and of context 5. -/
def image (ctx : Nat) : Memory := numAt 0 8 (2 ^ 32 + ctx)

/-- A spill of a bound and of an UNBOUND name; a fill from an image of the context, of another, and from no image; and the
OTHER forms for a name of context 1, in both modes; each at its first access and at its last. -/
theorem wit_SpillAndFill :
    let f : FX := { x0 with an := 3, ar1 := 2 }
    let two := fun (s : State) (b : Bool) => { s with ctxs := s.ctxs ++ [(1, { newCtx { block with queue := 6 } with
      accs := if b then [(3, Acc.fresh 0)] else [] })] }
    let sup := fun (s : State) => { s with tiles := [(0, (getTile s 0).setStrand 2 { (getTile s 0).strand 2 with mode := .supervisor })] }
    let at_ := fun (s : State) (kind next : Nat) (head : List Byte) => onTile s (fun x => { x with mx := { x.mx with
      prog := { Progress.zero with state := .active, an := 3, kind := kind, next := next, head := some head } } })
    let step := fun (s : State) (n : Nat) => onTile s (fun x => x.setStrand 2 { x.strand 2 with step := n })
    goesOn (engineAt true []) (.accspill f) = true ∧ goesOn (at_ (engineAt true []) 3 126 []) (.accspill f) = true ∧
    retires (at_ (engineAt true []) 3 127 []) (.accspill f) = true ∧
    retires (at_ (engineAt false []) 4 127 (leBytes 64 (2 ^ 32))) (.accfill f) = true ∧
    okAnd (mxSeg (engineAt true []) (.tile 0 2) (mkA 2 0) 65600 64 0 true) (fun _ => true) = true ∧
    traps 26 (engineAt false []) (.accspill f) = true ∧
    traps 26 (engineAt false []) (.accfill f) = true ∧ traps 25 (engineAt false [] (image 5)) (.accfill f) = true ∧
    goesOn (engineAt false [] (image 0)) (.accfill f) = true ∧
    decodeTrap (two (engineAt false [(5, 1)]) true) (.tile 0 2) (.accspillOther { f with rk := 5, flags := 2 }) = some 5 ∧
    decodeTrap (two (engineAt false [(5, 1)]) true) (.tile 0 2) (.accfillOther { f with rk := 5, flags := 2 }) = some 5 ∧
    goesOn (sup (two (engineAt false [(5, 1)]) true)) (.accspillOther { f with rk := 5, flags := 2 }) = true ∧
    retires (step (sup (two (engineAt false [(5, 1)]) true)) 128) (.accspillOther { f with rk := 5, flags := 2 }) = true ∧
    traps 26 (sup (two (engineAt false [(5, 1)]) false)) (.accspillOther { f with rk := 5, flags := 2 }) = true ∧
    traps 26 (sup (two (engineAt false [(5, 1)]) true)) (.accfillOther { f with rk := 5, flags := 2 }) = true ∧
    goesOn (sup (two (engineAt false [(5, 1)] (image 1)) true)) (.accfillOther { f with rk := 5, flags := 2 }) = true ∧
    ([true, false] : List Bool).all (fun b =>
      retires (step (sup (two (engineAt false [(5, 1)] (image 1)) b)) 128) (.accfillOther { f with rk := 5, flags := 2 })) = true ∧
    runningOn (engineAt false []) 1 0 = false ∧ (Acc.fresh 0).vrows ≤ 128 := by decide +kernel

theorem wit_SpillAndFill_rows : ∀ r, (accRow (Acc.fresh 0) r).length = 128 := fun _ => rfl

/-! ### Witnesses: engines, tasks, memory and synchronisation -/

/-- FILL of 16 FP32 elements of segment `name`. -/
def fillRaw (name : Nat) : Nat :=
  fields [(0, 4), (16, 1), (24, 1), (288, name), (384, 16), (400, 1), (416, 1), (864, 0x3F800000)]

/-- A task packet with its entry at 0x1000. -/
def taskPacket : Nat := fields [(0, 2), (40, 1), (56, 1), (128, 0x1000)]

/-- Segment 7 holds a FILL of segment 1, segment 8 a task packet, segment 9 a valid AG descriptor. -/
def engines (m : Mode) (g : List (Nat × Word)) : State :=
  let s := world 0 (strandAt m g [(7, mkA 7 0), (8, mkA 8 0), (9, mkA 9 0), (1, mkA 1 0), (10, 0)])
  { s with ctxs := [(0, { context with
      segs := context.segs ++ [(7, segAs 256 0 (copyAt 1100 (numAt 0 128 (fillRaw 1)))), (8, segAs 64 0 (copyAt 1104 (numAt 0 64 taskPacket))),
        (9, segAs 64 0 (copyAt 1105 (numAt 0 64 (fields [(0, 0x200000), (64, 64), (128, 64), (160, 64), (192, 1), (208, 1), (232, 1)]))))]
      })] }

/-- ECMD of a well-formed and of an ill-formed command, into a full queue with and without NB; EKICK; EWAIT with its flag
set and clear; EPOLL; ELINK of each form of link; EQSTAT; WITHDRAW without producers. -/
theorem wit_EngineWords :
    let s := onTile (engines .user [(5, 0x10), (6, 0x0010000000000000)]) (fun x => { x with flags := 0x10 })
    let many := { s with cmds := (List.range 64).map (fun n => (n, command (.ce 0) (BitVec.ofNat 1024 (fillRaw 1)))) }
    let f : FQ := { q0 with ar := 7 }
    let raw := BitVec.ofNat 1024 (fillRaw 1)
    retires s (.ecmd f) = true ∧
    traps 30 s (.ecmd { f with disp := 128 }) = true ∧ traps 10 s (.ecmd { f with disp := 192 }) = true ∧
    traps 31 many (.ecmd { f with aux := 1 }) = true ∧ waits 9 many (.ecmd f) = true ∧
    retires s (.ekick { f with aux := 1 }) = true ∧ traps 31 many (.ekick { f with qn := 8, aux := 1 }) = true ∧
    waits 9 many (.ekick { f with aux := 1 }) = true ∧
    retires s (.ewait { q0 with aux := 4 }) = true ∧ retires s (.ewait { q0 with rc := 5, aux := 0x40 }) = true ∧
    waits 4 s (.ewait { q0 with aux := 63 }) = true ∧ retires s (.epoll { q0 with rc := 6 }) = true ∧
    retires s (.epoll { q0 with rc := 6, aux := 0x44 }) = true ∧
    retires s (.elink f) = true ∧ retires s (.elink { f with rc := 39 }) = true ∧ retires s (.elink { f with rc := 5 }) = true ∧
    traps 19 s (.elink { f with rc := 6 }) = true ∧ retires s (.eqstat { q0 with rc := 6 }) = true ∧
    retires s (.withdraw { q0 with aux := 4 }) = true ∧ producers s 0 0 0x10 = [] ∧
    (usedOpds raw).any (agRangeBad s 0) = false ∧ cmdNonstrict raw = false ∧
    (let one := fun (n : Nat) => { command (.ce 0) 4 with demand := n }
     withdrawOne (withCmd s (one 0), []) 0 = (withCmd s (one 0), []) ∧
     (withdrawOne (withCmd s (one 2), []) 0).1 = withCmd s { one 1 with withdrawals := 1 }) := by decide +kernel

/-- A launch of one task and one lap. -/
def launch : Launch :=
  { queue := 5, pos := 0, ctx := 0, tier := 1, packet := BitVec.ofNat 512 taskPacket, age := 0, state := .running, waitdef := 0,
    kdepth := 1, laps := 1, hold := false, next := 1, lap := 0, entries := [(0, 0, false)], lapAt := 0, left := 1, firstEnd := 0,
    lastEnd := 0, bound := 0, skew := 0, raised := false, retired := 0, refuse := 0, outcome := 0, cause := 0, members := [],
    gen := 0, fabInst := 0, colls := [], wanted := [], floored := [], load := none }

/-- Tile 0 runs task 0 of the launch. -/
def launched (s : State) (l : Launch) : State :=
  { onTile s (fun x => { x with task := some { placeTask with index := some 0, queue := 5 } }) with launches := [(0, l)], nextLaunch := 1 }

/-- SPAWN for a segment's tile and for an address, of a bad packet, into a full heap; TTREAD of each value; SKEWACK with no
record, with one, of another queue and of no queue; AGSET of a valid, the zero and a bad descriptor, and of a register that a
command names; AGGET; SLRES. -/
theorem wit_TaskAndGeneratorWords :
    let s := engines .user [(5, 5), (6, 0x40), (7, 6), (8, 1024), (9, 0x0010000000000000)]
    let full := { s with heap := (List.range 256).map (fun n => (n, ⟨0, 1, 0, 0, 5, n, 0, n, 0, false, .task 0 0 false⟩)), nextHeap := 256 }
    let f : FQ := { q0 with ar := 8, rc := 33 }
    let v : FQ := { q0 with ar := 8, qn := 1, rc := 6 }
    let t : FR := { r0 with rd := 5, ra := 10 }
    retires s (.spawnSeg f) = true ∧ retires s (.spawnVa v) = true ∧ traps 30 s (.spawnSeg { f with ar := 9 }) = true ∧
    traps 30 s (.spawnVa { v with ar := 9 }) = true ∧ traps 19 s (.spawnVa { v with rc := 9 }) = true ∧
    traps 31 full (.spawnSeg { f with aux := 1 }) = true ∧ waits 11 full (.spawnSeg f) = true ∧
    ((List.range 6).all (fun n => retires (launched s launch) (.ttread { t with fn := BitVec.ofNat 8 n }))) = true ∧
    traps 19 (launched s launch) (.ttread { t with ra := 5, fn := 4 }) = true ∧
    retires s (.skewack { t with ra := 5 }) = true ∧
    retires (launched s { launch with skew := 1 }) (.skewack { t with ra := 5 }) = true ∧
    traps 5 s (.skewack { t with ra := 7 }) = true ∧ traps 4 s (.skewack { t with ra := 8 }) = true ∧
    retires s (.agset { q0 with ar := 9, qn := 15 }) = true ∧ retires s (.agset { q0 with ar := 7, disp := 128 }) = true ∧
    traps 30 s (.agset { q0 with ar := 7 }) = true ∧
    waits 11 (withCmd s (command (.ns 0) (BitVec.ofNat 1024 (fields [(0, 4), (24, 1), (256, 2), (288, 15)])))) (.agset { q0 with ar := 9, qn := 15 }) = true ∧
    retires s (.agget { q0 with rc := 6, aux := 7 }) = true ∧ retires s (.slres { q0 with rc := 6 }) = true ∧
    retires s (.slres { q0 with rc := 6, aux := 5 }) = true ∧ retires s (.slres { q0 with rc := 6, aux := 2 }) = true := by
  decide +kernel

/-- Loads, stores and atomics of page 0: in it, misaligned, past the address space, not mapped, behind a failed link, on a
poisoned sector, and behind a command. -/
theorem wit_DeviceMemoryWords :
    let s := user 0 [(5, 7), (6, 0x40), (7, 0x41), (8, 0x000FFFFFFFFFFFF8), (9, 0x20000)]
    let k := withCmd s (command (.ce 0) 4)
    let f : FG := { g0 with rd := 5, rb := 6, sz := 3 }
    let bad := { s with poison := [0x200040 / 64] }
    let uc := { s with mem := Memory.writeBytes tables 0x103000 (leBytes 8 (Config.hostBase + 0x15F)) }
    let all : List Instr := [.ldg f, .stg f, .atg { f with aop := 1 }]
    all.all (retires s) = true ∧
    ([.ldg { f with rb := 7 }, .stg { f with rb := 7 }, .atg { f with rb := 7 }] : List Instr).all (traps 7 s) = true ∧
    ([.ldg { f with rb := 8, disp := 8 }, .stg { f with rb := 8, disp := 8 }, .atg { f with rb := 8, disp := 8 }, .prefg { g0 with rb := 8, disp := 8 }] :
      List Instr).all (traps 19 s) = true ∧
    errAnd (devXlat s (.tile 0 0) 0x20000 8 .read) (fun r => match r with
      | .fault x _ => x.cond == 16
      | _ => false) = true ∧
    traps 40 bad (.ldg f) = true ∧ traps 40 bad (.atg f) = true ∧ traps 20 uc (.atg f) = true ∧
    waits 11 k (.stg { f with ord := 2 }) = true ∧ waits 11 k (.atg { f with ord := 2 }) = true ∧
    ([.prefg { g0 with rb := 6 }, .prefg { g0 with rb := 9 }, .fence { g0 with scope := 5 }, .fence g0] : List Instr).all (retires s) = true ∧
    waits 11 k (.fence { g0 with scope := 1 }) = true ∧ retires k (.fence g0) = true ∧ s.mem.wf = true := by decide +kernel

/-- The halfword at physical address 0x200040, as memory lists it. -/
theorem test_ldg_little_endian :
    effect (user 0 [(6, 0x40)]) (.ldg { g0 with rd := 5, rb := 6, sz := 1 }) (fun t => (getStrand t (.tile 0 0)).getG 5 == 0x1234) = true := by
  decide +kernel

/-- ATL; a mapped and an unmapped semaphore, at the limit of 2^32 - 1, with and without units and a queue; the barriers of a
tile and of a task, for the last to arrive and not. -/
theorem wit_Synchronisation :
    let s := user 0 [(5, 3)] [(1, mkA 1 8)]
    let sem := fun (n : Nat) (q : List CoreId) => { s with sems := [(3, ⟨n, q, 0, false⟩)] }
    let f : FQ := { q0 with aux := 9 }
    let b := launched s { launch with left := 2, entries := [(0, 0, false), (1, 4, false)] }
    retires s (.atl { m0 with rd := 5, ar := 1, sz := 3, sh := 1 }) = true ∧ traps 7 s (.atl { m0 with rd := 5, ar := 1, sz := 3, disp := 4 }) = true ∧
    waits 11 (withCmd s (command (.ce 0) 4)) (.atl { m0 with rd := 5, ar := 1, sz := 3, ord := 2 }) = true ∧
    semOf s (.tile 0 0) 9 = some 3 ∧ semOf s (.tile 0 0) 8 = none ∧
    ([.sempost q0, .semwait q0, .semtry q0] : List Instr).all (traps 33 s) = true ∧
    retires (sem 0xFFFFFFFE []) (.sempost f) = true ∧ traps 33 (sem 0xFFFFFFFF []) (.sempost f) = true ∧
    retires (sem 1 []) (.semwait f) = true ∧ waits 5 (sem 0 []) (.semwait f) = true ∧ waits 5 (sem 1 [.tile 0 1]) (.semwait f) = true ∧
    retires (sem 1 []) (.semtry { f with rc := 6 }) = true ∧ retires (sem 0 []) (.semtry { f with rc := 6 }) = true ∧
    retires s (.bar q0) = true ∧ waits 8 (onTile s (fun x => x.setStrand 1 { Strand.blank with run := .running })) (.bar q0) = true ∧
    retires (launched s launch) (.bar { q0 with qn := 3 }) = true ∧ retires (launched s launch) (.bar { q0 with qn := 5 }) = true ∧
    waits 8 b (.bar { q0 with qn := 3 }) = true ∧ barTasks launch 5 0 ≠ [] := by decide +kernel

/-- A counter at 2^32 - 1 that is posted and waited for on both sides of the limit; a ring of 2 slots that is empty, full, and
absent; words that configure it, remove it and are not allowed. -/
theorem wit_BuffersAndRings :
    let s := user 0 [(5, 0x7FFFFFFF), (6, 0x80000000), (7, 0x7FFFFFFE), (8, 0x20064), (9, 0x64), (10, 0x220064), (11, 0x200064)]
    let ring := fun (pa pr ca cr : Nat) => onTile s (fun x => { x with rings := [(1, ⟨0, 100, 2, pa, pr, ca, cr, 0, 0⟩)] })
    let f : FQ := { q0 with qn := 1, rc := 37 }
    retires s (.ringpost { q0 with aux := 2 }) = true ∧ traps 34 s (.ringpost { q0 with aux := 4 }) = true ∧
    traps 34 s (.ringwait { q0 with aux := 4, rc := 5 }) = true ∧ ringCount s (.tile 0 0) 2 = some 0xFFFFFFFF ∧
    waits 6 s (.ringwait { q0 with aux := 2, rc := 5 }) = true ∧ retires s (.ringwait { q0 with aux := 2, rc := 6 }) = true ∧
    retires (ring 0 0 0 0) (.acqbufP f) = true ∧ retires (ring 1 1 0 0) (.acqbufP f) = true ∧ waits 7 (ring 2 2 0 0) (.acqbufP f) = true ∧
    waits 7 (ring 0 0 0 0) (.acqbufC { f with aux := 1 }) = true ∧ retires (ring 1 1 0 0) (.acqbufC { f with aux := 1 }) = true ∧
    traps 34 s (.acqbufP f) = true ∧ traps 34 s (.acqbufC { f with aux := 1 }) = true ∧
    retires (ring 1 0 0 0) (.relbufP { q0 with qn := 1 }) = true ∧ traps 34 (ring 0 0 0 0) (.relbufP { q0 with qn := 1 }) = true ∧
    retires (ring 1 1 1 0) (.relbufC { q0 with qn := 1, aux := 1 }) = true ∧ traps 34 (ring 1 1 0 0) (.relbufC { q0 with qn := 1, aux := 1 }) = true ∧
    traps 34 s (.relbufP { q0 with qn := 1 }) = true ∧
    retires s (.relbufSet { q0 with qn := 1, rc := 8, aux := 2 }) = true ∧ retires (ring 0 0 0 0) (.relbufSet { q0 with qn := 1, rc := 9, aux := 2 }) = true ∧
    traps 34 s (.relbufSet { q0 with qn := 1, rc := 10, aux := 2 }) = true ∧
    traps 34 (ring 1 0 0 0) (.relbufSet { q0 with qn := 1, rc := 8, aux := 2 }) = true ∧
    (let w := waiting 0 { waitOn .ringSlot 6 2 (.ringwait { q0 with aux := 2, rc := 6 }) with kind := 6 }
     (ctxCores w 0).filter (fun d => (waitingIn w d [.ringSlot]).any (fun w => w.name.toNat == 2)) = [.tile 0 0] ∧
     (ctxCores s 0).filter (fun d => (waitingIn s d [.ringSlot]).any (fun w => w.name.toNat == 2)) = []) := by decide +kernel

/-! ### Witnesses: translation, the supervisor and pre-emption -/

/-- A fault of C of tile 0 on a page. -/
def faultOn (va : Nat) : FaultInfo :=
  { party := .core (.tile 0 0), ctx := 0, cond := 16, reason := 0, level := 3, mega := false, va := va, acc := .read, size := 3, tile := 0,
    unit := 0, src := 0, pc := 64, done := 0, queued := false }

/-- C is parked at a fault with an entry open, and the driver's answer stands in the entry. -/
def answered (resp : Nat) (owner : FqOwner) (park : ParkWhy) (va : Nat) : State :=
  let s := world 0 { strandAt .user [] [] with run := .parked, park := some park, tcause := 0x80 }
  { s with
    ctxs := [(0, { context with fqNext := 1, fqOpen := [(0, owner)] })]
    prq := [(0, ⟨0, va / 65536, false, .read, 0, none, [faultOn va]⟩)]
    responses := [(0, 0, resp)]
    mem := Memory.write tables 0x500038 (BitVec.ofNat 8 resp) }

theorem wit_TranslationAndFaults :
    let s := user 0 []
    let ok := fun (x : Except XFail XOk) (p : Nat → Bool) => okAnd x (fun r => p r.pa)
    let fails := fun (x : Except XFail XOk) (cond reason level : Nat) => errAnd x (· == ⟨cond, reason, level, false⟩)
    let ro := { s with mem := Memory.write tables 0x103000 0x07 }
    let out := { s with parts := [(0, ⟨2, 1024, 0, 0, 0, true, 0⟩)] }
    let open_ := (List.range 64).map (fun n => (n, FqOwner.notice))
    let full := { s with ctxs := [(0, { context with fqNext := 64, fqOpen := open_, fqDeferred := [(.tile 0 0, 0, 8, 64)] })] }
    let due := { s with ctxs := [(0, { context with fqDeferred := [(.tile 0 0, 0, 8, 64)] })] }
    let a1 := answered 1 (.pageRequest 0) (.fault (faultOn 0)) 0
    let a2 := answered 2 (.pageRequest 0) (.fault (faultOn 0x20000)) 0x20000
    let a3 := fun (r : Nat) => answered r (.trapPark (.tile 0 0)) .trapped 0
    ok (walk s 0 0xFFFF .write .user) (· == 0x20FFFF) = true ∧ fails (walk s 0 (2 ^ 30) .read .user) 16 0 1 = true ∧
    fails (walk ro 0 0 .write .user) 17 2 3 = true ∧ fails (walk out 0 0 .read .user) 17 3 3 = true ∧
    mayAdmit s (faultOn 0x20000) = true ∧ prqMatch s (faultOn 0x20000) = none ∧ prqRoom s (faultOn 0x20000) = some none ∧
    (prqMatch { s with prq := [(0, ⟨0, 2, false, .read, 0, none, []⟩)] } (faultOn 0x20000)).isSome = true ∧
    mayAdmit full (faultOn 0x20000) = false ∧ fqFull full 0 = true ∧ fqFull due 0 = false ∧
    nextAnd (exec (.faultEntryPost 0) due) (· != due) = true ∧ nextAnd (exec (.faultEntryPost 0) full) (· == full) = true ∧
    nextAnd (exec (.respRetry 0 0) a1) (fun t => (getStrand t (.tile 0 0)).run == .running) = true ∧
    nextAnd (exec (.respAbort 0 0) a1) (· == a1) = true ∧
    nextAnd (exec (.respAbort 0 0) a2) (fun t => (getStrand t (.tile 0 0)).tcause == 16 * 8) = true ∧
    nextAnd (exec (.respRetry 0 0) a2) (· == a2) = true ∧
    nextAnd (exec (.respRetry 0 0) (a3 1)) (fun t => (getStrand t (.tile 0 0)).run == .running) = true ∧
    nextAnd (exec (.respAbort 0 0) (a3 2)) (fun t => (getTile t 0).task.isNone) = true ∧
    nextAnd (exec (.respRetry 0 0) (answered 1 .notice .trapped 0)) (fun t => t.responses == []) = true := by decide +kernel

/-- The state with context 1 of queue 6 and partition 8 beside context 0, and a core program of no context. -/
def driver (g : List (Nat × Word)) (mem : Memory := tables) : State :=
  let s := super 0 g
  { s with
    ctxs := s.ctxs ++ [(1, newCtx { block with queue := 6, part := 8 })]
    parts := [(0, ⟨0xFF, 1024, 0, 0, 0, true, 0⟩),
      (8, ⟨0xFF00, 1024, 0, 0, 0, true, 0⟩)]
    mem := mem }

/-- A context state block for context 2, queue 7, partition 8, at 0x300000, and a partition descriptor at 0x300100. -/
def blocks : Memory :=
  numAt 0x300000 8 (fields [(0, 2), (24, 7), (34, 8)]) ++ numAt 0x300018 8 0 ++ numAt 0x300020 8 (2 ^ 36) ++ numAt 0x300028 8 (2 ^ 36) ++
    numAt 0x300100 8 0xFF0000 ++ numAt 0x300108 8 1024

/-- Each supervisor word on a good argument, and on arguments past its range, of nothing, and of the other group. -/
theorem wit_SupervisorWords :
    let g : List (Nat × Word) := [(5, 6), (6, 8), (7, 1), (8, 1024), (9, 64), (10, 512), (11, 0x300000), (12, 0x300100), (13, 16), (14, 33),
      (15, 256), (16, 5), (17, 3), (18, 31), (19, 0x0010000000000000), (20, 0x2401), (21, 0x800001), (22, 0x2402), (23, 511)]
    let s := driver g (tables ++ blocks)
    let u := user 0 g
    let third : Partition := ⟨0xFF0000, 1, 0, 0, 0, false, 0⟩
    let f : FS := { s0 with ra := 5, rb := 24 }
    let ra := fun (k : FS → Instr) (r : BitVec 6) => k { f with ra := r }
    retires s (.tlbinvAll { s0 with fn8 := 2 }) = true ∧ retires s (.tlbinvVa f) = true ∧
    traps 19 s (.tlbinvVa { f with ra := 19 }) = true ∧ traps 4 s (.tlbinvVa { f with rb := 10 }) = true ∧
    retires s (.tlbinvCtx { s0 with fn8 := 1, rb := 24 }) = true ∧ traps 4 s (.tlbinvCtx { s0 with fn8 := 1, rb := 10 }) = true ∧
    issues u (.tlbinvAll { s0 with fn8 := 2 }) = false ∧
    retires s (ra .qkill 5) = true ∧ traps 4 s (ra .qkill 8) = true ∧ ctxNo s (.tile 0 0) ∉ boundCtxs s 6 ∧
    retires s (ra .preset 6) = true ∧ traps 4 s (ra .preset 9) = true ∧ traps 4 s (ra .preset 13) = true ∧
    retires s (.semmapMap { f with ra := 20, rb := 7 }) = true ∧ retires s (.semmapUnmap { f with fn8 := 1, ra := 20 }) = true ∧
    traps 4 s (.semmapMap { f with ra := 21, rb := 7 }) = true ∧ traps 4 s (.semmapMap { f with ra := 22, rb := 7 }) = true ∧
    retires s (.partsetDef { f with ra := 12, rb := 13 }) = true ∧ traps 4 s (.partsetDef { f with ra := 12, rb := 9 }) = true ∧
    traps 4 s (ra (fun f => .partsetDel { f with fn8 := 1 }) 6) = true ∧ traps 4 s (ra (fun f => .partsetDel { f with fn8 := 1 }) 13) = true ∧
    retires { s with parts := s.parts ++ [(16, third)] } (ra (fun f => .partsetDel { f with fn8 := 1 }) 13) = true ∧
    retires s (ra (fun f => .partsetVfquota { f with fn8 := 2 }) 18) = true ∧ traps 4 s (ra (fun f => .partsetVfquota { f with fn8 := 2 }) 14) = true ∧
    retires s (ra (fun f => .partsetVfused { f with fn8 := 3 }) 18) = true ∧
    retires s (ra .ctxldLoad 11) = true ∧ traps 4 s (ra .ctxldLoad 12) = true ∧
    retires s (ra (fun f => .ctxldHold { f with fn8 := 2 }) 7) = true ∧ retires s (ra (fun f => .ctxldRelease { f with fn8 := 3 }) 7) = true ∧
    retires s (ra (fun f => .ctxldDestroy { f with fn8 := 1 }) 7) = true ∧ traps 4 s (ra (fun f => .ctxldDestroy { f with fn8 := 1 }) 10) = true ∧
    traps 4 s (ra (fun f => .ctxldHold { f with fn8 := 2 }) 23) = true ∧
    retires s (.dbgscanRun { s0 with fn8 := 2, ra := 7 }) = true ∧ traps 4 s (.dbgscanRun { s0 with fn8 := 2, ra := 15 }) = true ∧
    traps 5 s (.dbgscanRun { s0 with fn8 := 2, ra := 9 }) = true ∧ traps 7 s (.dbgscanOut { s0 with ra := 7, rb := 16 }) = true ∧
    issues s (.dbgscanOut { s0 with ra := 7, rb := 11 }) = true ∧ traps 26 s (.dbgscanIn { s0 with fn8 := 1, ra := 7, rb := 11 }) = true := by
  decide +kernel

/-- An array image of zeros is one that DBGSCAN.IN loads: device memory that nothing has written holds one. -/
theorem wit_SupervisorWords_scan : scanOk (paBytes State.reset 0x200000 524352).toArray = true := by
  have hz : ∀ n pa, pa + n ≤ 2 ^ 39 → ∀ x ∈ paBytes State.reset pa n, x = 0 := by
    intro n
    induction n with
    | zero => intro _ _ x hx; cases hx
    | succ n ih =>
      intro pa h x hx
      rcases List.mem_cons.1 hx with rfl | hx
      · have : isTier2 pa = false := by
          simp only [isTier2, Config.tier2Base, Bool.and_eq_false_iff, decide_eq_false_iff_not]; left; omega
        simp [paByte, this]; rfl
      · exact ih (pa + 1) (by omega) x hx
  have h : ∀ i, byteAt (paBytes State.reset 0x200000 524352).toArray i = 0 := by
    intro i
    simp only [byteAt, Array.getD_eq_getD_getElem?, List.getElem?_toArray]
    cases h1 : (paBytes State.reset 0x200000 524352)[i]? with
    | none => rfl
    | some x => rw [hz _ _ (by omega) x (List.mem_of_getElem? h1)]; rfl
  simp [scanOk, h]

/-- PREEMPT of a tile with a task, without, past 255, and of the other group; a request of each kind that may take effect and
that may not; the save; the resumption. -/
theorem wit_Preemption :
    let s := super 0 [(5, 0), (6, 1), (7, 255), (8, 256)]
    let f : FS := { s0 with ra := 5, rb := 9 }
    let p : Preempt := { kind := 2, effect := false, since := 0, by_ := [], states := [], operands := 0 }
    let req := fun (s : State) (p : Preempt) => onTile s (fun x => { x with preempt := some p })
    let open_ := { req s p with ctxs := [(0, { context with accs := [(0, { Acc.fresh 0 with opened := true })] })] }
    let saved := req (user 1 []) { p with kind := 1, effect := true, by_ := [(0, .tile 3 0)] }
    let kept := { onTile (user 1 []) (fun x => { x with task := none }) with
      heap := [(0, savedEntry (user 1 []) 0 placeTask)], nextHeap := 1,
      saves := [(0, ⟨placeTask, (getTile (user 1 []) 0).saved 0, 1, false⟩)] }
    waits 11 s (.preemptK f) = true ∧ waits 11 s (.preemptR { f with fn8 := 1 }) = true ∧ retires s (.preemptK { f with ra := 6 }) = true ∧
    traps 4 s (.preemptK { f with ra := 8 }) = true ∧ traps 5 s (.preemptK { f with ra := 7 }) = true ∧
    mxOpen (req s p) 0 0 = false ∧ mxOpen (req (engineAt true []) p) 0 0 = false ∧
    mxOpen open_ 0 0 = true ∧
    nextAnd (exec (.preemptREffect 0) (req s p)) (fun t => (getTile t 0).preempt == some { p with effect := true }) = true ∧
    p.since + 2 * (388 * 1 + 1300) < 3377 ∧
    nextAnd (exec (.preemptRFallback 0) { open_ with cycle := 3377 }) (fun t => (getTile t 0).preempt.any (·.kind == 3)) = true ∧
    nextAnd (exec (.preemptRFallback 0) { open_ with cycle := 3376 }) (· == { open_ with cycle := 3376 }) = true ∧
    nextAnd (exec (.preemptRFallback 0) (req s p)) (fun t => (getTile t 0).preempt == some { p with effect := true }) = true ∧
    preemptHolds (req s p) (.tile 0 0) = true ∧ preemptHolds open_ (.tile 0 0) = false ∧
    nextAnd (exec (.taskSave 0) (req s p)) (· == req s p) = true ∧
    (getTile saved 0).preempt.any (·.effect) = true ∧ (getTile saved 0).task = some placeTask ∧
    (nextStart kept 0).map (fun e => (e.1, e.2.1.work, e.2.2)) = some (0, .saved 0, 0) ∧
    nextAnd (exec (.taskResume 0) kept) (fun v => (getTile v 0).task == some placeTask && v.saves == []) = true ∧
    placeTask.ctx < 512 ∧ placeTask.lap < 2 ^ 32 := by decide +kernel

/-! ### Witnesses: commands, launches and events from outside -/

/-- A command of a kind on segments 1 (256 bytes, FP32) and 3 (512 bytes, FP32), ready to run. -/
def running (raw : Nat) (queue : EngQueue) : Cmd :=
  { command queue (BitVec.ofNat 1024 raw) with state := .running, ranges := [] }

/-- An FP32 operand: its space and name, base, and elements, at descriptor `d`. -/
def opd (d space name base dim0 dim1 : Nat) : Nat :=
  fields [(256 + 192 * d, space), (288 + 192 * d, name), (320 + 192 * d, base), (384 + 192 * d, dim0), (400 + 192 * d, dim1), (416 + 192 * d, 1)]

/-- COPY of 16 elements of segment 1 to segment 3. -/
def copyRaw : Nat := fields [(0, 1), (16, 1), (24, 2)] + opd 0 0 1 0 16 1 + opd 1 0 3 0 16 1

/-- A fetch block that is missing, in the address space and past it; a command that is ready, one that another holds, and one
that fails its check; a written and a withdrawn one; a chain at its first entry and after its last. -/
theorem wit_CommandEvents :
    let c := CoreId.tile 0 0
    let s := user 0 []
    let far := world 0 { strandAt .user [] [] with pc := 0x0010000000000000 }
    let hole := world 0 { strandAt .user [] [] with pc := 0x20000 }
    let k := { command (.ce 0) (BitVec.ofNat 1024 copyRaw) with ranges := [] }
    let r := withCmd s k
    let chain : Chain := { next := mkA 7 0, count := 0, max := 4, loaded := false, status := none }
    let ch := withCmd (engines .user []) { command (.ce 0) 0 with chain := some chain }
    let ended := withCmd (engines .user []) { command (.ce 0) 0 with chain := some { chain with status := some 1 } }
    neededPc s c = some 64 ∧ okAnd (devXlat s c 64 64 .fetch) (fun x => !linkDown x.2 x.1.pa && !paPoisoned x.2 x.1.pa 64 &&
      permOk x.1.leaf .fetch .user) = true ∧ neededPc far c = some (2 ^ 52) ∧
    errAnd (devXlat hole c 0x20000 64 .fetch) (fun r => match r with | .fault _ _ => true | _ => false) = true ∧
    neededPc (fetchAt s (some 5)) c = none ∧
    (atHead r 0 k && checkerFree r k && ringMet r k && fencerecFree r 0 k && engineServes r k 0 && !engineBusy r 0 0 && poolTurn r 0 k 0 &&
      hasEntry k && okAnd (dispatchCheck r k) (fun _ => wholeHome r k == none)) = true ∧
    nextAnd (exec (.commandDispatch 0 0) r) (fun t => (tabFind t.cmds 0).any (·.state == .running)) = true ∧
    nextAnd (exec (.commandDispatch 0 0) (withCmd s { k with behind := [9], held := true })) (fun t => t.cmds.any (·.2.state == .queued)) = true ∧
    nextAnd (exec (.commandRetire 0) (withCmd s { k with state := .written })) (fun t => t.cmds == []) = true ∧
    nextAnd (exec (.withdrawnStop 0) (withCmd s { k with state := .running, withdrawn := true })) (fun t => t.cmds == []) = true ∧
    linkBad (mkA 7 0) = false ∧ nextAnd (exec (.chainEntryFetch 0) ch) (· != ch) = true ∧
    nextAnd (exec (.chainEntryFetch 0) ended) (· != ended) = true ∧ tabFind s.cmds 0 = none := by decide +kernel

/-- MCAST to a segment without REPLICA; COPY as it reads and as it writes its portion; FILL, FENCEREC; MATTASK at a row of D, a
K-step and a portion of its block; SELECT and TOPK reading, a record to write; ATTNPART at its query and at a position;
COLLECTIVE of one device, and of two as it waits, reads, writes and ends. -/
theorem wit_CommandKinds :
    let s := user 0 []
    let go_ := fun (raw : Nat) (q : EngQueue) (i : Instr) (p : State → Bool) => nextAnd (exec i (withCmd s (running raw q))) p
    let moved := fun (t : State) => t.cmds.any (fun e => decide (0 < e.2.progress))
    let near := fields [(0, 0x20), (16, 3), (24, 1), (928, 4)] + opd 0 0 1 0 16 1 + fields [(960, 3 * 2 ^ 32)]
    let top := fields [(0, 0x21), (16, 3), (24, 1), (832, 2)] + opd 0 0 1 0 16 1 + fields [(960, 3 * 2 ^ 32)]
    let work := { NearWork.zero with record := some [1, 2, 3, 4] }
    let coll := fields [(0, 0x30), (16, 1), (24, 2)] + opd 0 0 1 0 16 1 + opd 1 0 3 0 16 1
    let runs := fun (raw kind : Nat) => let k := running raw (.ce 0)
      k.state = .running ∧ k.held = false ∧ k.withdrawn = false ∧ hasEntry k = true ∧ cmdKind k.raw = kind
    runs copyRaw 1 ∧ runs (fillRaw 1) 4 ∧ runs near 0x20 ∧ runs top 0x21 ∧ runs coll 0x30 ∧
    let with_ := fun (k : Cmd) (i : Instr) (p : Cmd → Bool) =>
      nextAnd (exec i (withCmd s k)) (fun t => (tabFind t.cmds 0).any p)
    let read := fun (raw : Nat) => { running raw (.ce 0) with reads := List.replicate 16 (0, 127, 127), ready := true }
    let mat := fun (acc : Nat) (b : Option MatBlock) =>
      { running (fields [(0, 0x10), (16, 2), (24, 3), (835, acc)] + opd 0 0 1 0 2 1 + opd 1 0 3 0 2 2 + opd 2 0 3 64 2 1) (.ce 0) with
        engine := 0x800, block := b }
    let attn := fun (w : Option NearWork) =>
      { running (fields [(0, 0x22), (16, 3), (24, 3)] + opd 0 0 1 0 2 1 + opd 1 1 0 0x40 2 2 + opd 2 1 0 0x80 2 2) (.ns 0) with work := w }
    let pair := fun (k : Cmd) (got : Nat) => { withCmd s { k with launch := some 0, fed := 16, sent := 1 } with
      launches := [(0, { launch with members := [0, 1], gen := 7 })]
      colls := [⟨7, 0, 0, 1, 0, 0, 0, 0, 16, [], got⟩] }
    with_ (running copyRaw (.ce 0)) (.copy 0) (·.ready) = true ∧ with_ (read copyRaw) (.copy 0) (fun k => k.state == .written) = true ∧
    with_ (mat 0 none) (.mattask 0) (fun k => k.block.any (·.bRows.length == 1)) = true ∧
    with_ (mat 0 (some { newBlock (mat 0 none) 1 2 with bRows := List.replicate 2 [Machine.Num.zero, Machine.Num.zero] })) (.mattask 0)
      (fun k => k.block.any (·.aRows.length == 1)) = true ∧
    with_ (mat 0 (some { newBlock (mat 0 none) 1 2 with
      bRows := List.replicate 2 [Machine.Num.zero, Machine.Num.zero], aRows := [List.replicate 128 Machine.Num.zero] })) (.mattask 0)
      (fun k => k.block.any (·.steps == 1)) = true ∧
    with_ (mat 1 none) (.mattask 0) (fun k => k.block.any (·.read == 1)) = true ∧
    with_ (mat 0 (some ⟨1, [], [], 1, [[0, 0]], 0, 0⟩)) (.mattask 0) (fun k => k.state == .written) = true ∧
    with_ (attn none) (.attnpart 0) (fun k => k.work.any (·.query != [])) = true ∧
    with_ (attn (some { NearWork.zero with query := [0, 0] })) (.attnpart 0) (fun k => k.work.any (·.row.length == 2)) = true ∧
    with_ (attn (some { NearWork.zero with query := [0, 0], row := [(0, 127), (0, 127)] })) (.attnpart 0) (·.progress == 1) = true ∧
    nextAnd (exec (.collective 0) (pair (running coll (.ce 0)) 0)) (fun t => t.cmds.any (·.2.progress == 0)) = true ∧
    (match sourceCodes 0 (running coll (.ce 0)) 16 0 s with | .ok (xs, _) => xs.length == 16 | .error _ => false) = true ∧
    collFed (running coll (.ce 0)) 0 1 = false ∧ collFed { running coll (.ce 0) with fed := 16, sent := 1 } 0 1 = true ∧
    nextAnd (exec (.collective 0) (pair (running coll (.ce 0)) 64)) (fun t => t.cmds.any (·.2.progress == 16)) = true ∧
    nextAnd (exec (.collective 0) (pair { running coll (.ce 0) with progress := 16, acks := 1 } 64)) (fun t => t.colls == []) = true ∧
    go_ (copyRaw + 1) (.ce 0) (.mcast 0) (fun t => t.cmds == []) = true ∧
    go_ (fillRaw 1) (.ce 0) (.fill 0) moved = true ∧
    go_ (fields [(0, 0x3F), (16, 1), (24, 1)] + opd 0 1 0 0x80 64 1 + fields [(276, 1)]) (.ce 0) (.fencerec 0)
      (fun t => t.cmds.any (fun e => e.2.state == .written)) = true ∧
    go_ near (.ns 0) (.select 0) moved = true ∧ go_ top (.ns 0) (.topk 0) moved = true ∧
    (nearWork { running near (.ns 0) with work := some work }).record = some [1, 2, 3, 4] ∧
    nextAnd (exec (.select 0) (withCmd s { running near (.ns 0) with work := some work })) (fun t => t.cmds.any (fun e => e.2.wrote)) = true ∧
    with_ (read coll) (.collective 0) (fun k => k.state == .written) = true ∧ (cmdMembers s (running coll (.ce 0))).length ≤ 1 ∧
    nextAnd (exec (.copy 0) (withCmd s (running (fillRaw 1) (.ce 0)))) (fun t => t.cmds.any (fun e => e.2.progress == 0)) = true ∧
    selectTest 7 5 3 1 0 (.fin false 3 0) = true ∧ selectTest 0 0 0 0 0 (.fin false 0 0) = true := by decide +kernel

/-- Queue 5 with a ring of 16 slots at 0x700000, records at 0x710000, its descriptor at 0x800140, and EN and TAIL as given. -/
def queueAt (hq : HwQueue) (en tail : Nat) : State :=
  let s := user 0 []
  { s with
    tiles := []
    qtbase := 0x800000
    hwqs := [(5, hq)]
    mem := tables ++ numAt 0x700000 64 taskPacket ++ numAt 0x800140 8 0x700000 ++ numAt 0x800148 8 (fields [(0, 4), (8, en)]) ++
      numAt 0x800150 8 0x710000 ++ numAt 0x800158 8 tail }

/-- A launch in each of its states, on an idle tile, with an entry in the heap. -/
def startable : State :=
  { user 0 [] with
    tiles := []
    launches := [(0, launch)]
    launchTiles := [(0, [0])]
    heap := [(0, ⟨0, 1, 0, 0, 5, 0, 0, 0, 0, false, .task 0 0 false⟩), (1, ⟨0, 1, 0, 0, 5, 0, 0, 0, 0, false, .spawn (some 1) 0 0 0 0 0⟩)]
    nextHeap := 2 }

theorem wit_LaunchEvents :
    let on := { HwQueue.blank with en := true, tail := 1 }
    let en := { queueAt HwQueue.blank 1 0 with enWrites := [5] }
    let tail := fun (n : Nat) => { queueAt { HwQueue.blank with en := true } 1 n with tailWrites := [(5, n, true)] }
    let rd := queueAt on 1 1
    let chk := { startable with launches := [(0, { launch with state := .checking, next := 0 })] }
    let code := numAt 0x200F80 8 0x1E4C80A17 ++ numAt 0x200F88 8 0x80 ++ numAt 0x200F90 8 0x10000 ++ numAt 0x200FB8 8 0x100
    let obj := { chk with mem := tables ++ code }
    let loaded := fun (todo : List (Nat × Nat × Nat)) => { obj with
      launches := [(0, { launch with state := .checking, next := 0, load := some ⟨0xF80, 0, todo, [], none⟩ })] }
    let done := { queueAt on 1 1 with launches := [(0, { launch with left := 0 })] }
    let t3 := fun (n : Nat) => { startable with hwqs := [(5, { HwQueue.blank with waited := n })], heap := [(0, ⟨0, 3, 0, 0, 5, 0, 0, 0, 0, false, .task 0 0 false⟩)] }
    descOk en 5 = true ∧ nextAnd (exec (.queueEnable 5) en) (fun t => (getHwq t 5).en) = true ∧
    descOk { en with mem := [(0x800148, 4), (0x800149, 1)] } 5 = true ∧ descOk { en with mem := [(0x800140, 1), (0x800148, 4), (0x800149, 1)] } 5 = false ∧
    nextAnd (exec (.tailWrite 5) (tail 1)) (fun t => (getHwq t 5).tail == 1) = true ∧
    nextAnd (exec (.tailWrite 5) (tail 17)) (fun t => (getHwq t 5).qerr) = true ∧
    nextAnd (exec (.tailWrite 5) (tail 0)) (fun t => !(getHwq t 5).qerr && t.tailWrites == []) = true ∧
    mayRead rd 5 = true ∧ queueTurn rd 5 1 0 1 = true ∧ laidOut rd 0x700000 = true ∧ laidOut rd (recordAt rd 5 0) = true ∧
    packetCtx rd 5 (BitVec.ofNat 512 taskPacket) = some 0 ∧ packetBad (BitVec.ofNat 512 taskPacket) = true ∧
    nextAnd (exec (.packetRead 5) rd) (fun t => (getHwq t 5).head == 1) = true ∧
    nextAnd (exec (.ngukaLaunchCheck 0 none) chk) (fun t => t.launches == []) = true ∧
    nextAnd (exec (.ngukaLaunchCheck 0 (some 0xF80)) obj) (fun t => (tabFind t.launches 0).any (fun l => l.load.isSome)) = true ∧
    nextAnd (exec (.ngukaLaunchCheck 0 none) (loaded [(9, 64, 0)])) (fun t => (getTile t 0).grants.length == 1) = true ∧
    nextAnd (exec (.ngukaLaunchCheck 0 none) (loaded [])) (fun t => (tabFind t.launches 0).any (fun l => l.state == .running)) = true ∧
    findBase { obj with ctxs := [(0, { context with bases := [0xF80] })] } 0 0x1000 = some 0xF80 ∧
    (lapEntries { startable with launches := [] } { launch with packet := BitVec.ofNat 512 (taskPacket - 2 + 1) } 0 2 0 []).isSome = true ∧
    nextAnd (exec (.lapEntry 0) { startable with launches := [(0, { launch with left := 0, laps := 2 })] })
      (fun t => (tabFind t.launches 0).any (fun l => l.lap == 1 || l.refuse == 5)) = true ∧
    (nextStart startable 0).map (fun e => (e.1, e.2.2)) = some (0, 0) ∧
    nextAnd (exec (.dispatch 0) startable) (fun t => (getTile t 0).task.any (fun k => k.index == some 0)) = true ∧
    (nextStart { startable with heap := startable.heap.drop 1 } 0).map (fun e => (e.1, e.2.2)) = some (1, 1) ∧
    nextStart startable 1 = none ∧
    lapsOver { launch with left := 0 } = true ∧ launchBusy done 0 { launch with left := 0 } = false ∧ laidOut done (recordAt done 5 0) = true ∧
    nextAnd (exec (.launchCompletion 0) done) (fun t => t.launches == []) = true ∧
    ((tier3Ready (t3 0) 0).filter (fun e => waitedOut (t3 0) e.2) = []) ∧
    nextAnd (exec (.tier3Promotion 0) (t3 1575000)) (fun t => t.heap.any (·.2.promoted)) = true := by decide +kernel

/-- The record bytes of the spec's example of a refused packet, and of QKILL (R326). -/
theorem test_record_examples :
    leNat ((recordBytes 0 0 1 4 0 0 0).take 8) = 0x0100000100000004 ∧ leNat ((recordBytes 0 0x13F 3 2 0 0 0).take 8) = 0x01009F8300000002 := by
  decide +kernel

/-- The conditions of each event from outside, met and not. -/
theorem wit_OutsideEvents :
    let s := State.reset
    let off := { s with boot := .stopped }
    let vf := { user 0 [] with ctxs := [(0, { context with block := { block with vfv := true } })] }
    let h : HostAtomic := ⟨0x200040, 8, 1, 1, 0⟩
    let arr := { launched (user 0 []) { launch with members := [0, 1], gen := 7 } with hwqs := [] }
    let f : Flit := { dest := 0, src := 1, gen := 0, crcOk := true, body := .ack 0 0, seq := 0 }
    let port := withCmd s { command (.ce 0) 4 with flights := [(0, 3)] }
    let box := { user 0 [] with boxProgs := [(0, ⟨0, 0, 0⟩)], heap := startable.heap }
    let start : CoreStart := { ctx := 0, tile := 0, base := 0x40, args := [] }
    s.boot = .up ∧ off.boot ≠ .up ∧ (0x10000 : Nat) < 2 ^ 39 ∧ laidOut s 0x200000 = true ∧ laidOut s (2 ^ 39) = false ∧
    nextAnd (exec (.bar0Write 0x100 0x10000) s) (fun t => t.qtbase == 0x10000) = true ∧ nextAnd (exec (.bar0Write 0x100 0x10001) s) (· == s) = true ∧
    nextAnd (exec (.hostCxlMemWrite 0x200000 [1]) s) (fun t => t.mem == [(0x200000, 1)]) = true ∧
    nextAnd (exec (.hostCxlMemRead 0x200000 2) s) (fun t => t.hostData == [0, 0]) = true ∧
    nextAnd (exec (.hostAtomic 0x200040 1 3 1 0 true) s) (fun t => t.hostRace == some h) = true ∧
    nextAnd (exec (.hostAtomic 0x200040 1 3 1 0 false) s) (fun t => t.mem == [(0x200040, 1)]) = true ∧
    nextAnd (exec (.hostAtomic 0x200041 1 3 1 0 false) s) (· == s) = true ∧
    vf.vfEnable = true ∧ vfCtxs vf = [0] ∧ nextAnd (exec .vfDisable vf) (fun t => !t.vfEnable && (getTile t 0).preempt.any (·.effect)) = true ∧
    nextAnd (exec .vfEnable { vf with vfEnable := false }) (·.vfEnable) = true ∧
    nextAnd (exec .periodStart { s with cycle := 1048576 }) (fun t => t.periodStart == 1048576) = true ∧
    nextAnd (exec .shareWindow { s with cycle := 2100000 }) (fun t => t.shareStart == 2100000) = true ∧
    (gathering arr 5 7 0).isSome = true ∧ (gathering s 5 7 0).isNone = true ∧
    nextAnd (exec (.fabricArrival 5 1 7 0) arr) (· != arr) = true ∧ nextAnd (exec (.fabricArrival 5 1 0 0) s) (fun t => t.stale == 1) = true ∧
    nextAnd (exec (.flitReceive 0 f) port) (fun t => t.cmds.any (·.2.acks == 1)) = true ∧
    nextAnd (exec (.flitReceive 0 { f with crcOk := false }) port) (· == port) = true ∧
    nextAnd (exec (.flitReceive 0 { f with dest := 1 }) port) (fun t => t.misroute == 1) = true ∧
    port.cmds.filter (fun e => e.2.flights.any (·.2 == 3)) = [(0, { command (.ce 0) 4 with flights := [(0, 3)] })] ∧
    nextAnd (exec (.linkerr 3) s) (fun t => !(tabGet Port.full t.ports 3).up) = true ∧
    nextAnd (exec (.eccunc (.mem 0x200040)) s) (fun t => t.poison == [0x200040 / 64]) = true ∧
    nextAnd (exec .getMeasurements s) (fun t => t.hostData.length == 384) = true ∧
    nextAnd (exec (.hostLinkRetry true) { s with boot := .waitHost }) (fun t => t.boot == .up) = true ∧
    nextAnd (exec (.machinecheck 0) box) (fun t => t.mcLog == [(47, 0)]) = true ∧
    nextAnd (exec (.watchdog 0) { box with boxIdle := [(0, 16777216)] }) (fun t => t.mcLog == [(42, 0)]) = true ∧
    nextAnd (exec (.watchdog 0) box) (· == box) = true ∧
    partHasTile (user 0 []) (ctxPart (user 0 []) 0) 0 = true ∧
    nextAnd (exec (.coreProgramStart 0 start) (user 0 [])) (fun t => t.reports == [(0, 2)]) = true ∧
    nextAnd (exec (.coreProgramStart 1 start) (user 0 [])) (fun t => t.reports == [(1, 5)]) = true := by decide +kernel

/-! ### Witnesses: words without an opcode, one step -/

/-- Reserved slots hold no form (R37), so the last clause of O4 has words. -/
theorem wit_EncodedWordsDecodeBack :
    slotOf 0xE0 = none ∧ slotOf 0 = none ∧ ((0xE000000000000001 : Word).extractLsb' 56 8).toNat = 0xE0 ∧
    (formOf (Instr.add ⟨3, 4, 5, 0, 0, 0⟩)).isSome = true ∧ (Instr.add ⟨3, 4, 5, 0, 0, 0⟩).wf = true := by decide +kernel

/-- A step from a memory in canonical form that ends in a next state: the host's write of the value an unlisted
address reads as, which removes the entry. -/
theorem wit_StepKeepsMemoryCanonical :
    let s := { State.reset with mem := [(0x200000, 7)], schedule := [⟨0, .event (.hostCxlMemWrite 0x200000 [0])⟩] }
    s.mem.wf = true ∧ nextAnd (step s) (fun t => t.mem == []) = true := by decide +kernel

/-- A step that faults: a completion record whose ring lies where no memory is. -/
theorem wit_NeverRefused :
    let on := { HwQueue.blank with en := true, tail := 1 }
    let s := { queueAt on 1 1 with mem := [(0x800140 + 20, 0xFF)], launches := [(0, { launch with left := 0 })], schedule := [⟨0, .event (.launchCompletion 0)⟩] }
    (match step s with | .fault _ => true | _ => false) = true ∧ laidOut s (recordAt s 5 0) = false := by decide +kernel

/-- From reset with a word placed, the next step runs it: ADDI G3, G0, 5. -/
theorem test_placed_word_runs :
    nextAnd (step (State.reset.withFetchWord 64 (encode (.addi ⟨3, 0, 5, 0⟩)).toNat)) (fun t => (getStrand t (.tile 0 0)).getG 3 == 5) = true := by decide +kernel

/-- The words that hold no form: all zero, the pool header, a reserved slot, and one whose must-be-zero bit is set (R37, R41). -/
theorem test_words_without_a_form :
    let got := fun (w : Word) (i : Instr) => match decode w with | .ok j => j == i | .error _ => false
    got 0 .zeroword = true ∧ got 0xFE00050000000000 (.pool ⟨5⟩) = true ∧ got 0xE000000000000000 (.illop 0xE000000000000000) = true ∧
    got 0x0000000000000001 (.illop 1) = true ∧ (match decode 0x100C40C000000010 with | .ok _ => false | .error _ => true) = true := by
  decide +kernel

/-! ### Witnesses: what a step divides -/

/-- A name whose SALLOC is in progress, for an access, a query, a second SALLOC and Nguka; one that is made. -/
theorem wit_NamesInTheMaking :
    let s := withSegs (user 0 [(5, 9), (6, 64)] [(1, mkA 9 0)]) [(9, { segAs 64 0 (copyAt 1200 []) with making := true })]
    let made := withSegs s [(9, segAs 64 0 (copyAt 1200 []))]
    let l : Loading := ⟨0, 0, [(9, 64, 0)], [], none⟩
    errAnd (segCheck s 0 0 (mkA 9 0) 0 8 8 false) (isTrap 9) = true ∧ okAnd (segCheck made 0 0 (mkA 9 0) 0 8 8 false) (fun _ => true) = true ∧
    traps 9 s (.ld { m0 with rd := 7, ar := 1, sz := 3 }) = true ∧ effect s (.squery { r0 with rd := 7, ra := 5, fn := 1 }) (fun t => (getStrand t (.tile 0 0)).getG 7 == 0) = true ∧
    effect made (.squery { r0 with rd := 7, ra := 5, fn := 1 }) (fun t => (getStrand t (.tile 0 0)).getG 7 == 64) = true ∧
    (match loadTurn s (.loader 0) 0 l with | .goesOn _ y => y == l | _ => false) = true ∧
    (match loadTurn made (.loader 0) 0 l with | .goesOn _ y => y.todo == [] | _ => false) = true := by decide +kernel

/-- A queued request whose client's floor has been lowered, before and after it was admitted. -/
theorem wit_LoweredFloor :
    let s := onTile (user 0 []) (fun x => { x with floors := Vector.replicate 7 3 })
    floorOf s 0 0 < 4 ∧ (match lookGrant s 0 0 0 [(1, 4)] none with | .traps x => x.cond == 15 | _ => false) = true ∧
    (match lookGrant s 0 0 0 [(1, 4)] (some (4096, 4)) with | .granted => true | _ => false) = true := by decide +kernel

/-- Two pops of one queue, with two filled lines and with one; of two queues that both lack lines. -/
theorem wit_TwoPops :
    let line : QLine := ⟨true, false, Line.zero, 0, 1, 0, 0, 4, false⟩
    let f : FL := { l0 with ld := 0x100, la := 0x4C7, lb := 0x4C7 }
    let at_ := fun (n : Nat) => onTile (user 2 []) (fun x => setOpQueue x 7 { Queue.empty with lines := List.replicate n line })
    let lacks := fun (s : State) (f : FL) (n : Nat) => errAnd (lineIn (.tile 0 2) f [f.la, f.lb] false true s) (fun r => match r with
      | .wait w _ => w.kind == 2 && w.name == n
      | _ => false)
    popOf f.la = some 7 ∧ popOf f.lb = some 7 ∧ pushOf f.ld = none ∧
    okAnd (lineIn (.tile 0 2) f [f.la, f.lb] false true (at_ 2)) (fun _ => true) = true ∧
    lacks (at_ 1) f 7 = true ∧ lacks (at_ 0) { f with la := 0x4C6 } 6 = true := by decide +kernel

/-- ACCSPILL.OTHER of a binding with a parity error, at the row's access; a poisoned one. -/
theorem wit_SpillOther_parity :
    let f : FX := { x0 with an := 3, ar1 := 2, rk := 5, flags := 2 }
    let s := fun (a : Acc) (n : Nat) => let e := engineAt false [(5, 1)]
      onTile { e with ctxs := e.ctxs ++ [(1, { newCtx { block with queue := 6 } with accs := [(3, a)] })] }
        (fun x => x.setStrand 2 { x.strand 2 with mode := .supervisor, step := n })
    let bad := { Acc.fresh 0 with bad := [0] }
    goesOn (s bad 0) (.accspillOther f) = true ∧ traps 40 (s bad 1) (.accspillOther f) = true ∧
    traps 40 (s { Acc.fresh 0 with poison := true } 0) (.accspillOther f) = true ∧
    otherHolds (s bad 0) 1 0 (some 3) (some (.tile 0 2)) = false := by decide +kernel

/-- A walk that a turn divides: one entry read, and then the three that are left. -/
theorem wit_DividedWalk :
    let s := user 0 [(6, 0x40)]
    let cut := { s with walkReads := some 1 }
    goesOn cut (.ldg { g0 with rd := 5, rb := 6, sz := 1 }) = true ∧ retires s (.ldg { g0 with rd := 5, rb := 6, sz := 1 }) = true ∧
    (match walkOn s 1 ⟨0, 0x40, 0, 0x100000, false⟩ with
      | some w => w == ⟨0, 0x40, 1, 0x101000, false⟩ && (walkOn s 3 w).isNone
      | none => false) = true ∧ (getStrand s (.tile 0 0)).walk = none ∧ s.walkReads = none := by decide +kernel

/-- The clock after a post, and after the waiter ahead. -/
theorem wit_SemaphoreClocks :
    let sem := fun (x : Sem) => { user 0 [] with sems := [(3, x)] }
    let f : FQ := { q0 with aux := 9 }
    waits 5 (sem ⟨1, [], 1, false⟩) (.semwait f) = true ∧ waits 5 (sem ⟨1, [], 0, true⟩) (.semwait f) = true ∧
    retires (sem (Sem.newClock ⟨1, [.tile 0 0], 1, true⟩)) (.semwait f) = true := by decide +kernel

/-- A post that satisfies the ring wait of a queued command, and one that does not reach it. -/
theorem wit_RingCommands :
    let c := command (.ce 0) (BitVec.ofNat 1024 (fields [(0, 1), (10, 1), (24, 1), (896, 2), (928, 3)]))
    let s := withCmd (user 0 []) c
    cmdRwait c.raw = true ∧ ringKind c.raw = true ∧ ringCmd 0 2 3 c = true ∧ ringCmd 0 2 2 c = false ∧ ringCmd 1 2 3 c = false ∧
    ringCmd 0 1 3 c = false ∧ (releaseRing s 0 2 3).cmds.any (·.2.ringSeen) = true ∧
    (releaseRing s 0 2 2).cmds.any (·.2.ringSeen) = false := by decide +kernel

/-- A launch whose partition has lost the tile of its lap is refused with TIMETABLE. -/
theorem wit_LaunchOutOfItsPartition :
    let l := { launch with state := .checking, next := 0, load := some ⟨0, 0, [], [], none⟩ }
    let s := { startable with launches := [(0, l)] }
    let moved := { s with parts := [(0, ⟨2, 1024, 0, 0, 0, true, 0⟩)] }
    partHasTile moved (ctxPart moved 0) 0 = false ∧ partHasTile s (ctxPart s 0) 0 = true ∧
    (tabFind (acceptLaunch moved 0 l).launches 0).any (fun y => y.refuse == 5 && y.state == .ended) = true ∧
    (tabFind (acceptLaunch s 0 l).launches 0).any (fun y => y.refuse == 0 && y.state == .running) = true := by decide +kernel

/-- A freeze with a row in the array, at a depth; the array runs again with the row as it was. -/
theorem wit_FrozenRow :
    let e := { Engine.blank with wave := some (Wave.enter [Machine.Num.zero]) }
    let f := e.freeze 7 2
    f.frozen = true ∧ f.frozenAt = 7 ∧ (f.wave.map (·.front)) = some 2 ∧ f.flight.length = 3 ∧
    (f.freeze 9 5).frozenAt = 7 ∧ (f.thaw).frozen = false ∧ f.thaw.wave = f.wave := by decide +kernel

end Sys2Proof.Tests
end

/-! SUPPORT. How a step ends (R19, R36, R41, log entry 46): every meaning of the opcode table answers a next state, but for
the two events that fault where a ring of a queue has no storage. -/

namespace Sys2Proof.Proofs.Outcomes

open Sys2Proof Sys2Proof.Machine

/-! ### Words of a strand -/

/-- The machine neither stops with a fault nor refuses: it answers a next state. -/
def Answers (o : Out) : Prop := ∃ t, o = .next t

theorem answers_next (t : State) : Answers (.next t) := ⟨t, rfl⟩

theorem answers_ite {p : Prop} [Decidable p] {a b : Out} (ha : Answers a) (hb : Answers b) :
    Answers (if p then a else b) := by
  split
  · exact ha
  · exact hb

theorem finishWord_answers (c : CoreId) (i : Instr) (old : Option Wait) (last : Word) (r : Res) :
    Answers (finishWord c i old last r) := by
  cases r <;> exact answers_next _

theorem issueWord_answers (i : Instr) (b : Body) (s : State) : Answers (issueWord i b s) := by
  unfold issueWord
  dsimp only
  split
  · exact answers_next _
  · split
    · exact answers_next _
    · exact answers_ite (answers_next _) (finishWord_answers ..)

theorem finishPass_answers (c : CoreId) (f : FP) (g : Instr) (r : Rep) (old : Option Wait) (last : Word) (x : Res) :
    Answers (finishPass c f g r old last x) := by
  cases x <;> exact answers_next _

theorem repPass_answers (c : CoreId) (f : FP) (g : Instr) (r : Rep) (s : State) : Answers (repPass c f g r s) := by
  unfold repPass
  dsimp only
  split
  · exact finishPass_answers ..
  · exact answers_next _

theorem repStart_answers (c : CoreId) (f : FP) (r : Rep) (s : State) : Answers (repStart c f r s) := by
  unfold repStart
  refine answers_ite (answers_next _) ?_
  dsimp only
  split
  · exact answers_next _
  · split
    · exact answers_next _
    · split
      · exact answers_next _
      · exact answers_ite (answers_next _) (repPass_answers ..)

theorem execRep_answers (f : FP) (s : State) : Answers (execRep f s) := by
  unfold execRep
  dsimp only
  split
  · exact answers_next _
  · split
    · exact repPass_answers ..
    · exact repStart_answers ..

theorem issueAny_answers (i : Instr) (s : State) : Answers (issueAny i s) := by
  unfold issueAny
  split
  · exact execRep_answers ..
  · exact issueWord_answers ..
  · exact issueWord_answers ..
  · exact issueWord_answers ..
  · split
    · exact issueWord_answers ..
    · exact answers_next _

theorem Answers.markActed {o : Out} (c : CoreId) (h : Answers o) : Answers (markActed c o) := by
  obtain ⟨t, rfl⟩ := h
  exact answers_next _

/-! ### Waits -/

theorem relook_answers (whats : List WaitFor) (c : CoreId) (s : State) : Answers (relook whats c s) := by
  unfold relook
  split
  · exact answers_ite (answers_next _) (answers_ite (answers_next _) ((issueAny_answers ..).markActed c))
  · exact answers_next _

theorem relookAll_answers (whats : List WaitFor) (cs : List CoreId) (s : State) : Answers (relookAll whats cs s) := by
  induction cs generalizing s with
  | nil => exact answers_next s
  | cons c cs ih =>
    obtain ⟨t, ht⟩ := relook_answers whats c s
    simp only [relookAll, ht]
    exact ih t

theorem refilled_answers (s : State) (ctx : Nat) (c : CoreId) : Answers (refilled s ctx c) := by
  unfold refilled
  refine answers_ite ?_ (relook_answers ..)
  cases c
  · exact answers_next _
  · exact relook_answers ..

theorem refilledAll_answers (ctx : Nat) (cs : List CoreId) (s : State) : Answers (refilledAll ctx cs s) := by
  induction cs generalizing s with
  | nil => exact answers_next s
  | cons c cs ih =>
    obtain ⟨t, ht⟩ := refilled_answers s ctx c
    simp only [refilledAll, ht]
    exact ih t

theorem lookWait_answers (c : CoreId) (s : State) : Answers (lookWait c s) := by
  unfold lookWait
  split
  · exact answers_ite (answers_next _) ((issueAny_answers ..).markActed c)
  · exact answers_next _

theorem execPauseEnd_answers (c : CoreId) (s : State) : Answers (execPauseEnd c s) := by
  unfold execPauseEnd
  split
  · exact answers_ite (answers_next _) (answers_next _)
  · exact answers_next _

theorem execWfeWake_answers (c : CoreId) (s : State) : Answers (execWfeWake c s) := by
  unfold execWfeWake
  dsimp only
  split
  · exact answers_ite (answers_next _) (answers_ite (answers_next _) (answers_next _))
  · exact answers_next _

theorem lookPause_answers (c : CoreId) (s : State) : Answers (lookPause c s) := by
  unfold lookPause
  split
  · exact execPauseEnd_answers ..
  · exact execWfeWake_answers ..
  · exact answers_next _

/-! ### Grants -/

theorem answerCore_answers (s : State) (tile : Nat) (r : GrantReq) (c : CoreId) (trap : Option (Nat × Word × Word)) :
    Answers (answerCore s tile r c trap) :=
  answers_ite (answers_next _) (relook_answers ..)

theorem grantTrap_answers (s : State) (tile : Nat) (r : GrantReq) (t : TrapInfo) : Answers (grantTrap s tile r t) := by
  unfold grantTrap
  split
  · exact answerCore_answers ..
  · exact answers_next _
  · exact answers_next _
  · exact answers_next _
  · split <;> exact answers_next _
  · exact answers_next _
  · exact answers_next _

theorem grantNow_answers (s : State) (tile : Nat) (r : GrantReq) : Answers (grantNow s tile r) := by
  unfold grantNow
  split
  · exact answers_next _
  · exact answers_next _
  · exact answerCore_answers ..
  · exact answers_next _
  · exact answers_next _
  · exact answers_next _
  · split
    · split <;> exact answers_next _
    · exact answers_next _

theorem grantGone_answers (s : State) (tile : Nat) (r : GrantReq) : Answers (grantGone s tile r) := by
  unfold grantGone
  split
  · exact answers_ite (relook_answers ..) (answers_next _)
  · exact answers_next _
  · exact answers_next _
  · exact answers_next _
  · exact answers_next _
  · exact grantTrap_answers ..

theorem lookHead_answers (s : State) (tile : Nat) (r : GrantReq) : Answers (lookHead s tile r) := by
  unfold lookHead
  dsimp only
  split
  · exact grantNow_answers ..
  · exact answers_next _
  · exact answers_next _
  · exact answers_next _
  · exact grantTrap_answers ..
  · exact answers_next _

theorem execGrant_answers (tile : Nat) (s : State) : Answers (execGrant tile s) := by
  unfold execGrant
  dsimp only
  split
  · exact grantTrap_answers ..
  · split
    · exact answers_next _
    · exact answers_ite (answers_next _) (answers_ite (answers_next _)
        (answers_ite (grantGone_answers ..) (lookHead_answers ..)))

theorem execShunterMove_answers (tile ctx seg : Nat) (s : State) : Answers (execShunterMove tile ctx seg s) := by
  unfold execShunterMove
  split
  · exact answers_next _
  · split
    · exact answers_ite (answers_next _) (answers_next _)
    · exact answers_next _
  · exact answers_next _

theorem execAccRefill_answers (tile : Nat) (s : State) : Answers (execAccRefill tile s) := by
  unfold execAccRefill
  split
  · exact refilledAll_answers ..
  · exact relookAll_answers ..

theorem execSlotSpill_answers (tile : Nat) (s : State) : Answers (execSlotSpill tile s) := by
  unfold execSlotSpill
  split
  · exact relookAll_answers ..
  · exact answers_next _

/-! ### Commands -/

theorem runKind_answers (kinds : List Nat) (cmd : Nat) (s : State) (turn : State → Cmd → CEx State) :
    Answers (runKind kinds cmd s turn) := by
  unfold runKind
  split
  · exact answers_next _
  · exact answers_ite (answers_next _) (answers_next _)

theorem execCommandDispatch_answers (cmd engine : Nat) (s : State) : Answers (execCommandDispatch cmd engine s) := by
  unfold execCommandDispatch
  split
  · exact answers_next _
  · exact answers_ite (answers_next _) (answers_next _)

theorem execChainEntryFetch_answers (cmd : Nat) (s : State) : Answers (execChainEntryFetch cmd s) := by
  unfold execChainEntryFetch
  split
  · exact answers_next _
  · split
    · exact answers_next _
    · refine answers_ite (answers_next _) ?_
      split <;> exact answers_next _

theorem execCommandRetire_answers (cmd : Nat) (s : State) : Answers (execCommandRetire cmd s) := by
  unfold execCommandRetire
  split
  · exact answers_next _
  · exact answers_ite (answers_next _) (answers_next _)

theorem execWithdrawnStop_answers (cmd : Nat) (s : State) : Answers (execWithdrawnStop cmd s) := by
  unfold execWithdrawnStop
  split
  · exact answers_next _
  · exact answers_ite (answers_next _) (answers_next _)

/-! ### Launches and tasks -/

theorem execQueueEnable_answers (q : Nat) (s : State) : Answers (execQueueEnable q s) :=
  answers_ite (answers_ite (answers_next _) (answers_ite (answers_next _) (answers_next _))) (answers_next _)

theorem execTailWrite_answers (q : Nat) (s : State) : Answers (execTailWrite q s) := by
  unfold execTailWrite
  dsimp only
  split
  · exact answers_next _
  · exact answers_ite (answers_next _) (answers_ite (answers_next _) (answers_ite (answers_next _) (answers_next _)))

theorem execNgukaLaunchCheck_answers (id : Nat) (base : Option Nat) (s : State) :
    Answers (execNgukaLaunchCheck id base s) := by
  unfold execNgukaLaunchCheck
  split
  · refine answers_ite (answers_next _) ?_
    split
    · exact answers_next _
    · split <;> exact answers_next _
  · exact answers_next _

theorem execLapEntry_answers (id : Nat) (s : State) : Answers (execLapEntry id s) := by
  unfold execLapEntry
  split
  · exact answers_ite (answers_ite (answers_next _) (answers_next _)) (answers_next _)
  · exact answers_next _

theorem execDispatch_answers (g : Nat) (s : State) : Answers (execDispatch g s) := by
  unfold execDispatch
  split
  · split <;> exact answers_next _
  · exact answers_next _

theorem execTaskResume_answers (g : Nat) (s : State) : Answers (execTaskResume g s) := by
  unfold execTaskResume
  split
  · split <;> exact answers_next _
  · exact answers_next _

theorem execTaskSave_answers (tile : Nat) (s : State) : Answers (execTaskSave tile s) := by
  unfold execTaskSave
  dsimp only
  split
  · exact answers_ite (answers_next _) (answers_next _)
  · exact answers_next _

theorem execTier3Promotion_answers (g : Nat) (s : State) : Answers (execTier3Promotion g s) := by
  unfold execTier3Promotion
  split <;> exact answers_next _

theorem execCoreProgramStart_answers (g : Nat) (p : CoreStart) (s : State) : Answers (execCoreProgramStart g p s) := by
  unfold execCoreProgramStart
  refine answers_ite (answers_next _) ?_
  split
  · exact answers_next _
  · exact answers_ite (answers_next _) (answers_next _)

theorem execFabricArrival_answers (q dev gen inst : Nat) (s : State) : Answers (execFabricArrival q dev gen inst s) := by
  unfold execFabricArrival
  dsimp only
  split
  · exact answers_next _
  · exact answers_ite (answers_next _) (answers_next _)

/-! ### Waiting words, fetches, faults and movements -/

theorem execSemwaitGrant_answers (g n : Nat) (s : State) : Answers (execSemwaitGrant g n s) := by
  unfold execSemwaitGrant
  split
  · exact relook_answers ..
  · exact answers_next _

theorem execFetchBlockFill_answers (c : CoreId) (s : State) : Answers (execFetchBlockFill c s) := by
  unfold execFetchBlockFill
  split <;> exact answers_next _

theorem execQrdLineFill_answers (tile q : Nat) (s : State) : Answers (execQrdLineFill tile q s) := by
  unfold execQrdLineFill
  split <;> exact answers_next _

theorem execRecall_answers (tile ctx seg : Nat) (s : State) : Answers (execRecall tile ctx seg s) := by
  unfold execRecall
  split
  · exact answers_ite (answers_next _) (answers_next _)
  · exact answers_next _

theorem execParkedFaultAdmit_answers (s : State) : Answers (execParkedFaultAdmit s) := by
  unfold execParkedFaultAdmit
  split <;> exact answers_next _

theorem execFaultEntryPost_answers (ctx : Nat) (s : State) : Answers (execFaultEntryPost ctx s) := by
  unfold execFaultEntryPost
  split
  · exact answers_ite (answers_next _) (answers_next _)
  · exact answers_next _

theorem execPreemptRFallback_answers (tile : Nat) (s : State) : Answers (execPreemptRFallback tile s) :=
  answers_ite (answers_next _) (answers_next _)

/-! ### The one fault -/

/-- The address of the packet at HEAD of a queue, or of the completion record of that packet or of a launch, by the descriptor
as it stands, has no storage (log entry 46). -/
def AbsentRecord (w : State) (pa : Nat) : Prop := ∃ q n,
  ((n = (getHwq w q).head ∧ pa = (queueWord w q 0).toNat + 64 * (n % queueSlots w q)) ∨
    ((n = (getHwq w q).head ∨ ∃ e ∈ w.launches, e.2.queue = q ∧ e.2.pos = n) ∧ pa = recordAt w q n)) ∧
  laidOut w pa = false

/-- The machine answers a next state, or stops at an address that a ring of a queue puts where nothing is laid out. -/
def Allowed (w : State) (o : Out) : Prop := Answers o ∨ ∃ pa, o = .fault (.noStorage pa) ∧ AbsentRecord w pa

theorem execPacketRead_allowed (q : Nat) (s : State) : Allowed s (execPacketRead q s) := by
  unfold execPacketRead
  dsimp only
  split
  · split
    · rename_i hpa
      exact .inr ⟨_, rfl, q, _, .inl ⟨rfl, rfl⟩, by simpa using hpa⟩
    · split
      · rename_i hrec
        exact .inr ⟨_, rfl, q, _, .inr ⟨.inl rfl, rfl⟩, by simpa using hrec⟩
      · exact .inl (answers_ite (answers_next _) (answers_next _))
  · exact .inl (answers_next _)

theorem mem_of_tabFind {V : Type} {m : Tab V} {i : Nat} {v : V} (h : tabFind m i = some v) : (i, v) ∈ m := by
  induction m with
  | nil => cases h
  | cons e m ih =>
    obtain ⟨k, w⟩ := e
    simp only [tabFind] at h
    split at h
    · injection h with h
      subst_vars
      exact List.mem_cons_self
    · exact List.mem_cons_of_mem _ (ih h)

theorem execLaunchCompletion_allowed (id : Nat) (s : State) : Allowed s (execLaunchCompletion id s) := by
  unfold execLaunchCompletion
  split
  · rename_i l hl
    split
    · split
      · rename_i hrec
        exact .inr ⟨_, rfl, l.queue, l.pos, .inr ⟨.inr ⟨_, mem_of_tabFind hl, rfl, rfl⟩, rfl⟩, by simpa using hrec⟩
      · exact .inl (answers_next _)
    · exact .inl (answers_next _)
  · exact .inl (answers_next _)

/-- Of the rows of the opcode table two can fault; REP, the events and the words of a strand answer, each by the lemma of the
operation that its meaning ends with. -/
theorem exec_allowed (i : Instr) (s : State) : Allowed s (exec i s) := by
  cases i
  case packetRead q => exact execPacketRead_allowed q s
  case launchCompletion id => exact execLaunchCompletion_allowed id s
  all_goals refine .inl ?_
  case rep f => exact execRep_answers f s
  case rdvJoin | taskRetire | couplingTake | segmentWaitEnd | queueSpaceWaitEnd | ewaitComplete | relOrderWaitEnd
    | fenceComplete | acqbufGrant | barComplete | qrdLineIssue | qwrLineWrite | lineOperandsReady => exact relook_answers ..
  case semwaitGrant g n => exact execSemwaitGrant_answers g n s
  case ringwaitRelease => exact relookAll_answers ..
  case pauseEnd c => exact execPauseEnd_answers c s
  case wfeWake c => exact execWfeWake_answers c s
  case fetchBlockFill c => exact execFetchBlockFill_answers c s
  case grant t => exact execGrant_answers t s
  case push t ctx n => exact answers_ite (answers_next _) (answers_next _)
  case recallMove t ctx n => exact execRecall_answers t ctx n s
  case shunterMove t ctx n => exact execShunterMove_answers t ctx n s
  case qrdLineFill t q => exact execQrdLineFill_answers t q s
  case accRefill t => exact execAccRefill_answers t s
  case slotSpill t => exact execSlotSpill_answers t s
  case parkedFaultAdmit => exact execParkedFaultAdmit_answers s
  case faultEntryPost ctx => exact execFaultEntryPost_answers ctx s
  case respRetry | respAbort => exact answers_ite (answers_next _) (answers_next _)
  case preemptRFallback t => exact execPreemptRFallback_answers t s
  case taskSave t => exact execTaskSave_answers t s
  case taskResume g => exact execTaskResume_answers g s
  case commandDispatch id e => exact execCommandDispatch_answers id e s
  case commandRetire id => exact execCommandRetire_answers id s
  case withdrawnStop id => exact execWithdrawnStop_answers id s
  case chainEntryFetch id => exact execChainEntryFetch_answers id s
  case copy | mcast | gather | fill | fencerec | mattask | select | topk | attnpart | collective =>
    rw [exec]
    exact runKind_answers ..
  case queueEnable q => exact execQueueEnable_answers q s
  case tailWrite q => exact execTailWrite_answers q s
  case ngukaLaunchCheck id base => exact execNgukaLaunchCheck_answers id base s
  case lapEntry id => exact execLapEntry_answers id s
  case dispatch g => exact execDispatch_answers g s
  case tier3Promotion g => exact execTier3Promotion_answers g s
  case coreProgramStart g p => exact execCoreProgramStart_answers g p s
  case fabricArrival q dev gen inst => exact execFabricArrival_answers q dev gen inst s
  case flitReceive | hostAtomic => exact answers_ite (answers_next _) (answers_ite (answers_next _) (answers_next _))
  case bar0Write =>
    exact answers_ite (answers_next _) (answers_ite (answers_next _) (answers_ite (answers_next _) (answers_next _)))
  case hostCxlMemRead | hostCxlMemWrite | vfDisable | vfEnable | machinecheck | watchdog | hostLinkRetry
    | getMeasurements => exact answers_ite (answers_next _) (answers_next _)
  case stall | heldErrorTake | engineErrorTrap | preemptREffect | periodStart | shareWindow | fabricPortDown | linkerr
    | linkRetrain | eccunc | correctedError | powerGood | thermalShutdown | idleClockInsertion => exact answers_next _
  case zeroword | illop | pool =>
    rw [exec]
    exact issueWord_answers ..
  all_goals exact issueWord_answers ..

/-! ### A turn -/

theorem Allowed.markActed {w : State} {o : Out} (c : CoreId) (h : Allowed w o) : Allowed w (markActed c o) := by
  obtain h | ⟨pa, rfl, hpa⟩ := h
  · exact .inl (h.markActed c)
  · exact .inr ⟨pa, rfl, hpa⟩

theorem Allowed.reading {w : State} {o : Out} (h : Allowed w o) : Allowed w o.reading := by
  obtain ⟨t, rfl⟩ | ⟨pa, rfl, hpa⟩ := h
  · exact .inl (answers_next _)
  · exact .inr ⟨pa, rfl, hpa⟩

/-- Strands hold nothing that queues, launches and the layout of storage rest on. -/
theorem absentRecord_modStrand (s : State) (c : CoreId) (f : Strand → Strand) (pa : Nat) :
    AbsentRecord (modStrand s c f) pa ↔ AbsentRecord s pa := by
  cases c <;> rfl

theorem absentRecord_entered (s : State) (c : CoreId) (pa : Nat) :
    AbsentRecord (entered s c) pa ↔ AbsentRecord s pa := by
  unfold entered
  split
  · exact absentRecord_modStrand ..
  · exact Iff.rfl

theorem Allowed.of_entered {s : State} {c : CoreId} {o : Out} (h : Allowed (entered s c) o) : Allowed s o :=
  h.imp_right fun ⟨pa, ho, hpa⟩ => ⟨pa, ho, (absentRecord_entered s c pa).1 hpa⟩

theorem exec_cur_allowed (i : Instr) (s : State) (c : CoreId) : Allowed s (exec i { s with cur := c }) :=
  exec_allowed i { s with cur := c }

theorem issueNext_allowed (c : CoreId) (s : State) : Allowed s (issueNext exec c s) := by
  unfold issueNext
  split
  · exact .inl (answers_next _)
  · dsimp only
    split
    · exact .inl (answers_next _)
    · exact (exec_cur_allowed _ (entered s c) c).of_entered.markActed c

theorem coreTurn_allowed (c : CoreId) (s : State) : Allowed s (coreTurn exec c s) := by
  unfold coreTurn
  split
  · exact .inl (answers_next _)
  · split
    · exact .inl (lookPause_answers c s)
    · split
      · exact (exec_cur_allowed _ s c).markActed c
      · split
        · exact .inl (answers_next _)
        · exact .inl (answers_next _)
        · exact .inl (answers_next _)
        · exact .inl (answers_ite (answers_next _) (lookWait_answers c s))
        · split
          · exact .inl (answers_next _)
          · exact issueNext_allowed c s

/-- By induction on the act, as one under a bound on its walks stands within another (R240). -/
theorem doAct_allowed (a : Act) (s : State) : Allowed s (doAct exec s a) := by
  induction a generalizing s with
  | issue c => exact coreTurn_allowed c s
  | event i => exact exec_allowed i s
  | walking n a ih => exact (show Allowed s _ from ih { s with walkReads := some n }).reading
  | boxLoad g =>
    simp only [doAct]
    split <;> exact .inl (answers_next _)
  | evict | fetchWord | bar0Read | windowDown | idle => exact .inl (answers_next _)

/-- The act sees the state in which the turn's clocks have passed. -/
theorem takeTurn_allowed (t : Turn) (s : State) :
    Allowed (if t.clocks = 0 then s else tick s t.clocks) (takeTurn exec t s) := by
  unfold takeTurn
  generalize (if t.clocks = 0 then s else tick s t.clocks) = w
  split
  · exact .inl (answers_next _)
  · exact doAct_allowed ..

/-- Settles O59, by cases on the turn and, in it, on the row of the opcode table: PACKET_READ and LAUNCH_COMPLETION alone can
fault, each behind a test that the address of its record is laid out. -/
theorem neverRefused : Obligations.NeverRefused := by
  unfold Obligations.NeverRefused
  intro s
  have h : Allowed _ (step s) := takeTurn_allowed (nextTurn s).1 (nextTurn s).2
  refine ⟨fun r hr => ?_, fun f hf => ?_⟩
  · rw [hr] at h
    obtain ⟨t, ht⟩ | ⟨pa, hpa, -⟩ := h
    · cases ht
    · cases hpa
  · rw [hf] at h
    obtain ⟨t, ht⟩ | ⟨pa, hpa, q, n, hrec, hout⟩ := h
    · cases ht
    · injection hpa with hpa
      exact ⟨pa, q, n, hpa, hrec, hout⟩

end Sys2Proof.Proofs.Outcomes

/-! SUPPORT. What DISPATCH does besides starting a task: the bindings of its context come back into the ownership table
(R168), an entry that makes way is written to the sidings of its own context (log entry 16), and the device notices that
write as any other (R244). -/

namespace Sys2Proof.Proofs.DispatchWakes

open Sys2Proof Sys2Proof.Machine

/-- A task that is no saved one starts when it is first in dispatch order. -/
theorem exec_dispatch_of_nextStart {s : State} {g id t : Nat} {e : HeapEntry} (h : nextStart s g = some (id, e, t))
    (hw : ∀ x, e.work ≠ .saved x) : exec (.dispatch g) s = .next (startEntry s id e t) := by
  change execDispatch g s = _
  unfold execDispatch
  rw [h]
  dsimp only
  split
  · rename_i x hx
    exact absurd hx (hw x)
  · rfl

/-- Sidings of one block and a fault queue in the same place, in the first window of the second tier (R296). -/
def sharedBlock : CtxBlock :=
  { rings := 0, part := 0, queue := 0, vf := 0, vfv := false, tier := 0, ptbase := 0, sidbase := Config.tier2Base,
    sidsize := 64, fqbase := Config.tier2Base, savebase := 0, resq := 0, skew := 0, replay := 0 }

/-- A SPILLED binding, with or without an entry of the ownership table. -/
def spilledAcc (entry : Bool) : Acc := { Acc.fresh 0 with loc := .spilled, entry := entry }

/-- The context of the task: a binding on tile 0 has lost its entry, and entry 0 of its fault queue is unanswered. -/
def startingCtx : Context := { newCtx sharedBlock with accs := [(0, spilledAcc false)], fqOpen := [(0, .notice)] }

/-- A context that does not run and holds the eight entries of tile 0's ownership table. -/
def evictedCtx : Context := { newCtx sharedBlock with accs := (List.range 8).map (fun n => (n, spilledAcc true)) }

/-- A launch of one task, whose floors stand on tile 0. -/
def oneTaskLaunch : Launch := { newLaunch 0 0 0 0 0 0 0 [] with floored := [0] }

/-- Its task, for tile 0. -/
def oneTaskEntry : HeapEntry :=
  { group := 0, tier := 0, deadline := 0, age := 0, queue := 0, pos := 0, ctx := 0, launch := 0, since := 0,
    promoted := false, work := .task 0 0 false }

/-- The state after reset with the two contexts, the launch and its task in the heap, and no expander behind the first port, so
that its window reads as all ones (R237). -/
def crowdedTable : State :=
  { State.reset with
    ctxs := [(0, startingCtx), (1, evictedCtx)], launches := [(0, oneTaskLaunch)], heap := [(0, oneTaskEntry)],
    ports := [(0, { bytes := 0, up := false, failed := false })] }

theorem nextStart_crowdedTable : nextStart crowdedTable 0 = some (0, oneTaskEntry, 0) := by decide +kernel

/-- The entry that makes way for the task's binding is written over the RESP of the task's context: it reads as a response, and
the strands of the task see it in their wake latches (R244, R318). -/
theorem startEntry_wakes_strand :
    ((getTile (startEntry crowdedTable 0 oneTaskEntry 0) 0).strand 1).wake = 4 := by decide +kernel

/-- Refutes O57: DISPATCH does not leave strands 1 to 3 of its tile blank where the write of an evicted directory entry
(R168) reaches the RESP of an unanswered fault-queue entry of the starting context (R244): their wake latches hold the reason. -/
theorem not_launchEvents : ¬ Obligations.LaunchEvents := by
  unfold Obligations.LaunchEvents
  intro h
  obtain ⟨-, -, -, -, -, -, -, -, hdispatch, -⟩ := h
  obtain ⟨-, hstart⟩ := hdispatch crowdedTable 0 0 0 oneTaskEntry nextStart_crowdedTable
  have hwork : ∀ x, oneTaskEntry.work ≠ .saved x := nofun
  obtain ⟨v, k, hv, -, -, -, -, -, -, -, -, -, -, -, hblank, -⟩ := hstart oneTaskLaunch rfl hwork
  rw [Happens, exec_dispatch_of_nextStart nextStart_crowdedTable hwork] at hv
  injection hv with hv
  have hwake := startEntry_wakes_strand
  rw [hv, hblank 1 (by decide) (by decide)] at hwake
  exact absurd hwake (by decide)

end Sys2Proof.Proofs.DispatchWakes

/-! SUPPORT. Words on lines: how a word ends once its operands are there (R141, R151), and with it the results of the
floating-point words, the compares, the reductions and the scans (R153 to R161). -/

namespace Sys2Proof.Proofs.LineWords

open Sys2Proof Sys2Proof.Machine Sys2Proof.Laws

section Ends

variable {s u : State} {c : CoreId} {i : Instr} {b : Body} {f : FL} {srcs : List (BitVec 12)} {readD dst : Bool}
  {g : LineIn → Ex Res}

/-- An operand that waits or traps ends the word. -/
theorem lineWord_endsAs (h : Issues s c i u) (hb : bodyOf i = some b)
    (hg : b c u = Ex.run (lineIn c f srcs readD dst u >>= g)) {r : Res} (hr : lineIn c f srcs readD dst u = .error r) :
    EndsAs s i r :=
  ends_of h hb (by rw [hg, hr]; rfl)

/-- A word whose lines are there ends with the results and the flags that it makes of them. -/
theorem lineWord_endsWithFlags (h : Issues s c i u) (hb : bodyOf i = some b)
    (hg : b c u = Ex.run (lineIn c f srcs readD dst u >>= g)) {x : LineIn} (hx : lineIn c f srcs readD dst u = .ok x)
    {v : State} {fl : BitVec 6} (hv : g x = .ok (flagsDone v c fl)) : EndsWithFlags s i v fl :=
  flags_of h hb (by rw [hg, hx]; exact congrArg Ex.run hv)

/-- A word whose lines are there may still trap. -/
theorem lineWord_traps (h : Issues s c i u) (hb : bodyOf i = some b)
    (hg : b c u = Ex.run (lineIn c f srcs readD dst u >>= g)) {x : LineIn} (hx : lineIn c f srcs readD dst u = .ok x)
    {n : Nat} {v : State} (hv : g x = trapEx v n) : Traps s i n 0 0 v :=
  traps_of h hb (by rw [hg, hx]; exact congrArg Ex.run hv)

end Ends

/-! ### A code for each lane -/

/-- A word that reads lines and writes a code and flags for every lane (R151). -/
def lanesBody (f : FL) (srcs : List (BitVec 12)) (readD : Bool) (res : LineIn → Lanes) : Body := fun c s =>
  Ex.run (lineIn c f srcs readD true s >>= fun x => .ok (lineDone c f x (res x)))

/-- It ends with those codes in its enabled lanes, and with their flags. -/
theorem lanesBody_ends {s u : State} {c : CoreId} {i : Instr} {f : FL} {srcs : List (BitVec 12)} {readD : Bool}
    {res : LineIn → Lanes} (h : Issues s c i u) (hb : bodyOf i = some (lanesBody f srcs readD res)) :
    (∀ r, lineIn c f srcs readD true u = .error r → EndsAs s i r) ∧
    (∀ x, lineIn c f srcs readD true u = .ok x → EndsWithFlags s i
      (putLine x.s (coreTile x.s c) f.ld (lineGen (fun k => BitVec.ofNat 32 ((res x).getD k (0, 0)).1)) x.en)
      (lanesFlags (res x) x.en)) :=
  ⟨fun _ hr => lineWord_endsAs h hb rfl hr, fun _ hx => lineWord_endsWithFlags h hb rfl hx rfl⟩

/-- Settles O39: each of the words has the shape of `lanesBody`, with codes that are rounded from exact results (R153), picked,
or given another sign (R154). -/
theorem floatLineResults : Obligations.FloatLineResults := by
  unfold Obligations.FloatLineResults
  intro s u c f
  refine ⟨fun e he h => ?_, fun h => lanesBody_ends h rfl, fun e he h => ?_⟩
  · simp only [List.mem_cons, List.not_mem_nil, or_false] at he
    rcases he with rfl | rfl | rfl | rfl | rfl | rfl | rfl | rfl | rfl <;> exact lanesBody_ends h rfl
  · simp only [List.mem_cons, List.not_mem_nil, or_false] at he
    rcases he with rfl | rfl | rfl | rfl <;> exact lanesBody_ends h rfl

/-! ### Compares -/

/-- Bit k of a word in which bit n may have been set. -/
theorem getLsbD_setBit (w : Word) (b : Bool) (n : Nat) {k : Nat} (hk : k < 64) :
    (if b then w ||| (1#64 <<< n) else w).getLsbD k = (w.getLsbD k || (decide (k = n) && b)) := by
  have hbit : (1#64 <<< n).getLsbD k = decide (k = n) := by
    rw [BitVec.getLsbD_shiftLeft, BitVec.getLsbD_one, Bool.eq_iff_iff]
    simp only [Bool.and_eq_true, Bool.not_eq_true', decide_eq_true_eq, decide_eq_false_iff_not]
    omega
  cases b
  · simp
  · rw [if_pos rfl, BitVec.getLsbD_or, hbit, Bool.and_true]

/-- Bit k of the word whose bit k is `g k`. -/
theorem getLsbD_wordOfBits (g : Nat → Bool) {k : Nat} (hk : k < 64) : (wordOfBits g).getLsbD k = g k := by
  have hfold : ∀ n, ((List.range n).foldl (fun (w : Word) i => if g i then w ||| (1#64 <<< i) else w) 0#64).getLsbD k =
      (decide (k < n) && g k) := by
    intro n
    induction n with
    | zero => simp
    | succ n ih =>
      rw [List.range_succ, List.foldl_append, List.foldl_cons, List.foldl_nil, getLsbD_setBit _ _ _ hk, ih]
      by_cases hkn : k = n
      · simp [hkn]
      · simp [hkn, show k < n + 1 ↔ k < n by omega]
  exact (hfold 64).trans (by rw [decide_eq_true hk, Bool.true_and])

/-- The k-th of 64 lanes. -/
theorem getD_lanes {α : Type} (g : Nat → α) (d : α) {k : Nat} (hk : k < 64) : ((List.range 64).map g).getD k d = g k := by
  simp [List.getD, hk]

/-- A compare writes the enabled bits of its predicate and keeps the others (R141, R156). -/
theorem compareBody_ends {s u : State} {c : CoreId} {i : Instr} {f : FL} {op : Nat → Nat → Bool × BitVec 6}
    (h : Issues s c i u) (hb : bodyOf i = some (compareBody f op)) :
    (∀ r, lineIn c f [f.la, f.lb] false false u = .error r → EndsAs s i r) ∧
    (∀ x, lineIn c f [f.la, f.lb] false false u = .ok x →
      let res := fun k => op (elemOf f.ty.toNat x.a k) (elemOf f.ty.toNat x.b k)
      ∃ p : Word, EndsWithFlags s i (modTile x.s (coreTile u c) (fun y => setPred y (f.ld.toNat % 8) p))
          (lanesFlags ((List.range 64).map (fun k => (if (res k).1 then 1 else 0, (res k).2))) x.en) ∧
        ∀ k, k < 64 → p.getLsbD k =
          if x.en.getLsbD k then (res k).1 else (predReg (getTile x.s (coreTile u c)) (f.ld.toNat % 8)).getLsbD k) := by
  refine ⟨fun r hr => lineWord_endsAs h hb rfl hr, fun x hx => ⟨_, lineWord_endsWithFlags h hb rfl hx rfl, fun k hk => ?_⟩⟩
  simp only [BitVec.getLsbD_or, BitVec.getLsbD_and, BitVec.getLsbD_not, getLsbD_wordOfBits _ hk, lanesGen, getD_lanes _ _ hk]
  cases x.en.getLsbD k <;> cases (op (elemOf f.ty.toNat x.a k) (elemOf f.ty.toNat x.b k)).1 <;> simp [hk]

theorem bne_eq_decide_ne (a b : Int) : (a != b) = decide (a ≠ b) := by
  rw [Bool.eq_iff_iff, bne_iff_ne, decide_eq_true_eq]

/-- ICMP is a compare with any test that agrees with its conditions (R156). -/
theorem bodyOf_icmp {f : FL} {op : Nat → Nat → Bool × BitVec 6}
    (hop : ∀ a b, op a b = (intCmp f.fn.toNat (readInt f.ty.toNat a) (readInt f.ty.toNat b), 0)) :
    bodyOf (.icmp f) = some (compareBody f op) := by
  have hfun : op = fun a b => (intCmp f.fn.toNat (readInt f.ty.toNat a) (readInt f.ty.toNat b), 0) :=
    funext fun a => funext fun b => hop a b
  rw [hfun]
  rfl

/-! ### Reductions, scans, packing and the online softmax -/

/-- One of a lane's results, taken where the lane is enabled. -/
theorem map_enabled {α β : Type} (en : Word) (lane : Nat → α) (get : Option α → β) :
    (lanesGen (fun k => if en.getLsbD k then some (lane k) else none)).map get =
      (List.range 64).map (fun k => if en.getLsbD k then get (some (lane k)) else get none) := by
  rw [lanesGen, List.map_map]
  exact List.map_congr_left fun k _ => apply_ite get ..

theorem ite_code_flags (p : Prop) [Decidable p] (a b : Nat) (fl : BitVec 6) :
    (if p then (a, fl) else (b, fl)) = (if p then a else b, fl) := by
  split <;> rfl

/-- Settles O42, word by word: the compares by `compareBody_ends`, and the others by what each does with its lines once they are
there, an INT32 sum or scan apart from a rounded one. -/
theorem compareReduceAndScan : Obligations.CompareReduceAndScan := by
  unfold Obligations.CompareReduceAndScan
  intro s u c f
  refine ⟨fun e he h => ?compare, fun h => ⟨fun r hr => ?_, fun x hx => ?redsum⟩, fun e he h => ?extreme,
    fun h => ⟨fun r hr => ?_, fun x hx => ⟨fun hty => ?scanInt, fun hty => ?scanFloat⟩⟩,
    fun h => ⟨fun r hr => ?_, fun x hx => ?bppack⟩,
    fun h => ⟨fun r hr => ?_, fun x hx => ⟨fun hp => ?poisoned, fun hp => ?osmx⟩⟩⟩
  case compare =>
    simp only [List.mem_cons, List.not_mem_nil, or_false] at he
    rcases he with rfl | rfl
    · refine compareBody_ends h (bodyOf_icmp fun a b => ?_)
      generalize f.fn.toNat = n
      match n with
      | 1 => exact Prod.ext (bne_eq_decide_ne ..).symm rfl
      | 0 | 2 | 3 | 4 | _ + 5 => rfl
    · exact compareBody_ends h rfl
  case redsum =>
    dsimp only
    split
    case isTrue hty => exact lineWord_endsWithFlags h rfl rfl hx (if_pos hty)
    case isFalse hty => exact lineWord_endsWithFlags h rfl rfl hx (if_neg hty)
  case extreme =>
    simp only [List.mem_cons, List.not_mem_nil, or_false] at he
    rcases he with rfl | rfl <;>
      exact ⟨fun r hr => lineWord_endsAs h rfl rfl hr, fun x hx => lineWord_endsWithFlags h rfl rfl hx rfl⟩
  case scanInt => exact lineWord_endsWithFlags h rfl rfl hx (if_pos hty)
  case scanFloat => exact lineWord_endsWithFlags h rfl rfl hx (if_neg hty)
  case bppack =>
    dsimp only
    refine lineWord_endsWithFlags h rfl rfl hx ?_
    simp only [bne_eq_decide_ne]
    rfl
  case poisoned => exact lineWord_traps h rfl rfl hx (if_pos hp)
  case osmx =>
    refine lineWord_endsWithFlags h rfl rfl hx ((if_neg (Bool.eq_false_iff.1 hp)).trans ?_)
    simp only [map_enabled, Option.map_some, Option.map_none, ite_code_flags]
    rfl
  all_goals exact lineWord_endsAs h rfl rfl hr

end Sys2Proof.Proofs.LineWords

/-! SUPPORT. The 8-bit float formats (R48, R56, R57). -/

namespace Sys2Proof.Proofs.EightBitFloats

open Sys2Proof Sys2Proof.Machine

/-- Settles O40: every code of both formats is read and rounded back in every mode. -/
theorem exactValuesKeepTheirCodes : Obligations.ExactValuesKeepTheirCodes := by
  unfold Obligations.ExactValuesKeepTheirCodes
  decide +kernel

end Sys2Proof.Proofs.EightBitFloats

/-! SUPPORT. The flits that COLLECTIVE counts as sent (R328, R332): the model multiplies by the devices other than its own that the
launch lists, CommandKinds by the ranks other than its own. A list that names the device just once, as R333 has it, makes these
one number. -/

namespace Sys2Proof.Proofs.CollectiveRanks

open Sys2Proof Sys2Proof.Machine

/-- A launch over two ranks, both of them device 0. -/
def twiceListed : Launch := newLaunch 0 0 0 0 0 0 7 [0, 0]

/-- COLLECTIVE (KIND 0x30) with OP BCAST and ROOT 1: rank 0 reads nothing of its source and sends one flit to each other device
(R328, R332). -/
def broadcastRaw : BitVec 1024 := BitVec.ofNat 1024 (0x30 + 2 ^ 16 + 2 * 2 ^ 24 + 4 * 2 ^ 832 + 2 ^ 864)

/-- The command of that launch, running on copy engine 0. -/
def broadcastCmd : Cmd :=
  { newCmd State.reset (.tile 0 0) (.ce 0) 0 broadcastRaw none with state := .running, launch := some 0 }

/-- The state after reset with the launch and its command. -/
def broadcasting : State := { State.reset with launches := [(0, twiceListed)], cmds := [(0, broadcastCmd)] }

/-- The flits that command 0 counts as sent. -/
def sentCount : Out → Option Nat
  | .next t => (tabFind t.cmds 0).map (·.sent)
  | _ => none

theorem broadcasting_runs : Runs broadcasting 0 broadcastCmd 0x30 := by decide +kernel

theorem sourceCodes_none {n : Nat} (hn : n = 0) (id : Nat) (k : Cmd) (i : Nat) (s : State) :
    sourceCodes id k n i s = .ok ([], s) := by
  subst hn
  rfl

/-- The turn has no other device to send to. -/
theorem sentCount_turn : sentCount (exec (.collective 0) broadcasting) = some 0 := by decide +kernel

/-- Refutes O56: a launch that lists device 0 twice has two ranks and no other device. The turn of COLLECTIVE that reads and
sends counts no flit as sent, and the statement wants one. R333 refuses such a list at the launch, but the statement is about
every state. -/
theorem not_commandKinds : ¬ Obligations.CommandKinds := by
  unfold Obligations.CommandKinds
  intro h
  obtain ⟨-, -, -, -, -, -, -, -, -, -, -, -, -, -, -, hcollective, -⟩ := h
  have hranks : 1 < (cmdMembers broadcasting broadcastCmd).length := by decide +kernel
  obtain ⟨-, hseveral⟩ := hcollective broadcasting 0 broadcastCmd broadcasting_runs
  obtain ⟨-, hfeed, -⟩ := hseveral hranks
  -- no part of the instance has come, the command has still to send, and it has nothing to read
  obtain ⟨-, hsent⟩ := hfeed (by decide +kernel) (by decide +kernel) [] broadcasting
    (sourceCodes_none (by decide +kernel) ..)
  have hturn := hsent (sending broadcasting broadcastCmd) (by decide +kernel)
  have hcount := congrArg sentCount hturn
  rw [sentCount_turn] at hcount
  exact absurd hcount (by decide +kernel)

end Sys2Proof.Proofs.CollectiveRanks

/-! SUPPORT. Lines of M registers (R139 to R141): the cells that a line names, and what a merged write leaves in every cell. -/

namespace Sys2Proof.Proofs.MatrixLines

open Sys2Proof Sys2Proof.Machine Sys2Proof.Laws

/-- The cells of a row, a column and a diagonal (R139). -/
theorem mCell_eq {r : MRef} (hdir : r.dir ≤ 2) (i : Nat) :
    mCell r i = if r.dir = 0 then (r.idx, i) else if r.dir = 1 then (i, r.idx) else (i, (i + r.idx) % 64) := by
  obtain ⟨reg, dir, idx⟩ := r
  match dir, hdir with
  | 0, _ | 1, _ | 2, _ => rfl

theorem mCell_row {r : MRef} (hdir : r.dir = 0) (i : Nat) : mCell r i = (r.idx, i) := by
  simp [mCell, hdir]

/-- Element i of a column or a diagonal stands in row i. -/
theorem mCell_fst {r : MRef} (hdir : r.dir ≠ 0) (i : Nat) : (mCell r i).1 = i := by
  unfold mCell
  split
  · contradiction
  · rfl
  · rfl

theorem lineGet_readM (x : Tile) (r : MRef) {i : Nat} (hi : i < 64) :
    lineGet (readM x r) i = mSlot x r.reg (mCell r i).1 (mCell r i).2 := by
  unfold readM
  split
  case isTrue hdir => rw [mCell_row hdir, mSlot]
  case isFalse => exact lineGet_gen _ i hi

/-- What a merged write makes of the elements of its line (R141). -/
def mergedLine (x : Tile) (r : MRef) (l : Line) (en : Word) : Line :=
  lineGen (fun i => if en.getLsbD i then lineGet l i else lineGet (readM x r) i)

theorem lineGet_mergedLine (x : Tile) (r : MRef) (l : Line) (en : Word) {i : Nat} (hi : i < 64) :
    lineGet (mergedLine x r l en) i = if en.getLsbD i = true then lineGet l i else lineGet (readM x r) i :=
  lineGet_gen _ i hi

theorem mergeM_cells {x : Tile} {r : MRef} (hdir : r.dir ≠ 0) (l : Line) (en : Word) :
    mergeM x r l en = writeCells r (mergedLine x r l en) 64 x := if_neg hdir

/-- The rows of M after a merged write to a row. -/
theorem mRow_mergeM_row {x : Tile} {r : MRef} (hdir : r.dir = 0) (l : Line) (en : Word) (d row : Nat) :
    mRow (mergeM x r l en) d row = if 64 * r.reg + r.idx = 64 * d + row then mergedLine x r l en else mRow x d row := by
  simp only [mergeM, if_pos hdir, mRow, tabGet_set, mergedLine]

section Merged

variable (x : Tile) (r : MRef) (l : Line) (en : Word)

/-- Each element of the line takes its merged value. -/
theorem mSlot_mergeM_cell (hidx : r.idx < 64) {i : Nat} (hi : i < 64) :
    mSlot (mergeM x r l en) r.reg (mCell r i).1 (mCell r i).2 = lineGet (mergedLine x r l en) i := by
  by_cases hdir : r.dir = 0
  · rw [mCell_row hdir, mSlot, mRow_mergeM_row hdir, if_pos rfl]
  · have hcell : mCell r i = (i, (mCell r i).2) := Prod.ext (mCell_fst hdir i) rfl
    obtain ⟨-, hcol⟩ := cell_lt r i hi hidx
    rw [mCell_fst hdir, mergeM_cells hdir, mSlot_writeCells r _ x hidx hdir 64 (Nat.le_refl _) _ _ _ hi hcol,
      if_pos ⟨rfl, hi, hcell⟩]

/-- Every slot that is no element of the line stays. -/
theorem mSlot_mergeM_other (hidx : r.idx < 64) {d row col : Nat} (hrow : row < 64) (hcol : col < 64)
    (hother : d ≠ r.reg ∨ ∀ i, i < 64 → (row, col) ≠ mCell r i) :
    mSlot (mergeM x r l en) d row col = mSlot x d row col := by
  by_cases hdir : r.dir = 0
  · have hne : 64 * r.reg + r.idx ≠ 64 * d + row := by
      intro heq
      rcases hother with hd | hcell
      · exact hd (by omega)
      · exact hcell col hcol (by rw [mCell_row hdir, show row = r.idx by omega])
    rw [mSlot, mRow_mergeM_row hdir, if_neg hne, mSlot]
  · have hne : ¬ (r.reg = d ∧ row < 64 ∧ mCell r row = (row, col)) := fun ⟨hd, _, heq⟩ =>
      hother.elim (fun h => h hd.symm) (fun h => h row hrow heq.symm)
    rw [mergeM_cells hdir, mSlot_writeCells r _ x hidx hdir 64 (Nat.le_refl _) _ _ _ hrow hcol, if_neg hne]

/-- A merged write changes slots and poison marks of M alone. -/
theorem mergeM_rest : { mergeM x r l en with m := x.m, mBad := x.mBad } = x := by
  by_cases hdir : r.dir = 0
  · simp only [mergeM, if_pos hdir]
  · have hrest := writeCells_rest r (mergedLine x r l en) x 64
    rw [mergeM_cells hdir]
    generalize writeCells r (mergedLine x r l en) 64 x = y at hrest ⊢
    exact congrArg (fun z : Tile => { z with mBad := x.mBad }) hrest

end Merged

/-- Settles O35: the cells of a line are those of `mCell`, and a merged write changes the slots of those cells alone. -/
theorem lineMapping : Obligations.LineMapping := by
  unfold Obligations.LineMapping
  intro x r l en _ hdir hidx
  simp only [← mCell_eq hdir]
  refine ⟨fun i hi => lineGet_readM x r hi, fun i hi => ?_, fun d row col _ hrow hcol hother => ?_, mergeM_rest x r l en⟩
  · rw [lineGet_readM _ r hi, mSlot_mergeM_cell x r l en hidx hi, lineGet_mergedLine x r l en hi]
  · exact mSlot_mergeM_other x r l en hidx hrow hcol hother

end Sys2Proof.Proofs.MatrixLines

/-! SUPPORT. Words on lines that complete with slots moved, not computed (R152, R157, R158, R160, R161). -/

namespace Sys2Proof.Proofs.LineMoves

open Sys2Proof Sys2Proof.Machine Sys2Proof.Laws
open Sys2Proof.Proofs.LineWords (lineWord_endsAs)

/-- A word whose lines are there completes with the results that it makes of them. -/
theorem lineWord_completes {s u v : State} {c : CoreId} {i : Instr} {b : Body} {f : FL} {srcs : List (BitVec 12)}
    {readD dst : Bool} {g : LineIn → Ex Res} {x : LineIn} (h : Issues s c i u) (hb : bodyOf i = some b)
    (hg : b c u = Ex.run (lineIn c f srcs readD dst u >>= g)) (hx : lineIn c f srcs readD dst u = .ok x)
    (hv : g x = .ok (.retire v)) : Completes s i v :=
  completes_of h hb (by rw [hg, hx]; exact congrArg Ex.run hv)

/-- A word that copies slots ends with them in the lanes that it writes. -/
theorem slotBody_ends {s u : State} {c : CoreId} {i : Instr} {f : FL} {srcs : List (BitVec 12)} {slots : LineIn → Nat → Slot}
    {all : Bool} (h : Issues s c i u) (hb : bodyOf i = some (slotBody f srcs slots all)) :
    (∀ r, lineIn c f srcs false true u = .error r → EndsAs s i r) ∧
    (∀ x, lineIn c f srcs false true u = .ok x → Completes s i
      (putLine x.s (coreTile u c) f.ld (lineGen (slots x)) (if all then BitVec.allOnes 64 else x.en))) :=
  ⟨fun _ hr => lineWord_endsAs h hb rfl hr, fun _ hx => lineWord_completes h hb rfl hx rfl⟩

theorem append_zero_byte (x : BitVec 24) : x ++ (0 : BitVec 8) = x.setWidth 32 <<< 8 := by
  refine BitVec.eq_of_toNat_eq ?_
  have hlt := x.isLt
  simp only [BitVec.toNat_append, BitVec.toNat_shiftLeft, BitVec.toNat_setWidth, BitVec.ofNat_eq_ofNat, BitVec.toNat_ofNat,
    Nat.zero_mod, Nat.or_zero, Nat.shiftLeft_eq]
  omega

/-- The immediate of LIMML shifted left, zero-extended or sign-extended, as FN says (R152). -/
theorem limmlSlot_eq (f : FL) :
    limmlSlot f = if f.fn = 0 then (f.la ++ f.lb).setWidth 32 <<< 8
      else if f.fn = 1 then (f.la ++ f.lb).setWidth 32 else (f.la ++ f.lb).signExtend 32 := by
  unfold limmlSlot
  split
  next hfn => rw [if_pos (BitVec.eq_of_toNat_eq hfn), append_zero_byte]
  next hfn =>
    have hone : f.fn = 1 := BitVec.eq_of_toNat_eq hfn
    rw [hone]
    rfl
  next hzero hone =>
    rw [if_neg (fun h => hzero (congrArg BitVec.toNat h)), if_neg (fun h => hone (congrArg BitVec.toNat h))]

/-- What EXTR makes of a slot: its element sign-extended in the signed integer formats, and else zero-extended (R152). -/
def extrWord (ty : Nat) (slot : Slot) : Word :=
  match ty with
  | 0 => slot.setWidth 64
  | 1 | 2 => (slot.setWidth 16).setWidth 64
  | 5 => slot.signExtend 64
  | 6 => (slot.setWidth 16).signExtend 64
  | 7 => (slot.setWidth 8).signExtend 64
  | _ => (slot.setWidth 8).setWidth 64

theorem ofNat_mod_two_pow (slot : Slot) (w : Nat) : BitVec.ofNat w (slot.toNat % 2 ^ w) = slot.setWidth w :=
  BitVec.eq_of_toNat_eq (by simp)

theorem word_mod_two_pow (slot : Slot) (w : Nat) : BitVec.ofNat 64 (slot.toNat % 2 ^ w) = (slot.setWidth w).setWidth 64 :=
  BitVec.eq_of_toNat_eq (by simp)

theorem bodyExtr_word (ty : Nat) (l : Line) (j : Nat) :
    (if 5 ≤ ty ∧ ty ≤ 7 then BitVec.ofInt 64 (readInt ty (elemOf ty l j)) else BitVec.ofNat 64 (elemOf ty l j)) =
      extrWord ty (lineGet l j) := by
  have signed : ∀ w, BitVec.ofInt 64 (BitVec.ofNat w ((lineGet l j).toNat % 2 ^ w)).toInt =
      ((lineGet l j).setWidth w).signExtend 64 := fun w => by rw [ofNat_mod_two_pow, BitVec.signExtend]
  match ty with
  | 0 => exact (word_mod_two_pow _ 32).trans (by rw [BitVec.setWidth_eq]; rfl)
  | 5 => exact (signed 32).trans (by rw [BitVec.setWidth_eq]; rfl)
  | 1 | 2 => exact word_mod_two_pow _ 16
  | 6 => exact signed 16
  | 7 => exact signed 8
  | 3 | 4 | n + 8 => exact (if_neg (by omega)).trans (word_mod_two_pow _ 8)

/-- PSET writes its predicate the value that FN selects (R157). -/
theorem psetValue_of_getElem? {x : Tile} {st : Strand} {f : FL} {k : Nat} {v : Word}
    (hv : ([0, BitVec.allOnes 64, predReg x (f.la.toNat % 8) &&& predReg x (f.lb.toNat % 8),
      predReg x (f.la.toNat % 8) ||| predReg x (f.lb.toNat % 8), predReg x (f.la.toNat % 8) ^^^ predReg x (f.lb.toNat % 8),
      predReg x (f.la.toNat % 8) &&& ~~~ predReg x (f.lb.toNat % 8), ~~~ predReg x (f.la.toNat % 8),
      BitVec.ofNat 64 (2 ^ f.la.toNat - 1), st.getG (BitVec.ofNat 6 (f.la.toNat % 32))] : List Word)[k]? = some v)
    (hfn : f.fn = BitVec.ofNat 4 k) : f.fn ≠ 9 ∧ psetValue x st f = v := by
  match k, hv with
  | 0, rfl | 1, rfl | 2, rfl | 3, rfl | 4, rfl | 5, rfl | 6, rfl | 7, rfl | 8, rfl =>
    exact ⟨by rw [hfn]; decide, by rw [psetValue, hfn]; rfl⟩

/-- Settles O38: the words that copy slots have the shape of `slotBody`; LIMML, EXTR and PSET rest on the values of their
formats and functions. -/
theorem lineMoves : Obligations.LineMoves := by
  unfold Obligations.LineMoves
  intro s u c f
  refine ⟨fun e he h => ?moves, fun h => ⟨fun r hr => ?_, fun x hx => ?ins⟩, fun h => ⟨fun r hr => ?_, fun x hx => ?extr⟩,
    fun h => ⟨fun k v hv hfn => ?pset, fun hfn => ?psetG⟩, fun h => completes_of h rfl rfl⟩
  case moves =>
    simp only [← limmlSlot_eq, List.mem_cons, List.not_mem_nil, or_false] at he
    rcases he with rfl | rfl | rfl | rfl | rfl | rfl <;> exact slotBody_ends h rfl
  case ins => exact lineWord_completes h rfl rfl hx rfl
  case extr =>
    change Completes s (.extr f) (setGOf x.s c _ (extrWord f.ty.toNat (lineGet x.a f.lb.toNat)))
    rw [← bodyExtr_word]
    exact lineWord_completes h rfl rfl hx rfl
  case pset =>
    obtain ⟨hne, rfl⟩ := psetValue_of_getElem? hv hfn
    exact completes_of h rfl (if_neg hne)
  case psetG => exact completes_of h rfl (if_pos hfn)
  all_goals exact lineWord_endsAs h rfl rfl hr

end Sys2Proof.Proofs.LineMoves

/-! SUPPORT. The queue words QRD, QWR and QCNT, and the fills of queue lines (R144 to R150). -/

namespace Sys2Proof.Proofs.QueueWords

open Sys2Proof Sys2Proof.Machine Sys2Proof.Laws

/-! ### A word that goes line by line -/

/-- A word that does a part of its work goes on. -/
theorem goesOn_of {s u v : State} {c : CoreId} {i : Instr} {b : Body} (h : Issues s c i u) (hb : bodyOf i = some b)
    (h1 : b c u = .more v) : GoesOn s i v :=
  ends_of h hb h1

/-- Line k of the n lines of a word, and the end of the word after the last one (R146). -/
def lineStep (n k : Nat) (u1 : State) (line : Ex State) (idle : State → State) : Ex Res := do
  let v ← if k < n then line else .ok u1
  return if k + 1 < n then .more v else .retire (idle v)

section Steps

variable {s u u1 v : State} {c : CoreId} {i : Instr} {b : Body} {n k : Nat} {line : Ex State} {idle : State → State}

theorem lineStep_noneLeft (hk : n ≤ k) : lineStep n k u1 line idle = .ok (.retire (idle u1)) := by
  rw [lineStep, if_neg (Nat.not_lt.2 hk)]
  exact congrArg Except.ok (if_neg (by omega))

theorem lineStep_error (hk : k < n) {x : Res} (hx : line = .error x) : lineStep n k u1 line idle = .error x := by
  rw [lineStep, if_pos hk, hx]
  rfl

theorem lineStep_ok (hk : k < n) (hv : line = .ok v) :
    lineStep n k u1 line idle = .ok (if k + 1 < n then .more v else .retire (idle v)) := by
  rw [lineStep, if_pos hk, hv]
  rfl

/-- A word with no line left completes; a line that waits or traps ends it, and another lets it go on or complete. -/
theorem lineStep_runs (h : Issues s c i u) (hb : bodyOf i = some b) (hstep : b c u = Ex.run (lineStep n k u1 line idle)) :
    (n ≤ k → Completes s i (idle u1)) ∧
    (k < n → (∀ x, line = .error x → EndsAs s i x) ∧
      ∀ v, line = .ok v → (k + 1 < n → GoesOn s i v) ∧ (n ≤ k + 1 → Completes s i (idle v))) := by
  refine ⟨fun hk => completes_of h hb ?_, fun hk => ⟨fun x hx => ends_of h hb ?_,
    fun v hv => ⟨fun hlt => goesOn_of h hb ?_, fun hle => completes_of h hb ?_⟩⟩⟩
  · rw [hstep, lineStep_noneLeft hk]
    rfl
  · rw [hstep, lineStep_error hk hx]
    rfl
  · rw [hstep, lineStep_ok hk hv, if_pos hlt]
    rfl
  · rw [hstep, lineStep_ok hk hv, if_neg (Nat.not_lt.2 hle)]
    rfl

end Steps

/-- The line at which a queue word of a core goes on, its mode told as a decision (R146, R149). -/
theorem resumeLine_isSup (y : Queue) (s : State) (c : CoreId) :
    resumeLine y (isSup s c) =
      if y.state = .active ∨ (y.state = .parked ∧ y.sup = decide ((getStrand s c).mode = .supervisor)) then y.next else 0 := by
  have hsup : isSup s c = decide ((getStrand s c).mode = .supervisor) := by
    rw [isSup, Bool.eq_iff_iff, beq_iff_eq, decide_eq_true_eq]
  rw [resumeLine, hsup]

section Words

variable {u : State} {c : CoreId} {f : FQ} {r : SegRef} {off w : Nat}

/-- QRD with its segment checked, on a POISONED queue (R149). -/
theorem bodyQrd_poisoned (ha : lineAccess u c f f.aux.toNat false = .ok (r, off, w))
    (hp : (opQueue (getTile u (coreTile u c)) f.qn.toNat).state = .poisoned) :
    bodyQrd f c u = .wait { what := .queueSpace, kind := 11, name := f.qn.toNat, psrc := 2, prod := some 2 } u := by
  simp only [bodyQrd, ha, bind, Except.bind, if_pos hp]
  rfl

/-- QRD with its segment checked, on another queue (R146). -/
theorem bodyQrd_lineStep (ha : lineAccess u c f f.aux.toNat false = .ok (r, off, w))
    (hp : (opQueue (getTile u (coreTile u c)) f.qn.toNat).state ≠ .poisoned) :
    let t := coreTile u c
    let q := f.qn.toNat
    let n := f.aux.toNat
    let k := resumeLine (opQueue (getTile u t) q) (isSup u c)
    let u1 := modTile u t (fun x => setOpQueue x q ((opQueue x q).at k n))
    bodyQrd f c u = Ex.run (lineStep n k u1 (qrdLine c f r off w n k u1)
      (fun v => modTile v t (fun x => setOpQueue x q (opQueue x q).finish))) := by
  simp only [bodyQrd, ha, bind, Except.bind, if_neg hp]
  rfl

/-- QWR with its segment checked (R146). -/
theorem bodyQwr_lineStep (ha : lineAccess u c f f.aux.toNat true = .ok (r, off, w)) :
    let t := coreTile u c
    let q := f.qn.toNat
    let n := f.aux.toNat
    let k := resumeLine (drQueue (getTile u t) q) (isSup u c)
    let u1 := modTile u t (fun x => setDrQueue x q ((drQueue x q).at k n))
    bodyQwr f c u = Ex.run (lineStep n k u1 (qwrLine c f r off w n k u1)
      (fun v => modTile v t (fun x => setDrQueue x q (drQueue x q).finish))) := by
  simp only [bodyQwr, ha, bind, Except.bind]
  rfl

/-- A QRD whose segment operand fails a check ends so. -/
theorem bodyQrd_error {x : Res} (ha : lineAccess u c f f.aux.toNat false = .error x) : bodyQrd f c u = x := by
  simp only [bodyQrd, ha, bind, Except.bind]
  rfl

/-- A QWR whose segment operand fails a check ends so. -/
theorem bodyQwr_error {x : Res} (ha : lineAccess u c f f.aux.toNat true = .error x) : bodyQwr f c u = x := by
  simp only [bodyQwr, ha, bind, Except.bind]
  rfl

/-- QCNT writes the filled lines or the record of its queue (R148). -/
theorem bodyQcnt_eq :
    let q := f.qn.toNat
    let y := if f.qn.getLsbD 3 then drQueue (getTile u (coreTile u c)) (q % 4) else opQueue (getTile u (coreTile u c)) (q % 8)
    bodyQcnt f c u = .retire (setGOf u c f.rc (BitVec.ofNat 64 (if f.aux = 0 then filledLines y
      else qStateCode y.state * 2 ^ 62 + y.next % 1024 * 2 ^ 52 + y.rem % 1024 * 2 ^ 42 + filledLines y * 2 ^ 37
        + (y.lines.length - filledLines y) * 2 ^ 32))) := by
  dsimp only
  rw [apply_ite (BitVec.ofNat 64)]
  rfl

end Words

/-! ### One line of a word -/

section Line

variable {u v : State} {c : CoreId} {f : FQ} {r : SegRef} {off w n k : Nat}

/-- Lines that a resumption reads again come first (R150). -/
theorem qrdLine_again (ha : (opQueue (getTile u (coreTile u c)) f.qn.toNat).lines.any (·.again) = true) :
    qrdLine c f r off w n k u = .error (.wait
      { what := .queueSpace, kind := 11, name := f.qn.toNat, psrc := 2, prod := some 2, bounded := false } u) :=
  if_pos ha

/-- A queue that holds 16 lines has no space (R143, R146). -/
theorem qrdLine_full (ha : (opQueue (getTile u (coreTile u c)) f.qn.toNat).lines.any (·.again) = false)
    (hfull : 16 ≤ (opQueue (getTile u (coreTile u c)) f.qn.toNat).lines.length) :
    qrdLine c f r off w n k u = .error (.wait { what := .queueSpace, kind := 11, name := f.qn.toNat, psrc := 2, prod := some 2 } u) :=
  (if_neg (Bool.eq_false_iff.1 ha)).trans (if_pos hfull)

/-- A line with space, grant and sound data is appended unfilled, and NEXT and REM pass it (R146). -/
theorem qrdLine_ok (ha : (opQueue (getTile u (coreTile u c)) f.qn.toNat).lines.any (·.again) = false)
    (hroom : (opQueue (getTile u (coreTile u c)) f.qn.toNat).lines.length < 16)
    (hg : grantRefs u c (coreClient c) (ctxNo u c) [r] = .ok v)
    (hp : segPoisoned v (ctxNo u c) r.name r.tile (off + 64 * w * k) (64 * w) = false) :
    qrdLine c f r off w n k u = .ok (modTile v (coreTile u c) (fun x =>
      let old := opQueue x f.qn.toNat
      let line : QLine :=
        { filled := false, again := false, bad := false, ctx := ctxNo u c, name := r.name, tile := r.tile,
          off := off + 64 * w * k, width := w,
          data := lineOfBytes w (segBytes v (ctxNo u c) r.name r.tile (off + 64 * w * k) (64 * w)) }
      setOpQueue x f.qn.toNat (Queue.at { old with lines := old.lines ++ [line] } (k + 1) n))) := by
  have hread : segRead v (ctxNo u c) r (off + 64 * w * k) (64 * w) =
      .ok (segBytes v (ctxNo u c) r.name r.tile (off + 64 * w * k) (64 * w)) := if_neg (Bool.eq_false_iff.1 hp)
  refine (if_neg (Bool.eq_false_iff.1 ha)).trans ((if_neg (Nat.not_le.2 hroom)).trans ?_)
  simp only [hg, hread, bind, Except.bind]
  rfl

/-- A QWR of an empty queue waits (R146). -/
theorem qwrLine_empty (he : (drQueue (getTile u (coreTile u c)) f.qn.toNat).lines = []) :
    qwrLine c f r off w n k u =
      .error (.wait { what := .drainLine, kind := 11, name := 0x100 + f.qn.toNat, psrc := 2, prod := some 2 } u) := by
  simp only [qwrLine, he]

/-- The head line with its grant is written as line k and leaves the queue (R146). -/
theorem qwrLine_ok {h : QLine} {rest : List QLine}
    (hl : (drQueue (getTile u (coreTile u c)) f.qn.toNat).lines = h :: rest)
    (hg : grantRefs u c (coreClient c) (ctxNo u c) [r] = .ok v) (hbad : h.bad = false) :
    qwrLine c f r off w n k u =
      .ok (modTile (segWrite v (ctxNo u c) r.name r.tile (off + 64 * w * k) (bytesOfLine w h.data)) (coreTile u c) (fun x =>
        setDrQueue x f.qn.toNat (Queue.at { drQueue x f.qn.toNat with lines := rest } (k + 1) n))) := by
  simp only [qwrLine, hl, hg, hbad, bind, Except.bind]
  rfl

end Line

/-! ### Fills of operand-queue lines (R146, R150) -/

theorem firstOpen_eq_none {y : Queue} (hall : y.lines.all (·.filled) = true) : firstOpen y = none := by
  have hnone : y.lines.zipIdx.find? (fun e => !e.1.filled) = none := by
    rw [List.find?_eq_none]
    intro e he
    have hfilled := List.all_eq_true.1 hall _ (List.fst_mem_of_mem_zipIdx he)
    simp [hfilled]
  rw [firstOpen, hnone]
  rfl

/-- The first unfilled line of a queue follows its filled lines. -/
theorem firstOpen_eq_some {y : Queue} {pre post : List QLine} {l : QLine} (hl : y.lines = pre ++ l :: post)
    (hpre : pre.all (·.filled) = true) (hopen : l.filled = false) : firstOpen y = some (pre.length, l) := by
  have hskip : pre.zipIdx.find? (fun e => !e.1.filled) = none :=
    Option.map_eq_none_iff.1 (firstOpen_eq_none (y := { y with lines := pre }) hpre)
  rw [firstOpen, hl, List.zipIdx_append, List.find?_append, hskip, List.zipIdx_cons, List.find?_cons_of_pos (by simp [hopen]),
    Nat.zero_add]
  rfl

@[simp] theorem opQueue_setOpQueue (x : Tile) (q : Nat) (y : Queue) : opQueue (setOpQueue x q y) q = y := by
  simp [opQueue, setOpQueue]

/-- The line at a place of a queue, replaced. -/
theorem fillLine_eq {s : State} {t q : Nat} {pre post : List QLine} {l : QLine}
    (hl : (opQueue (getTile s t) q).lines = pre ++ l :: post) (m : QLine) :
    fillLine s t q pre.length m =
      modTile s t (fun x => setOpQueue x q { opQueue (getTile s t) q with lines := pre ++ m :: post }) := by
  have hset : (opQueue (getTile s t) q).lines.set pre.length m = pre ++ m :: post := by simp [hl]
  rw [← hset]
  rfl

theorem fillLine_lines {s : State} {t q : Nat} {pre post : List QLine} {l : QLine}
    (hl : (opQueue (getTile s t) q).lines = pre ++ l :: post) (m : QLine) :
    (opQueue (getTile (fillLine s t q pre.length m) t) q).lines = pre ++ m :: post := by
  rw [fillLine_eq hl]
  simp

/-! ### Reading a discarded line again (R150) -/

theorem getTile_touchSeg (s : State) (ctx name tile t : Nat) : getTile (touchSeg s ctx name tile) t = getTile s t := by
  simp [getTile, touchSeg, modCopy, modSeg]

/-- A request that leaves its tile's queue leaves the contexts, and with them the segments, as they were. -/
theorem dropGrant_ctxs (s : State) (tile : Nat) (p : Party) : (dropGrant s tile p).ctxs = s.ctxs := by
  unfold dropGrant
  split <;> rfl

theorem opQueue_dropGrant (s : State) (tile : Nat) (p : Party) (t q : Nat) :
    opQueue (getTile (dropGrant s tile p) t) q = opQueue (getTile s t) q := by
  unfold dropGrant
  split
  · rw [getTile_modTile]
    split <;> rfl
  · rfl

theorem findSeg_dropGrant (s : State) (tile : Nat) (p : Party) (ctx name : Nat) :
    findSeg (dropGrant s tile p) ctx name = findSeg s ctx name := by
  rw [findSeg, dropGrant_ctxs, findSeg]

theorem segPoisoned_dropGrant (s : State) (k : Nat) (p : Party) (ctx name tile off n : Nat) :
    segPoisoned (dropGrant s k p) ctx name tile off n = segPoisoned s ctx name tile off n := by
  rw [segPoisoned, findSeg_dropGrant, segPoisoned]

theorem segBytes_dropGrant (s : State) (k : Nat) (p : Party) (ctx name tile off n : Nat) :
    segBytes (dropGrant s k p) ctx name tile off n = segBytes s ctx name tile off n := by
  rw [segBytes, findSeg_dropGrant, segBytes]

theorem reqGran_footprint_singleton (r : SegRef) : reqGran (footprint [r]) = granOf r.seg.bytes := by
  simp [footprint, reqGran, List.eraseDups_cons]

/-- A discarded line as it is read again. -/
def rereadLine (s : State) (l : QLine) (r : SegRef) : QLine :=
  { l with tile := r.tile, filled := true, again := false, bad := false,
           data := lineOfBytes l.width (segBytes s l.ctx r.name r.tile l.off (64 * l.width)) }

/-- A discarded line whose source can be read and is RESIDENT is read in the step that asks (R150). -/
theorem refetchLine_atOnce {s : State} {t q n : Nat} {l : QLine} {r : SegRef} (hr : lookupSeg s l.ctx t l.name = .ok r)
    (hbytes : l.off + 64 * l.width ≤ r.seg.bytes) (hfloor : granOf r.seg.bytes ≤ floorOf s r.tile 1)
    (hgrant : grantAtOnce s l.ctx r.tile 1 (.refetch t q) (footprint [r]) = true)
    (hsound : segPoisoned s l.ctx r.name r.tile l.off (64 * l.width) = false) :
    refetchLine s t q n l = fillLine (touchSeg (dropGrant s r.tile (.refetch t q)) l.ctx r.name r.tile) t q n (rereadLine s l r) := by
  have href : refetchRef s t l = .ok r := by
    simp only [refetchRef, hr]
    exact if_neg (Nat.not_lt.2 hbytes)
  have hover : overFloor s r.tile 1 (.refetch t q) (footprint [r]) = false := by
    rw [overFloor, reqGran_footprint_singleton, decide_eq_false (Nat.not_lt.2 hfloor), Bool.and_false]
  simp only [refetchLine, href, hover, hgrant, refetchRead, segPoisoned_dropGrant, hsound, segBytes_dropGrant]
  rfl

/-- QRD_LINE_FILL with no unfilled line. -/
theorem qrdLineFill_idles {s : State} {t q : Nat} (hall : (opQueue (getTile s t) q).lines.all (·.filled) = true) :
    Idles s (.qrdLineFill t q) := by
  change execQrdLineFill t q s = .next s
  rw [execQrdLineFill, firstOpen_eq_none hall]

/-- QRD_LINE_FILL is about the first unfilled line. -/
theorem qrdLineFill_happens {s : State} {t q : Nat} {pre post : List QLine} {l : QLine}
    (hl : (opQueue (getTile s t) q).lines = pre ++ l :: post) (hpre : pre.all (·.filled) = true) (hopen : l.filled = false) :
    Happens s (.qrdLineFill t q)
      (if l.again then refetchLine s t q pre.length l else fillLine s t q pre.length { l with filled := true }) := by
  change execQrdLineFill t q s = _
  rw [execQrdLineFill, firstOpen_eq_some hl hpre hopen]

/-- Settles O37: QRD and QWR go on line by line as `lineStep_runs` says, one line does what `qrdLine_ok` and `qwrLine_ok` say,
and a fill is about the first unfilled line. -/
theorem queueWords : Obligations.QueueWords := by
  unfold Obligations.QueueWords
  refine ⟨fun s u c f => ⟨fun h => ⟨fun x hx => ?qrdError, fun r off w ha => ⟨fun hp => ?qrdPoisoned, fun hp => ?qrd⟩⟩,
      fun h => ⟨fun x hx => ?qwrError, fun r off w ha => ?qwr⟩, fun h => ?qcnt⟩,
    fun u c f r off w n k => ⟨qrdLine_again, qrdLine_full, fun v ha hroom hg hp => qrdLine_ok ha hroom hg hp, qwrLine_empty,
      fun _ rest v hl hg hbad => qwrLine_ok hl hg hbad⟩,
    fun s t q => ⟨qrdLineFill_idles, fun pre l post hl hpre hopen => ⟨fun hagain => ?fill,
      fun r hagain hr hbytes hfloor hfits hpass hadmitted hsound => ?refetch⟩⟩⟩
  case qrdError => exact ends_of h rfl (bodyQrd_error hx)
  case qrdPoisoned => exact waits_of h rfl (bodyQrd_poisoned ha hp)
  case qrd =>
    have hruns := lineStep_runs h rfl (bodyQrd_lineStep ha hp)
    rw [resumeLine_isSup] at hruns
    exact hruns
  case qwrError => exact ends_of h rfl (bodyQwr_error hx)
  case qwr =>
    have hruns := lineStep_runs h rfl (bodyQwr_lineStep ha)
    rw [resumeLine_isSup] at hruns
    exact hruns
  case qcnt => exact completes_of h rfl bodyQcnt_eq
  case fill =>
    have hfill := qrdLineFill_happens hl hpre hopen
    rw [if_neg (Bool.eq_false_iff.1 hagain), fillLine_eq hl] at hfill
    exact hfill
  case refetch =>
    have hgrant : grantAtOnce s l.ctx r.tile 1 (.refetch t q) (footprint [r]) = true := by
      rw [grantAtOnce, hfits, hpass, hadmitted]
      rfl
    have hfill := qrdLineFill_happens hl hpre hopen
    rw [if_pos hagain, refetchLine_atOnce hr hbytes hfloor hgrant hsound] at hfill
    exact ⟨_, hfill, fillLine_lines (l := l) (by rw [getTile_touchSeg, opQueue_dropGrant, hl]) _⟩

end Sys2Proof.Proofs.QueueWords

/-! SUPPORT. Bindings of accumulators (R167 to R172): what binding a name, and changing a binding, leaves of it and of every other
binding. -/

namespace Sys2Proof.Proofs.Accumulators

open Sys2Proof Sys2Proof.Machine Sys2Proof.Laws

/-! ### Contexts and their bindings -/

theorem tabFind_modCtx (s : State) (n m : Nat) (f : Context → Context) :
    tabFind (modCtx s n f).ctxs m = if n = m then (tabFind s.ctxs m).map f else tabFind s.ctxs m := by
  cases hx : tabFind s.ctxs n with
  | some x =>
    rw [modCtx_some s n f x hx, tabFind_put]
    split
    case isTrue heq => rw [← heq, hx, Option.map_some]
    case isFalse => rfl
  | none =>
    simp only [modCtx, hx]
    split
    case isTrue heq => rw [← heq, hx, Option.map_none]
    case isFalse => rfl

theorem isSome_tabFind_modCtx (s : State) (n m : Nat) (f : Context → Context) :
    (tabFind (modCtx s n f).ctxs m).isSome = (tabFind s.ctxs m).isSome := by
  rw [tabFind_modCtx]
  split
  case isTrue => exact Option.isSome_map
  case isFalse => rfl

/-- Only a context that exists has bindings. -/
theorem isSome_ctx_of_getAcc {s : State} {cx t n : Nat} {a : Acc} (h : getAcc s cx t n = some a) :
    (tabFind s.ctxs cx).isSome := by
  obtain ⟨x, hx, -⟩ := Option.bind_eq_some_iff.1 h
  exact Option.isSome_of_mem hx

/-- The same name of a tile: names count modulo 8. -/
theorem accKey_eq_accKey {k j n m : Nat} (hn : n < 8) (hm : m < 8) : accKey k n = accKey j m ↔ k = j ∧ n = m := by
  unfold accKey
  omega

/-- A change of a context that keeps its bindings. -/
theorem getAcc_modCtx {f : Context → Context} (hf : ∀ x, (f x).accs = x.accs) (s : State) (n cx t name : Nat) :
    getAcc (modCtx s n f) cx t name = getAcc s cx t name := by
  rw [getAcc, tabFind_modCtx, getAcc]
  split
  case isTrue => simp only [Option.bind_map, Function.comp_def, hf]
  case isFalse => rfl

/-! ### Replacing and changing a binding -/

theorem getAcc_setAcc_same {s : State} {cx : Nat} (h : (tabFind s.ctxs cx).isSome) (t n : Nat) (a : Acc) :
    getAcc (setAcc s cx t n a) cx t n = some a := by
  obtain ⟨x, hx⟩ := Option.isSome_iff_exists.1 h
  rw [getAcc, setAcc, tabFind_modCtx, if_pos rfl, hx, Option.map_some, Option.bind_some, tabFind_put, if_pos rfl]

theorem getAcc_setAcc_other {cx t n cx' t' n' : Nat} (h : ¬ (cx = cx' ∧ accKey t n = accKey t' n')) (s : State) (a : Acc) :
    getAcc (setAcc s cx t n a) cx' t' n' = getAcc s cx' t' n' := by
  rw [getAcc, setAcc, tabFind_modCtx, getAcc]
  split
  case isTrue heq => simp only [Option.bind_map, Function.comp_def, tabFind_put, if_neg (fun hk => h ⟨heq, hk⟩)]
  case isFalse => rfl

theorem getAcc_modAcc_same (s : State) (cx t n : Nat) (f : Acc → Acc) :
    getAcc (modAcc s cx t n f) cx t n = (getAcc s cx t n).map f := by
  cases ha : getAcc s cx t n with
  | some a =>
    simp only [modAcc, ha]
    exact getAcc_setAcc_same (isSome_ctx_of_getAcc ha) t n (f a)
  | none => simp only [modAcc, ha, Option.map_none]

theorem getAcc_modAcc_other {cx t n cx' t' n' : Nat} (h : ¬ (cx = cx' ∧ accKey t n = accKey t' n')) (s : State)
    (f : Acc → Acc) : getAcc (modAcc s cx t n f) cx' t' n' = getAcc s cx' t' n' := by
  unfold modAcc
  split
  · exact getAcc_setAcc_other h ..
  · rfl

/-! ### Binding a name (R167, R168) -/

theorem getAcc_gainEntry_same (s : State) (cx t n : Nat) :
    getAcc (gainEntry s cx t n) cx t n = (getAcc s cx t n).map (fun a => { a with entry := true, dir := [] }) := by
  cases ha : getAcc s cx t n with
  | some a =>
    simp only [gainEntry, ha]
    rw [getAcc_modCtx, getAcc_setAcc_same (isSome_ctx_of_getAcc ha), Option.map_some]
    exact fun _ => rfl
  | none => simp only [gainEntry, ha, Option.map_none]

theorem getAcc_gainEntry_other {cx t n cx' t' n' : Nat} (h : ¬ (cx = cx' ∧ accKey t n = accKey t' n')) (s : State) :
    getAcc (gainEntry s cx t n) cx' t' n' = getAcc s cx' t' n' := by
  unfold gainEntry
  split
  · rw [getAcc_modCtx, getAcc_setAcc_other h]
    exact fun _ => rfl
  · rfl

theorem isSome_ctx_gainEntry (s : State) (cx t n m : Nat) :
    (tabFind (gainEntry s cx t n).ctxs m).isSome = (tabFind s.ctxs m).isSome := by
  unfold gainEntry
  split
  · rw [isSome_tabFind_modCtx, setAcc, isSome_tabFind_modCtx]
  · rfl

/-- A name of a context that exists is bound: a binding that was there keeps its content, takes an entry and is marked touched. -/
theorem getAcc_bindAcc_same {s : State} {cx : Nat} (h : (tabFind s.ctxs cx).isSome) (t n : Nat) :
    ∃ a, getAcc (bindAcc s cx t n) cx t n = some a ∧
      ∀ b, getAcc s cx t n = some b → a = { b with touch := a.touch, entry := true, dir := [] } := by
  refine ⟨_, getAcc_setAcc_same (by rw [isSome_ctx_gainEntry]; exact h) .., fun b hb => ?_⟩
  have hb' : getAcc { s with touches := s.touches + 1 } cx t n = some b := hb
  rw [getAcc_gainEntry_same, hb', Option.map_some, Option.getD_some]

theorem getAcc_bindAcc_other {cx t n cx' t' n' : Nat} (h : ¬ (cx = cx' ∧ accKey t n = accKey t' n')) (s : State) :
    getAcc (bindAcc s cx t n) cx' t' n' = getAcc s cx' t' n' := by
  rw [bindAcc, getAcc_setAcc_other h, getAcc_gainEntry_other h, getAcc, getAcc]

/-- A binding word's reads succeed where the name is UNBOUND or its rows are sound (R167, R172). -/
theorem bindableRows_ok {s : State} {cx t n : Nat} (h : ∀ a, getAcc s cx t n = some a → a.poison = false ∧ a.bad = [])
    (r0 k : Nat) : ∃ a, bindableRows s cx t n r0 k = .ok a := by
  cases ha : getAcc s cx t n with
  | none => exact ⟨_, if_pos (by rw [ha]; rfl)⟩
  | some a =>
    obtain ⟨hpoison, hbad⟩ := h a ha
    refine ⟨a, ?_⟩
    simp only [bindableRows, readableRows, ha, hpoison, hbad]
    rfl

/-! ### Rows -/

theorem accRow_setAccRow (a : Acc) (r j : Nat) (l : AccRow) : accRow (setAccRow a r l) j = if r = j then l else accRow a j :=
  tabGet_set ..

/-- The first `n` rows of a binding, changed by `g` in rising order, with the union of flags. -/
def mapFirstRows (a : Acc) (g : Nat → AccRow → AccRow × BitVec 6) (n : Nat) : Acc × BitVec 6 :=
  (List.range n).foldl (fun p i => (setAccRow p.1 i (g i (accRow p.1 i)).1, p.2 ||| (g i (accRow p.1 i)).2)) (a, 0)

theorem mapFirstRows_succ (a : Acc) (g : Nat → AccRow → AccRow × BitVec 6) (n : Nat) :
    (mapFirstRows a g (n + 1)).1 =
      setAccRow (mapFirstRows a g n).1 n (g n (accRow (mapFirstRows a g n).1 n)).1 := by
  rw [mapFirstRows, List.range_succ, List.foldl_append]
  rfl

theorem accRow_mapFirstRows (a : Acc) (g : Nat → AccRow → AccRow × BitVec 6) (n r : Nat) :
    accRow (mapFirstRows a g n).1 r = if r < n then (g r (accRow a r)).1 else accRow a r := by
  induction n with
  | zero => rfl
  | succ n ih =>
    rw [mapFirstRows_succ, accRow_setAccRow]
    split
    case isTrue heq =>
      subst heq
      rw [ih, if_neg (Nat.lt_irrefl n), if_pos (Nat.lt_succ_self n)]
    case isFalse hne =>
      have hlt : r < n ↔ r < n + 1 := by omega
      rw [ih]
      simp only [hlt]

/-- Each row of a binding is changed once, from what it was (R183). -/
theorem accRow_mapRows (a : Acc) (g : Nat → AccRow → AccRow × BitVec 6) {r : Nat} (hr : r < 128) :
    accRow (mapRows a g).1 r = (g r (accRow a r)).1 :=
  (accRow_mapFirstRows a g 128 r).trans (if_pos hr)

end Sys2Proof.Proofs.Accumulators

/-! SUPPORT. The matrix engine's words that keep no progress record (R174, R180, R181, R183, R184). -/

namespace Sys2Proof.Proofs.EngineWords

open Sys2Proof Sys2Proof.Machine Sys2Proof.Laws Sys2Proof.Proofs.Accumulators

/-! ### Effects with early ends -/

section Early

variable {α β : Type} {x : Ex α} {a : α}

/-- A computation that goes well goes well step by step. -/
theorem ok_of_bind {g : α → Ex β} {b : β} (h : (x >>= g) = .ok b) : ∃ a, x = .ok a ∧ g a = .ok b := by
  cases x with
  | error _ => cases h
  | ok a => exact ⟨a, rfl, h⟩

/-- A step that goes well leaves what follows it. -/
theorem run_bind_ok {g : α → Ex Res} (h : x = .ok a) : Ex.run (x >>= g) = Ex.run (g a) := by
  rw [h]
  rfl

theorem run_ok_bind (a : α) (g : α → Ex Res) : Ex.run (Except.ok a >>= g) = Ex.run (g a) := rfl

theorem bind_some_ok (h : x = .ok a) : (do let y ← x; return some y) = Except.ok (some a) := by
  rw [h]
  rfl

end Early

/-! ### The waits for the engine (R176, R226, R322) -/

section Gate

variable {s u : State} {t q : Nat} {i : Instr} {b : Body}

/-- A word of the engine waits without a bound while the array is frozen or a plane waits for its reload (R176, R322). -/
theorem gate_waits_held (h : Issues s (.tile t q) i u) (hb : bodyOf i = some (mxGate b))
    (hheld : (getTile u t).mx.frozen = true ∨ reloading u t = true) :
    Waits s i { what := .frozen, kind := 11, name := 0x010, bounded := false } u :=
  waits_of h hb (if_pos (Bool.or_eq_true_iff.2 hheld))

/-- It waits while a MATTASK occupies the engine (R226). -/
theorem gate_waits_mattask (h : Issues s (.tile t q) i u) (hb : bodyOf i = some (mxGate b))
    (hfrozen : (getTile u t).mx.frozen = false) (hreload : reloading u t = false) (hon : mattaskOn u t = true) :
    Waits s i { what := .frozen, kind := 11, name := 0x010 } u :=
  waits_of h hb ((if_neg (by rw [hfrozen, hreload]; decide)).trans (if_pos hon))

theorem gate_free (hfree : EngineFree u t) : mxGate b (.tile t q) u = b (.tile t q) u := by
  obtain ⟨hfrozen, hreload, hon⟩ := hfree
  exact (if_neg (by rw [hfrozen, hreload]; decide)).trans (if_neg (by rw [hon]; decide))

end Gate

/-! ### Words that keep no record -/

/-- How the effect of a word that keeps no progress record ends: its traps have source 4, and DETAIL1 of most holds the record
that is in force (R174, R180). -/
def engineEnd (t : Nat) : Res → Res
  | .trap tr v => .trap
      { tr with engine := true, d1 := if ownDetail tr.cond then tr.d1 else progressWord (getTile v t).mx.prog } v
  | .after tr v => .after
      { tr with engine := true, d1 := if ownDetail tr.cond then tr.d1 else progressWord (getTile v t).mx.prog } v
  | r => r

theorem engineEnd_trap {tr : TrapInfo} (h : ownDetail tr.cond = false) (t : Nat) (v : State) :
    engineEnd t (.trap tr v) = .trap { tr with engine := true, d1 := progressWord (getTile v t).mx.prog } v := by
  rw [engineEnd, if_neg (Bool.eq_false_iff.1 h)]

theorem engineEnd_after {tr : TrapInfo} (h : ownDetail tr.cond = false) (t : Nat) (v : State) :
    engineEnd t (.after tr v) = .after { tr with engine := true, d1 := progressWord (getTile v t).mx.prog } v := by
  rw [engineEnd, if_neg (Bool.eq_false_iff.1 h)]

theorem mxWord_recordless {u : State} {t : Nat} (hfree : EngineFree u t) (q an : Nat) (b : Nat → Body) :
    mxWord 7 an b (.tile t q) u = engineEnd t (b 0 (.tile t q) u) := by
  refine (gate_free hfree).trans ?_
  generalize hr : b 0 (.tile t q) u = r
  cases r <;> simp [hr, engineEnd]

section Recordless

variable {s u v : State} {t q an : Nat} {i : Instr} {b : Nat → Body}

theorem recordless_completes (h : Issues s (.tile t q) i u) (hb : bodyOf i = some (mxWord 7 an b)) (hfree : EngineFree u t)
    (hr : b 0 (.tile t q) u = .retire v) : Completes s i v :=
  completes_of h hb (by rw [mxWord_recordless hfree, hr]; rfl)

/-- A condition whose DETAIL1 is not defined elsewhere. -/
theorem recordless_traps (h : Issues s (.tile t q) i u) (hb : bodyOf i = some (mxWord 7 an b)) (hfree : EngineFree u t)
    {k : Nat} (hk : ownDetail k = false) (hr : b 0 (.tile t q) u = .trap { cond := k } v) : EngineTraps s i k t v := by
  rw [EngineTraps, exec_bodyOf hb, issues_trap h _ ((mxWord_recordless hfree q an b).trans (by rw [hr, engineEnd_trap hk]))]

/-- A word whose results raise flags ends with them, the progress record in DETAIL1 of its FPEXC (R106, R174). -/
theorem recordless_endsWithFlags (h : Issues s (.tile t q) i u) (hb : bodyOf i = some (mxWord 7 an b)) (hfree : EngineFree u t)
    {fl : BitVec 6} (hr : b 0 (.tile t q) u = flagsDone v (.tile t q) fl true) : EndsWithFlags s i v fl true := by
  have hcur : s.cur = .tile t q := h.1.1
  rw [EndsWithFlags, hcur]
  refine ⟨fun hoff => ?_, fun hon => ?_⟩
  · have hdone : flagsDone v (.tile t q) fl true = .retire (orFlags v (.tile t q) fl) := if_neg (fun hne => hne hoff)
    exact recordless_completes h hb hfree (hr.trans hdone)
  · have hdone : flagsDone v (.tile t q) fl true =
        .after { cond := 28, engine := true, d0 := fl.setWidth 64 } (orFlags v (.tile t q) fl) := if_pos hon
    rw [exec_bodyOf hb, issueWord_issues h, mxWord_recordless hfree, hr, hdone, engineEnd_after rfl, if_pos rfl]
    rfl

end Recordless

/-! ### Planes (R163, R181) -/

/-- A plane that its sources decode to has the load record of its MLDW, is loaded, and waits for nothing (R163, R176). -/
theorem decodePlane_loaded {r : LoadRec} {p : PlaneRefs} {wb mb sb : Array Byte} {pl : Plane}
    (h : decodePlane r p wb mb sb = some pl) :
    pl.load = { r with planes := p.planes, jp := p.jp } ∧ pl.unloaded = none ∧ pl.pending = false := by
  unfold decodePlane at h
  dsimp only at h
  split at h
  · cases h
  · injection h with h
    subst h
    exact ⟨rfl, rfl, rfl⟩

/-- A plane that is read is one that its sources decode to. -/
theorem readPlane_decodes {s : State} {ctx : Nat} {r : LoadRec} {p : PlaneRefs} {pl : Plane} (h : readPlane s ctx r p = .ok pl) :
    ∃ wb mb sb, decodePlane r p wb mb sb = some pl := by
  unfold readPlane at h
  obtain ⟨wb, -, h⟩ := ok_of_bind h
  dsimp only at h
  split at h
  all_goals
    obtain ⟨mb, -, h⟩ := ok_of_bind h
    split at h
    all_goals
      obtain ⟨sb, -, h⟩ := ok_of_bind h
      split at h
      case h_1 hpl =>
        cases h
        exact ⟨_, _, _, hpl⟩
      case h_2 => cases h

/-! ### MRANK1 (R183) -/

theorem segRead_sound {s : State} {ctx : Nat} {r : SegRef} {off n : Nat} (h : segPoisoned s ctx r.name r.tile off n = false) :
    segRead s ctx r off n = .ok (segBytes s ctx r.name r.tile off n) :=
  if_neg (Bool.eq_false_iff.1 h)

/-- The accumulator to which the products u_i times v_j are added, and the flags they raise, in a state in which it is bound. -/
def rankSum (s : State) (ctx t an : Nat) (nu nv : List Machine.Num) : Acc × BitVec 6 :=
  mapRows ((getAcc s ctx t an).getD (Acc.fresh 0)) (fun i row => rankRow (nu.getD i Machine.Num.zero) nv row)

/-- The state after MRANK1, from the one in which its operands are read. -/
def rankUpdate (s : State) (ctx t an : Nat) (nu nv : List Machine.Num) : State :=
  let s1 := bindAcc s ctx t an
  let a := (rankSum s1 ctx t an nu nv).1
  setAcc s1 ctx t an { a with vrows := 128, opened := !a.pin }

section RankOne

variable {s u v w : State} {t q : Nat} {f : FX} {a : Acc}

/-- MRANK1 with its operands in four lines of a queue. -/
theorem mrank1_popped (h : Issues s (.tile t q) (.mrank1 f) u) (hfree : EngineFree u t) (hq : qsrc f = true)
    (hlines : awaitLines u t (List.replicate 4 (srcQueue f)) none = .ok ())
    (hready : readyAcc u (ctxNo u (.tile t q)) t f.an.toNat = .ok v)
    {ls : List QLine} (hpop : popMany v t (srcQueue f) 4 v = .ok (ls, w))
    (hrows : bindableRows u (ctxNo u (.tile t q)) t f.an.toNat 0 128 = .ok a) :
    let ctx := ctxNo u (.tile t q)
    let an := f.an.toNat
    let nu := numsOfLines f.ta.toNat (ls.take 2)
    let nv := numsOfLines f.tw.toNat (ls.drop 2)
    EndsWithFlags s (.mrank1 f) (rankUpdate w ctx t an nu nv) (rankSum (bindAcc w ctx t an) ctx t an nu nv).2 true := by
  have hwait : awaitLines u t (if qsrc f = true then List.replicate 4 (srcQueue f) else []) none = .ok () := by
    rw [if_pos hq, hlines]
  refine recordless_endsWithFlags h rfl hfree ((congrArg Ex.run (if_pos hq)).trans ?_)
  refine (run_ok_bind ..).trans ?_
  refine (run_bind_ok hwait).trans ?_
  refine (run_bind_ok hready).trans ?_
  refine (run_bind_ok hpop).trans ?_
  refine (run_ok_bind ..).trans ?_
  refine (run_bind_ok hrows).trans ?_
  unfold rankUpdate rankSum
  dsimp only [coreTile]
  generalize mapRows _ _ = p
  rfl

/-- MRANK1 with its operands in two segments. -/
theorem mrank1_read (h : Issues s (.tile t q) (.mrank1 f) u) (hfree : EngineFree u t) (hq : ¬ qsrc f = true)
    {x y : SegRef × Nat}
    (hpair : mxPair u (.tile t q) ((getStrand u (.tile t q)).getA f.ar1.toNat) (128 * (fmtBits f.ta.toNat / 8))
      (fmtBits f.ta.toNat / 8) f.ta.toNat ((getStrand u (.tile t q)).getA f.ar2.toNat) (128 * (fmtBits f.tw.toNat / 8))
      (fmtBits f.tw.toNat / 8) f.tw.toNat false = .ok (x, y))
    (hready : readyAcc u (ctxNo u (.tile t q)) t f.an.toNat = .ok v)
    (hgrant : grantRefs v (.tile t q) 4 (ctxNo u (.tile t q)) [x.1, y.1] true = .ok w) {ub vb : List Byte}
    (hub : segRead w (ctxNo u (.tile t q)) x.1 x.2 (128 * (fmtBits f.ta.toNat / 8)) = .ok ub)
    (hvb : segRead w (ctxNo u (.tile t q)) y.1 y.2 (128 * (fmtBits f.tw.toNat / 8)) = .ok vb)
    (hrows : bindableRows u (ctxNo u (.tile t q)) t f.an.toNat 0 128 = .ok a) :
    let ctx := ctxNo u (.tile t q)
    let an := f.an.toNat
    let nu := numsOfBytes f.ta.toNat ub
    let nv := numsOfBytes f.tw.toNat vb
    EndsWithFlags s (.mrank1 f) (rankUpdate w ctx t an nu nv) (rankSum (bindAcc w ctx t an) ctx t an nu nv).2 true := by
  have hwait : awaitLines u t (if qsrc f = true then List.replicate 4 (srcQueue f) else []) none = .ok () := by
    rw [if_neg hq]
    rfl
  refine recordless_endsWithFlags h rfl hfree ((congrArg Ex.run (if_neg hq)).trans ?_)
  refine (run_bind_ok (bind_some_ok hpair)).trans ?_
  refine (run_bind_ok hwait).trans ?_
  refine (run_bind_ok hready).trans ?_
  refine (run_bind_ok hgrant).trans ?_
  refine (run_bind_ok hub).trans ?_
  refine (run_bind_ok hvb).trans ?_
  refine (run_ok_bind ..).trans ?_
  refine (run_bind_ok hrows).trans ?_
  unfold rankUpdate rankSum
  dsimp only [coreTile]
  generalize mapRows _ _ = p
  rfl

end RankOne

/-- Settles O43: each of the words has the shape of `mxWord` without a record, so that the waits of `mxGate` come first and it
then ends as its effect does; what bindings hold afterwards follows from the rules of `bindAcc` and `modAcc`, and the rows of
MRANK1 from `accRow_mapRows`. -/
theorem planesAndBindings : Obligations.PlanesAndBindings := by
  unfold Obligations.PlanesAndBindings
  refine ⟨fun s u t q f => ⟨fun con hcon h => ?gate, fun hfree => ⟨fun h p v pl hrefs hgrant hread => ?mldw,
    fun h => ?mswap, fun h v hready => ?acczero, fun h => ⟨fun hpins => ?pinned, fun v hpins hready => ?accpin⟩,
    fun h => ?accunpin, fun h nu nv v w hsound hready hsrc => ?mrank1⟩⟩, fun a g r hr => accRow_mapRows a g hr⟩
  case gate =>
    simp only [List.mem_cons, List.not_mem_nil, or_false] at hcon
    rcases hcon with rfl | rfl | rfl | rfl | rfl | rfl <;>
      exact ⟨gate_waits_held h rfl, gate_waits_mattask h rfl⟩
  case mldw =>
    obtain ⟨wb, mb, sb, hpl⟩ := readPlane_decodes hread
    refine ⟨recordless_completes h rfl hfree ?_, decodePlane_loaded hpl⟩
    exact (run_bind_ok hrefs).trans ((run_bind_ok hgrant).trans (run_bind_ok hread))
  case mswap => exact recordless_completes h rfl hfree rfl
  case acczero =>
    refine ⟨_, recordless_completes h rfl hfree (run_bind_ok hready), fun hctx => ?_⟩
    obtain ⟨a, ha, -⟩ := getAcc_bindAcc_same hctx t f.an.toNat
    refine ⟨_, (getAcc_modAcc_same ..).trans (congrArg _ ha), rfl, rfl, rfl, rfl, rfl, fun _ => rfl, fun cx k n hn hne => ?_⟩
    have hother : ¬ (ctxNo u (.tile t q) = cx ∧ accKey t f.an.toNat = accKey k n) := by
      rw [accKey_eq_accKey f.an.isLt hn]
      rintro ⟨rfl, rfl, rfl⟩
      exact hne rfl
    exact (getAcc_modAcc_other hother ..).trans (getAcc_bindAcc_other hother v)
  case pinned => exact recordless_traps h rfl hfree rfl (congrArg Ex.run (if_pos hpins))
  case accpin =>
    refine ⟨_, recordless_completes h rfl hfree ((congrArg Ex.run (if_neg (Nat.not_le.2 hpins))).trans (run_bind_ok hready)),
      fun hctx => ?_⟩
    obtain ⟨a, ha, hkept⟩ := getAcc_bindAcc_same hctx t f.an.toNat
    refine ⟨_, (getAcc_modAcc_same ..).trans (congrArg _ ha), rfl, rfl, fun b hb => ?_⟩
    rw [hkept b hb]
  case accunpin => exact ⟨_, recordless_completes h rfl hfree rfl, getAcc_modAcc_same ..⟩
  case mrank1 =>
    obtain ⟨rows, hrows⟩ := bindableRows_ok hsound 0 128
    split at hsrc
    case isTrue hq =>
      obtain ⟨hlines, ls, hpop, rfl, rfl⟩ := hsrc
      exact mrank1_popped h hfree hq hlines hready hpop hrows
    case isFalse hq =>
      obtain ⟨x, y, hpair, hgrant, hux, hvy, rfl, rfl⟩ := hsrc
      exact mrank1_read h hfree hq hpair hready hgrant (segRead_sound hux) (segRead_sound hvy) hrows

end Sys2Proof.Proofs.EngineWords

/-! SUPPORT. The engine words ECMD, EWAIT, EPOLL, ELINK, EKICK, EQSTAT and WITHDRAW, and what a command that is queued, or a
producer that a withdrawal reaches, becomes (R191, R193, R205, R210 to R215, R231, R233). -/

namespace Sys2Proof.Proofs.CommandWords

open Sys2Proof Sys2Proof.Machine Sys2Proof.Laws
open Sys2Proof.Proofs.EngineWords (run_bind_ok segRead_sound)
open Sys2Proof.Proofs.QueueWords (goesOn_of)

/-! ### Operands and room (R132, R191, R210) -/

section Steps

variable {s u v : State} {c : CoreId} {i : Instr} {b : Body} {α : Type} {x : Ex α} {g : α → Ex Res}

/-- A step with an early end is the end of the word. -/
theorem run_bind_error {r : Res} (hx : x = .error r) : Ex.run (x >>= g) = r := by
  rw [hx]
  rfl

/-- A word whose operand fails a check takes the trap of that check. -/
theorem operand_traps (h : Issues s c i u) (hb : bodyOf i = some b) (hstep : b c u = Ex.run (x >>= g)) {t : TrapInfo}
    (hx : x = .error (.trap t v)) : exec i s = .next (trapCore v c t) := by
  have hcur : s.cur = c := h.1.1
  rw [exec_bodyOf hb, issues_trap h b (hstep.trans (run_bind_error hx)), hcur]

theorem awaitRoom_ok {q : EngQueue} (hroom : queueRoom u q (coreTile u c) = true) (nb : Bool) :
    awaitRoom u c q nb = .ok () :=
  if_pos hroom

/-- How a word ends that finds no room in a queue: QFULL under NB, and else a wait (R210). -/
def roomless (u : State) (c : CoreId) (q : EngQueue) (nb : Bool) : Res :=
  if nb then .trap { cond := 31 } u
  else .wait { what := .engineSpace, kind := 9, name := engineName q, psrc := spaceSrc u q (coreTile u c) } u

theorem awaitRoom_full {q : EngQueue} (hfull : queueRoom u q (coreTile u c) = false) (nb : Bool) :
    awaitRoom u c q nb = .error (roomless u c q nb) := by
  refine (if_neg (Bool.eq_false_iff.1 hfull)).trans ?_
  cases nb <;> rfl

theorem roomless_ends {q : EngQueue} {nb : Bool} (h : Issues s c i u) (hb : bodyOf i = some b)
    (hfull : b c u = roomless u c q nb) :
    (nb = true → Traps s i 31 0 0 u) ∧
    (nb = false →
      Waits s i { what := .engineSpace, kind := 9, name := engineName q, psrc := spaceSrc u q (coreTile u c) } u) :=
  ⟨fun hnb => traps_of h hb (hfull.trans (if_pos hnb)),
    fun hnb => waits_of h hb (hfull.trans (if_neg (Bool.eq_false_iff.1 hnb)))⟩

end Steps

/-! ### ECMD (R210, R205) -/

/-- The 128 bytes that ECMD reads, as its command is judged and run (R329). -/
def ecmdRaw (v : State) (ctx : Nat) (r : SegRef) (o : Nat) : BitVec 1024 :=
  ownRaw v (BitVec.ofNat 1024 (leNat (segBytes v ctx r.name r.tile o 128)))

/-- The lowest byte of a command of ECMD that a rule of CMDFORMAT reports (R198). -/
def ecmdFail (v : State) (c : CoreId) (ctx : Nat) (q : EngQueue) (raw : BitVec 1024) : Option Nat :=
  cmdFailByte v ctx (domainSize v (coreLaunch v c)) (queueServes q) false (isBox c) raw

/-- The state after a command of ECMD is queued, numbered among its launch's collectives (R332). -/
def ecmdQueued (v : State) (c : CoreId) (q : EngQueue) (addr : Word) (raw : BitVec 1024) : State :=
  let z := takeInstance v (coreLaunch v c) raw
  enqueueCmd z.2 { newCmd z.2 c q addr raw none with inst := z.1 }

/-- How ECMD ends with the command that it has read. -/
def ecmdEnd (v : State) (c : CoreId) (ctx : Nat) (q : EngQueue) (addr : Word) (raw : BitVec 1024) : Res :=
  match ecmdFail v c ctx q raw with
  | some b => .trap { cond := 30, d0 := BitVec.ofNat 64 b, d1 := addr } v
  | none => .retire (ecmdQueued v c q addr raw)

theorem ecmdEnd_bad {v : State} {c : CoreId} {ctx : Nat} {q : EngQueue} {raw : BitVec 1024} {b : Nat}
    (hbad : ecmdFail v c ctx q raw = some b) (addr : Word) :
    ecmdEnd v c ctx q addr raw = .trap { cond := 30, d0 := BitVec.ofNat 64 b, d1 := addr } v := by
  rw [ecmdEnd, hbad]

theorem ecmdEnd_good {v : State} {c : CoreId} {ctx : Nat} {q : EngQueue} {raw : BitVec 1024}
    (hgood : ecmdFail v c ctx q raw = none) (addr : Word) :
    ecmdEnd v c ctx q addr raw = .retire (ecmdQueued v c q addr raw) := by
  rw [ecmdEnd, hgood]

section Ecmd

variable {s u v : State} {c : CoreId} {f : FQ} {r : SegRef} {o : Nat}
  (hseg : segCheck u (ctxNo u c) (coreTile u c) ((getStrand u c).getA f.ar.toNat) (offFQ (getStrand u c) f) 128 64 false =
    .ok (r, o))

include hseg

theorem bodyEcmd_full (hfull : queueRoom u (queueOfQn (coreTile u c) f.qn) (coreTile u c) = false) :
    bodyEcmd f c u = roomless u c (queueOfQn (coreTile u c) f.qn) (f.aux.getLsbD 0) :=
  (run_bind_ok hseg).trans (run_bind_error (awaitRoom_full hfull _))

variable (hroom : queueRoom u (queueOfQn (coreTile u c) f.qn) (coreTile u c) = true)

include hroom

/-- ECMD lets a command of a higher sequencer that came in this clock be the earlier one (R205). -/
theorem bodyEcmd_later (hlater : enteredLater u c = true) : bodyEcmd f c u = .more u :=
  (run_bind_ok hseg).trans ((run_bind_ok (awaitRoom_ok hroom _)).trans (congrArg Ex.run (if_pos hlater)))

variable (hfirst : enteredLater u c = false) (hgrant : grantRefs u c (coreClient c) (ctxNo u c) [r] = .ok v)
  (hsound : segPoisoned v (ctxNo u c) r.name r.tile o 128 = false)

include hfirst hgrant hsound

/-- Once there is room, no higher sequencer is ahead and the bytes are granted and sound, ECMD ends by what they hold. -/
theorem bodyEcmd_granted : bodyEcmd f c u =
    ecmdEnd v c (ctxNo u c) (queueOfQn (coreTile u c) f.qn) (mkA r.name o) (ecmdRaw v (ctxNo u c) r o) := by
  refine (run_bind_ok hseg).trans ((run_bind_ok (awaitRoom_ok hroom _)).trans ?_)
  refine (congrArg Ex.run (if_neg (Bool.eq_false_iff.1 hfirst))).trans ?_
  refine (run_bind_ok hgrant).trans ((run_bind_ok (segRead_sound hsound)).trans ?_)
  dsimp only [ecmdEnd, ecmdFail, ecmdRaw]
  generalize cmdFailByte _ _ _ _ _ _ _ = x
  cases x with
  | some b => rfl
  | none => rfl

end Ecmd

/-! ### ELINK (R213) -/

section Elink

variable {s u v : State} {c : CoreId} {f : FQ} {r : SegRef} {o : Nat}

/-- The 12 bits above an address are clear just when the word is below 2^52. -/
theorem extract_high_eq_zero_iff (g : Word) : g.extractLsb' 52 12 = 0 ↔ g.toNat < 2 ^ 52 := by
  have hlt := g.isLt
  rw [← BitVec.toNat_inj, BitVec.extractLsb'_toNat, Nat.shiftRight_eq_div_pow, BitVec.ofNat_eq_ofNat, BitVec.toNat_ofNat,
    Nat.zero_mod]
  omega

theorem linkValue_segment {k : BitVec 6} (hk : isA k = true) :
    linkValue u c k = .ok ((getStrand u c).getA (aNum k)) :=
  if_pos hk

theorem linkValue_end : linkValue u c 0 = .ok 0 := rfl

theorem linkValue_address {k : BitVec 6} (hk : isA k = false) (hne : k ≠ 0) (hlt : ((getStrand u c).getG k).toNat < 2 ^ 52) :
    linkValue u c k = .ok ((getStrand u c).getG k ||| 0x8000000000000000) := by
  have hhigh : ¬ ((getStrand u c).getG k).extractLsb' 52 12 ≠ 0 := not_not_intro ((extract_high_eq_zero_iff _).2 hlt)
  exact (if_neg (Bool.eq_false_iff.1 hk)).trans ((if_neg hne).trans (if_neg hhigh))

theorem linkValue_outside {k : BitVec 6} (hk : isA k = false) (hne : k ≠ 0) (hle : 2 ^ 52 ≤ ((getStrand u c).getG k).toNat) :
    linkValue u c k = trapEx u 19 := by
  have hhigh : ((getStrand u c).getG k).extractLsb' 52 12 ≠ 0 := fun h => Nat.not_lt.2 hle ((extract_high_eq_zero_iff _).1 h)
  exact (if_neg (Bool.eq_false_iff.1 hk)).trans ((if_neg hne).trans (if_pos hhigh))

/-- The state in which an entry has its LINK, and in its header CHAIN is set and bits 8 and 63:48 are clear (R213). -/
def elinkWritten (v : State) (ctx : Nat) (r : SegRef) (o : Nat) (link : Word) : State :=
  let h : Word := BitVec.ofNat 64 (leNat (segBytes v ctx r.name r.tile o 8))
  let h1 := (h &&& 0x0000FFFFFFFFFEFF) ||| 0x200
  segWrite (segWrite v ctx r.name r.tile o (leBytes 8 h1.toNat)) ctx r.name r.tile (o + 24) (leBytes 8 link.toNat)

/-- ELINK with a LINK to write completes with it written. -/
theorem elink_completes (h : Issues s c (.elink f) u)
    (hseg : segCheck u (ctxNo u c) (coreTile u c) ((getStrand u c).getA f.ar.toNat) (offFQ0 (getStrand u c) f) 128 64 true =
      .ok (r, o))
    (hgrant : grantRefs u c (coreClient c) (ctxNo u c) [r] = .ok v)
    (hsound : segPoisoned v (ctxNo u c) r.name r.tile o 8 = false) {link : Word} (hlink : linkValue u c f.rc = .ok link) :
    Completes s (.elink f) (elinkWritten v (ctxNo u c) r o link) := by
  refine completes_of h rfl ((run_bind_ok hseg).trans ((run_bind_ok hlink).trans ?_))
  exact (run_bind_ok hgrant).trans (run_bind_ok (segRead_sound hsound))

end Elink

/-! ### EQSTAT (R215) -/

/-- EQSTAT reads the tile's share, the last STATUS and the progress of the first command of its queue. -/
theorem bodyEqstat_eq {u : State} {c : CoreId} {f : FQ} :
    let t := coreTile u c
    let q := queueOfQn t f.qn
    let l := queueCmds u q
    let mine := (l.filter (fun e => e.2.tile == t)).length
    let last := (tabGet 0 u.lastStatus (16 * t + qnOfQueue q)).toNat
    let prog := match l.head? with | some e => if e.2.tile = t then e.2.progress % 2 ^ 32 else 0 | none => 0
    bodyEqstat f c u = .retire (setGOf u c f.rc
      (BitVec.ofNat 64 (queueState l.head? * 2 ^ 62 + mine * 2 ^ 55 + last * 2 ^ 32 + prog))) := by
  dsimp only [bodyEqstat]
  generalize List.head? _ = x
  cases x with
  | some e => rfl
  | none => rfl

/-! ### EWAIT (R211) -/

/-- A word that is not 0 has a lowest set bit. -/
theorem find_lowestBit {x : Word} (hx : x ≠ 0) : ∃ n, (List.range 64).find? (fun k => x.getLsbD k) = some n ∧
    n < 64 ∧ x.getLsbD n = true ∧ ∀ k, k < n → x.getLsbD k = false := by
  cases hfind : (List.range 64).find? (fun k => x.getLsbD k) with
  | some n =>
    obtain ⟨hset, hmem, hlow⟩ := List.find?_range_eq_some.1 hfind
    exact ⟨n, rfl, List.mem_range.1 hmem, hset, fun k hk => by simpa using hlow k hk⟩
  | none =>
    refine absurd (BitVec.eq_of_getLsbD_eq fun k hk => ?_) hx
    rw [List.find?_range_eq_none] at hfind
    simpa using hfind k hk

section Flags

variable {s u : State} {t p : Nat} {f : FQ}

/-- Flags as EWAIT observes them: with CLR those from before the clock (R193). -/
def ewaitSees (u : State) (t : Nat) (clr : Bool) : Word := if clr then (getTile u t).clearView else (getTile u t).flags

theorem ewait_met (h : Issues s (.tile t p) (.ewait f) u)
    (hmet : awaitedFlags (getStrand u (.tile t p)) f &&& ~~~ ewaitSees u t (f.aux.getLsbD 6) = 0) :
    Completes s (.ewait f) (if f.aux.getLsbD 6 then
      modTile u t (fun x => x.clearFlags (awaitedFlags (getStrand u (.tile t p)) f)) else u) :=
  completes_of h rfl (if_pos hmet)

/-- EWAIT waits for the lowest awaited flag that it does not see set. -/
theorem ewait_waits (h : Issues s (.tile t p) (.ewait f) u)
    (hmiss : awaitedFlags (getStrand u (.tile t p)) f &&& ~~~ ewaitSees u t (f.aux.getLsbD 6) ≠ 0) :
    let m := awaitedFlags (getStrand u (.tile t p)) f
    let seen := ewaitSees u t (f.aux.getLsbD 6)
    ∃ n, n < 64 ∧ Waits s (.ewait f) { what := .ewait, kind := 4, name := n } u ∧
      m.getLsbD n = true ∧ seen.getLsbD n = false ∧ ∀ k, k < n → ¬ (m.getLsbD k = true ∧ seen.getLsbD k = false) := by
  intro m seen
  have hbit : ∀ k, k < 64 → (m &&& ~~~ seen).getLsbD k = (m.getLsbD k && !seen.getLsbD k) := fun k hk => by
    rw [BitVec.getLsbD_and, BitVec.getLsbD_not, decide_eq_true hk, Bool.true_and]
  obtain ⟨n, hfind, hn, hset, hlow⟩ := find_lowestBit hmiss
  have hname : ((List.range 64).find? (fun k => (m &&& ~~~ seen).getLsbD k)).getD 0 = n := by
    rw [hfind, Option.getD_some]
  rw [hbit n hn, Bool.and_eq_true, Bool.not_eq_true'] at hset
  refine ⟨n, hn, waits_of h rfl ((if_neg hmiss).trans ?_), hset.1, hset.2, fun k hk ⟨hawaited, hunseen⟩ => ?_⟩
  · rw [← hname]
    rfl
  · have hclear := hlow k hk
    rw [hbit k (by omega), hawaited, hunseen] at hclear
    cases hclear

end Flags

/-! ### Commands that are queued (R205, R229) -/

/-- A command without NONSTRICT does not fire absorbed. -/
theorem absorb_strict {s : State} {id : Nat} {x : Cmd} (hx : tabFind s.cmds id = some x) (hstrict : cmdNonstrict x.raw = false) :
    absorb s id = s := by
  simp [absorb, hx, hstrict]

/-- A queued command with sound AG registers and without NONSTRICT enters the checker, and no more. -/
theorem enqueueCmd_strict {s : State} {x : Cmd} (hag : (usedOpds x.raw).any (agRangeBad s x.ctx) = false)
    (hstrict : cmdNonstrict x.raw = false) :
    enqueueCmd s x = enterChecker { s with cmds := tabPut s.cmds s.nextCmd x } s.nextCmd x := by
  exact (if_neg (Bool.eq_false_iff.1 hag)).trans (absorb_strict ((tabFind_put ..).trans (if_pos rfl)) hstrict)

/-- What the checker leaves of a queued command and beside it. -/
theorem enqueueCmd_frame {s : State} {x : Cmd} (hag : (usedOpds x.raw).any (agRangeBad s x.ctx) = false)
    (hstrict : cmdNonstrict x.raw = false) :
    let v := enqueueCmd s x
    v.nextCmd = s.nextCmd + 1 ∧ (∀ id, id ≠ s.nextCmd → tabFind v.cmds id = tabFind s.cmds id) ∧
    ∃ y, tabFind v.cmds s.nextCmd = some y ∧ y.raw = x.raw ∧ y.queue = x.queue ∧ y.tile = x.tile ∧ y.entered = s.nextCmd ∧
      y.clock = s.cycle ∧ { v with cmds := s.cmds, nextCmd := s.nextCmd } = s := by
  rw [enqueueCmd_strict hag hstrict]
  refine ⟨rfl, fun id hid => ?_, _, (tabFind_put ..).trans (if_pos rfl), rfl, rfl, rfl, rfl, rfl, rfl⟩
  have hother : ¬ s.nextCmd = id := fun h => hid h.symm
  exact (tabFind_put ..).trans ((if_neg hother).trans ((tabFind_put ..).trans (if_neg hother)))

/-! ### Withdrawals (R231) -/

/-- Where no producer sets an awaited flag nothing is sent (R233). -/
theorem sendWithdrawals_none {s : State} {t serial : Nat} {m : Word} (h : producers s t serial m = []) :
    sendWithdrawals s t serial m = s := by
  rw [sendWithdrawals, withdraw, h]
  cases s.cmds.length <;> rfl

/-- A producer without demand is beyond withdrawing. -/
theorem withdrawOne_undemanded {s : State} {id : Nat} {x : Cmd} (hx : tabFind s.cmds id = some x) (hzero : x.demand = 0)
    (ms : List Word) : withdrawOne (s, ms) id = (s, ms) := by
  simp [withdrawOne, hx, hzero]

/-- One that others still demand loses one demand and counts the withdrawal. -/
theorem withdrawOne_demanded {s : State} {id : Nat} {x : Cmd} (hx : tabFind s.cmds id = some x) (hmany : 1 < x.demand)
    (ms : List Word) : withdrawOne (s, ms) id =
      ({ s with cmds := tabPut s.cmds id { x with demand := x.demand - 1, withdrawals := x.withdrawals + 1 } }, ms) := by
  have hsome : x.demand ≠ 0 := by omega
  have hleft : x.demand - 1 ≠ 0 := by omega
  simp [withdrawOne, hx, hsome, hleft]

/-- Settles O47: ECMD and EKICK end by `roomless_ends` where they find no room, ECMD else by `bodyEcmd_granted`; ELINK rests on
the values of `linkValue`, EWAIT on the lowest missing flag, and the state of a queued command on `enqueueCmd_frame`. -/
theorem engineWords : Obligations.EngineWords := by
  unfold Obligations.EngineWords
  refine ⟨fun s u c f => ⟨fun h => ⟨fun x v hx => ?ecmdTraps, fun r o hseg => ⟨fun hfull => ?ecmdFull,
        fun hroom hlater => ?ecmdLater, fun v hroom hfirst hgrant hsound => ⟨fun b hb => ?ecmdBad, fun hgood => ?ecmdGood⟩⟩⟩,
      fun h => ⟨fun x v hx => ?ekickTraps, fun r o hseg => ⟨fun hfull => ?ekickFull, fun hroom => ?ekick⟩⟩,
      fun h r o v hseg hgrant hsound => ⟨fun ha => ?linkSegment, fun hzero => ?linkEnd, fun ha hne hlt => ?linkAddress,
        fun ha hne hle => ?linkOutside⟩,
      fun h => ?eqstat⟩,
    fun s u t p f => ⟨fun h => ⟨fun hmet => ewait_met h hmet, fun hmiss => ewait_waits h hmiss⟩, fun h => ?epoll,
      fun h => ⟨completes_of h rfl rfl, sendWithdrawals_none⟩⟩,
    fun s x hag hstrict => enqueueCmd_frame hag hstrict,
    fun s id x hx => ⟨fun hzero => withdrawOne_undemanded hx hzero [], fun hmany => withdrawOne_demanded hx hmany []⟩⟩
  case ecmdTraps => exact operand_traps h rfl rfl hx
  case ecmdFull => exact roomless_ends h rfl (bodyEcmd_full hseg hfull)
  case ecmdLater => exact goesOn_of h rfl (bodyEcmd_later hseg hroom hlater)
  case ecmdBad => exact traps_of h rfl ((bodyEcmd_granted hseg hroom hfirst hgrant hsound).trans (ecmdEnd_bad hb _))
  case ecmdGood => exact completes_of h rfl ((bodyEcmd_granted hseg hroom hfirst hgrant hsound).trans (ecmdEnd_good hgood _))
  case ekickTraps => exact operand_traps h rfl rfl hx
  case ekickFull => exact roomless_ends h rfl ((run_bind_ok hseg).trans (run_bind_error (awaitRoom_full hfull _)))
  case ekick => exact completes_of h rfl ((run_bind_ok hseg).trans (run_bind_ok (awaitRoom_ok hroom _)))
  case linkSegment => exact elink_completes h hseg hgrant hsound (linkValue_segment ha)
  case linkEnd => exact elink_completes h hseg hgrant hsound (hzero ▸ linkValue_end)
  case linkAddress => exact elink_completes h hseg hgrant hsound (linkValue_address ha hne hlt)
  case linkOutside => exact traps_of h rfl ((run_bind_ok hseg).trans (run_bind_error (linkValue_outside ha hne hle)))
  case eqstat => exact completes_of h rfl bodyEqstat_eq
  case epoll => exact completes_of h rfl (apply_ite Res.retire ..).symm

end Sys2Proof.Proofs.CommandWords

/-! SUPPORT. The words SPAWN, TTREAD and SKEWACK of tasks, and AGSET, AGGET and SLRES of the address generators and the
near-slice units (R217, R223, R234, R235, R273, R275, R276). -/

namespace Sys2Proof.Proofs.TaskWords

open Sys2Proof Sys2Proof.Machine Sys2Proof.Laws
open Sys2Proof.Proofs.EngineWords (run_bind_ok segRead_sound)
open Sys2Proof.Proofs.CommandWords (run_bind_error)

/-- The 64 bytes of a segment that SPAWN and AGSET read. -/
def blockAt (v : State) (ctx : Nat) (r : SegRef) (o : Nat) : BitVec 512 :=
  BitVec.ofNat 512 (leNat (segBytes v ctx r.name r.tile o 64))

/-! ### SPAWN into a heap (R223, R292) -/

section Heap

variable {s u v : State} {c : CoreId} {i : Instr} {b : Body} {f : FQ} {tile : Option Nat} {cl : Nat} {pk : BitVec 512}

/-- The heap entry of a packet that a task spawns. -/
def spawnEntry (v : State) (c : CoreId) (ctx : Nat) (tile : Option Nat) (cl : Nat) (pk : BitVec 512) (k : Task) : HeapEntry :=
  ⟨cl / 8, ctxTier v ctx, (pk.extractLsb' 64 64).toNat, v.cycle, k.queue, k.pos, ctx, k.launch, v.cycle, false,
    .spawn tile cl (coreTile v c) k.lap k.lapAt pk⟩

/-- How SPAWN ends with a sound packet and its cluster: SPAWNDEST outside the partition, QFULL or a wait with the packet at a
full heap, and else the packet in the heap. -/
def SpawnEnters (s : State) (c : CoreId) (ctx : Nat) (f : FQ) (i : Instr) (v : State) (tile : Option Nat) (cl : Nat)
    (pk : BitVec 512) : Prop :=
  let tier := ctxTier v ctx
  let mine := (partClusters v (ctxPart v ctx)).getLsbD cl
  (mine = false → Traps s i 36 0 0 v) ∧
  (mine = true → heapRoom v (cl / 8) tier = false →
    (f.aux.getLsbD 0 = true → Traps s i 31 0 0 v) ∧
    (f.aux.getLsbD 0 = false → Waits s i { what := .engineSpace, kind := 11, name := 0x001 }
      (modStrand v c (fun y => { y with spawning := some (pk, tile, cl) })))) ∧
  (∀ k, mine = true → heapRoom v (cl / 8) tier = true → (getTile v (coreTile v c)).task = some k →
    Completes s i (heapAdd v (spawnEntry v c ctx tile cl pk k)))

theorem spawnInto_outside (hout : (partClusters v (ctxPart v (ctxNo v c))).getLsbD cl = false) :
    spawnInto v c f tile cl pk = trapEx v 36 := by
  simp [spawnInto, bitOf, hout]

theorem spawnInto_full (hin : (partClusters v (ctxPart v (ctxNo v c))).getLsbD cl = true)
    (hfull : heapRoom v (cl / 8) (ctxTier v (ctxNo v c)) = false) :
    spawnInto v c f tile cl pk = if f.aux.getLsbD 0 then trapEx v 31
      else .error (.wait { what := .engineSpace, kind := 11, name := 0x001 }
        (modStrand v c (fun y => { y with spawning := some (pk, tile, cl) }))) := by
  simp [spawnInto, bitOf, hin, hfull]

theorem spawnInto_room (hin : (partClusters v (ctxPart v (ctxNo v c))).getLsbD cl = true)
    (hroom : heapRoom v (cl / 8) (ctxTier v (ctxNo v c)) = true) {k : Task} (hk : (getTile v (coreTile v c)).task = some k) :
    spawnInto v c f tile cl pk = .ok (.retire (heapAdd v (spawnEntry v c (ctxNo v c) tile cl pk k))) := by
  simp only [spawnInto, bitOf, hin, hroom, hk, Bool.not_true, Bool.false_eq_true, if_false]
  rfl

/-- A word that comes to `spawnInto` ends as that says. -/
theorem spawnEnters_of (h : Issues s c i u) (hb : bodyOf i = some b) {ctx : Nat} (hctx : ctxNo v c = ctx)
    (hbody : b c u = Ex.run (spawnInto v c f tile cl pk)) : SpawnEnters s c ctx f i v tile cl pk := by
  subst hctx
  refine ⟨fun hout => traps_of h hb ?outside, fun hin hfull => ⟨fun hnb => traps_of h hb ?full, fun hnb => waits_of h hb ?wait⟩,
    fun k hin hroom hk => completes_of h hb ?room⟩
  case outside =>
    rw [hbody, spawnInto_outside hout]
    rfl
  case full =>
    rw [hbody, spawnInto_full hin hfull, if_pos hnb]
    rfl
  case wait =>
    rw [hbody, spawnInto_full hin hfull, if_neg (Bool.eq_false_iff.1 hnb)]
    rfl
  case room =>
    rw [hbody, spawnInto_room hin hroom hk]
    rfl

end Heap

/-! ### The packet of SPAWN (R217, R223) -/

section Packet

variable {s u v w : State} {c : CoreId} {f : FQ} {r : SegRef} {o : Nat}

/-- SPAWN.SEG with the packet that it has read and the state after it. -/
def spawnToSegment (c : CoreId) (f : FQ) (p : BitVec 512 × State) : Ex Res := do
  let a := (getStrand p.2 c).getA (aNum f.rc)
  let y ← segName p.2 (ctxNo p.2 c) (coreTile p.2 c) a (aOff a)
  spawnInto p.2 c f (some y.seg.home) (y.seg.home / 4) p.1

/-- SPAWN.VA with the packet that it has read and the state after it. -/
def spawnToAddress (c : CoreId) (f : FQ) (p : BitVec 512 × State) : Ex Res :=
  let g := ((getStrand p.2 c).getG f.rc).toNat
  if Config.vaEnd ≤ g then trapEx p.2 19
  else do
    let (y, w) ← devXlat p.2 c g 1 .read
    spawnInto w c f none (homeSlice w y.pa y.leaf) p.1

/-- A SPAWN that has waited goes on with the packet that it has read. -/
theorem bodySpawn_waited {tile : Option Nat} {cl : Nat} {pk : BitVec 512}
    (hs : (getStrand u c).spawning = some (pk, tile, cl)) :
    bodySpawnSeg f c u = Ex.run (spawnInto u c f tile cl pk) ∧ bodySpawnVa f c u = Ex.run (spawnInto u c f tile cl pk) := by
  simp only [bodySpawnSeg, bodySpawnVa, hs, and_self]

/-- A new SPAWN reads its packet. -/
theorem bodySpawn_new (hs : (getStrand u c).spawning = none) :
    bodySpawnSeg f c u = Ex.run (spawnPacket u c f >>= spawnToSegment c f) ∧
    bodySpawnVa f c u = Ex.run (spawnPacket u c f >>= spawnToAddress c f) := by
  simp only [bodySpawnSeg, bodySpawnVa, hs]
  exact ⟨rfl, rfl⟩

section Read

variable (hseg : segCheck u (ctxNo u c) (coreTile u c) ((getStrand u c).getA f.ar.toNat) (offFQ0 (getStrand u c) f) 64 64 false =
    .ok (r, o))
  (hgrant : grantRefs u c (coreClient c) (ctxNo u c) [r] = .ok v)
  (hsound : segPoisoned v (ctxNo u c) r.name r.tile o 64 = false)

include hseg hgrant hsound

/-- A packet that breaks a rule of R217 is reported by its lowest byte. -/
theorem spawnPacket_bad {b : Nat} (hbad : (spawnBad (blockAt v (ctxNo u c) r o)).min? = some b) :
    spawnPacket u c f = trapEx v 30 (BitVec.ofNat 64 b) := by
  rw [blockAt] at hbad
  simp only [spawnPacket, hseg, hgrant, segRead_sound hsound, hbad, bind, Except.bind]

theorem spawnPacket_good (hgood : (spawnBad (blockAt v (ctxNo u c) r o)).min? = none) :
    spawnPacket u c f = .ok (blockAt v (ctxNo u c) r o, v) := by
  rw [blockAt] at hgood ⊢
  simp only [spawnPacket, hseg, hgrant, segRead_sound hsound, hgood, bind, Except.bind, pure, Except.pure]

end Read

theorem spawnToSegment_named {pk : BitVec 512} {y : SegRef}
    (hname : segName v (ctxNo v c) (coreTile v c) ((getStrand v c).getA (aNum f.rc)) (aOff ((getStrand v c).getA (aNum f.rc))) =
      .ok y) :
    spawnToSegment c f (pk, v) = spawnInto v c f (some y.seg.home) (y.seg.home / 4) pk := by
  simp only [spawnToSegment, hname, bind, Except.bind]

theorem spawnToAddress_outside {pk : BitVec 512} (hle : 2 ^ 52 ≤ ((getStrand v c).getG f.rc).toNat) :
    spawnToAddress c f (pk, v) = trapEx v 19 :=
  if_pos hle

theorem spawnToAddress_translated {pk : BitVec 512} {y : DevRef} (hlt : ((getStrand v c).getG f.rc).toNat < 2 ^ 52)
    (hx : devXlat v c ((getStrand v c).getG f.rc).toNat 1 .read = .ok (y, w)) :
    spawnToAddress c f (pk, v) = spawnInto w c f none (homeSlice w y.pa y.leaf) pk := by
  refine (if_neg (Nat.not_le.2 hlt)).trans ?_
  simp only [hx, bind, Except.bind]

end Packet

/-! ### TTREAD (R234) -/

section Ttread

variable {u v : State} {t q : Nat} {f : FR} {k : Task} {l : Launch}

/-- The values of a task and its launch that TTREAD reads by FN; 4 is the timetable. -/
def taskValue (k : Task) (l : Launch) : Nat → Nat
  | 0 => k.index.getD (2 ^ 64 - 1)
  | 1 => packetTasks l.packet
  | 2 => k.lap
  | 3 => l.laps
  | _ => k.lapAt

variable (hk : (getTile u t).task = some k) (hl : tabFind u.launches k.launch = some l)

include hk hl

theorem bodyTtread_value (hfn : f.fn.toNat ≠ 4) :
    bodyTtread f (.tile t q) u = .retire (setGOf u (.tile t q) f.rd (BitVec.ofNat 64 (taskValue k l f.fn.toNat))) := by
  simp only [bodyTtread, hk, hl]
  generalize f.fn.toNat = n at hfn
  match n with
  | 0 | 1 | 2 | 3 => rfl
  | 4 => exact absurd rfl hfn
  | n + 5 => rfl

variable (hfn : f.fn = 4)

include hfn

theorem bodyTtread_pastTasks (hle : packetTasks l.packet ≤ ((getStrand u (.tile t q)).getG f.ra).toNat) :
    bodyTtread f (.tile t q) u = .trap { cond := 19 } u := by
  simp only [bodyTtread, hk, hl, hfn]
  exact congrArg Ex.run (if_pos hle)

theorem bodyTtread_default (hlt : ((getStrand u (.tile t q)).getG f.ra).toNat < packetTasks l.packet)
    (hzero : packetTtab l.packet = 0) :
    bodyTtread f (.tile t q) u = .retire (setGOf u (.tile t q) f.rd
      (BitVec.ofNat 64 (defaultEntry u k.ctx ((getStrand u (.tile t q)).getG f.ra).toNat))) := by
  simp only [bodyTtread, hk, hl, hfn]
  exact congrArg Ex.run ((if_neg (Nat.not_le.2 hlt)).trans (if_pos hzero))

theorem bodyTtread_timetable (hlt : ((getStrand u (.tile t q)).getG f.ra).toNat < packetTasks l.packet)
    (hne : packetTtab l.packet ≠ 0) {va n : Nat} {r : DevRef}
    (hva : devAddr u (packetTtab l.packet + 64 + 4 * ((getStrand u (.tile t q)).getG f.ra).toNat : Nat) 4 = .ok va)
    (hx : devXlat u (.tile t q) va 4 .read = .ok (r, v)) (hread : devRead v r.pa 4 = .ok n) :
    bodyTtread f (.tile t q) u = .retire (setGOf v (.tile t q) f.rd (BitVec.ofNat 64 n)) := by
  simp only [bodyTtread, hk, hl, hfn]
  refine (congrArg Ex.run ((if_neg (Nat.not_le.2 hlt)).trans (if_neg hne))).trans ?_
  exact (run_bind_ok hva).trans ((run_bind_ok hx).trans (run_bind_ok hread))

end Ttread

/-! ### SKEWACK (R235) -/

section Skewack

variable {u : State} {c : CoreId} {f : FR}

/-- The bits above a queue number are clear just when the word is below 1,024. -/
theorem extract_aboveQueue_eq_zero_iff (g : Word) : g.extractLsb' 10 54 = 0 ↔ g.toNat < 1024 := by
  have hlt := g.isLt
  rw [← BitVec.toNat_inj, BitVec.extractLsb'_toNat, Nat.shiftRight_eq_div_pow, BitVec.ofNat_eq_ofNat, BitVec.toNat_ofNat,
    Nat.zero_mod]
  omega

theorem extract_queue_toNat {g : Word} (hlt : g.toNat < 1024) : (g.extractLsb' 0 10).toNat = g.toNat := by
  rw [BitVec.extractLsb'_toNat, Nat.shiftRight_zero, Nat.mod_eq_of_lt hlt]

/-- The skew record that SKEWACK answers, and clears. -/
def skewAnswer (u : State) (c : CoreId) (rd : BitVec 6) (q : Nat) : State :=
  match skewLaunch u q with
  | none => setGOf u c rd 0
  | some (id, l) => setGOf (modLaunch u id (fun y => { y with skew := 0 })) c rd l.skew

theorem bodySkewack_noQueue (hle : 1024 ≤ ((getStrand u c).getG f.ra).toNat) : bodySkewack f c u = .trap { cond := 4 } u := by
  have hhigh : ((getStrand u c).getG f.ra).extractLsb' 10 54 ≠ 0 :=
    fun h => Nat.not_lt.2 hle ((extract_aboveQueue_eq_zero_iff _).1 h)
  exact congrArg Ex.run (if_pos hhigh)

variable (hlt : ((getStrand u c).getG f.ra).toNat < 1024)

include hlt

theorem bodySkewack_foreign (hne : ((getStrand u c).getG f.ra).toNat ≠ ctxQueue u (ctxNo u c))
    (huser : (getStrand u c).mode = .user) : bodySkewack f c u = .trap { cond := 5 } u := by
  have hhigh := (extract_aboveQueue_eq_zero_iff _).2 hlt
  have hmay : ((getStrand u c).getG f.ra).toNat ≠ ctxQueue u (ctxNo u c) ∧ (!isSup u c) = true := by
    rw [isSup, huser]
    exact ⟨hne, rfl⟩
  simp only [bodySkewack, extract_queue_toNat hlt, if_neg (not_not_intro hhigh), if_pos hmay]
  rfl

theorem bodySkewack_own (hown : ((getStrand u c).getG f.ra).toNat = ctxQueue u (ctxNo u c) ∨ (getStrand u c).mode = .supervisor) :
    bodySkewack f c u = .retire (skewAnswer u c f.rd ((getStrand u c).getG f.ra).toNat) := by
  have hhigh := (extract_aboveQueue_eq_zero_iff _).2 hlt
  have hmay : ¬ (((getStrand u c).getG f.ra).toNat ≠ ctxQueue u (ctxNo u c) ∧ (!isSup u c) = true) := by
    rintro ⟨hne, hsup⟩
    rw [isSup, hown.resolve_left hne] at hsup
    cases hsup
  simp only [bodySkewack, extract_queue_toNat hlt, if_neg (not_not_intro hhigh), if_neg hmay, skewAnswer]
  cases skewLaunch u ((getStrand u c).getG f.ra).toNat <;> rfl

end Skewack

/-! ### AGSET and AGGET (R273, R276) -/

section Agset

variable {u v : State} {c : CoreId} {f : FQ} {r : SegRef} {o : Nat}

/-- The lowest byte of a descriptor that a rule of R273 reports; the zero descriptor is valid. -/
def agFail (d : BitVec 512) : Option Nat := if d = 0 then none else (agBad d).min?

theorem agFail_of_bad {d : BitVec 512} {b : Nat} (hne : d ≠ 0) (hb : (agBad d).min? = some b) : agFail d = some b :=
  (if_neg hne).trans hb

theorem agFail_of_good {d : BitVec 512} (hgood : d = 0 ∨ agBad d = []) : agFail d = none := by
  rw [agFail]
  split
  · rfl
  · next hne => rw [hgood.resolve_left hne, List.min?_nil]

/-- How AGSET ends with the descriptor that it has read. -/
def agsetEnd (v : State) (ctx n : Nat) (a : Word) (d : BitVec 512) : Res :=
  match agFail d with
  | some b => .trap { cond := 30, d0 := BitVec.ofNat 64 b, d1 := a } v
  | none =>
    if agNamed v ctx n then .wait { what := .segment, kind := 11, name := 0x200 + n } v
    else .retire (modCtx v ctx (fun x => { x with ags := tabSet 0 x.ags n d }))

theorem bodyAgset_granted
    (hseg : segCheck u (ctxNo u c) (coreTile u c) ((getStrand u c).getA f.ar.toNat) (offFQ (getStrand u c) f) 64 64 false =
      .ok (r, o))
    (hgrant : grantRefs u c (coreClient c) (ctxNo u c) [r] = .ok v)
    (hsound : segPoisoned v (ctxNo u c) r.name r.tile o 64 = false) :
    bodyAgset f c u =
      agsetEnd v (ctxNo u c) f.qn.toNat ((getStrand u c).getA f.ar.toNat) (blockAt v (ctxNo u c) r o) := by
  refine (run_bind_ok hseg).trans ((run_bind_ok hgrant).trans ((run_bind_ok (segRead_sound hsound)).trans ?_))
  dsimp only [agsetEnd, agFail, blockAt]
  generalize BitVec.ofNat 512 _ = d
  generalize (if d = 0 then none else (agBad d).min?) = x
  cases x with
  | some b => rfl
  | none => exact apply_ite Ex.run ..

variable {n : Nat} {a : Word} {d : BitVec 512}

theorem agsetEnd_bad {b : Nat} (hbad : agFail d = some b) (ctx : Nat) :
    agsetEnd v ctx n a d = .trap { cond := 30, d0 := BitVec.ofNat 64 b, d1 := a } v := by
  rw [agsetEnd, hbad]

theorem agsetEnd_good (hgood : agFail d = none) (ctx : Nat) :
    agsetEnd v ctx n a d = if agNamed v ctx n then .wait { what := .segment, kind := 11, name := 0x200 + n } v
      else .retire (modCtx v ctx (fun x => { x with ags := tabSet 0 x.ags n d })) := by
  rw [agsetEnd, hgood]

theorem agField_doubleword (g : BitVec 512) (dw : Nat) : BitVec.ofNat 64 (agField g dw 0 64) = g.extractLsb' (64 * dw) 64 := by
  rw [agField, BitVec.ofNat_toNat, BitVec.setWidth_eq, Nat.add_zero]

end Agset

/-! ### SLRES (R276) -/

theorem sum_maskedPowers_succ (p : Nat → Prop) [DecidablePred p] (n : Nat) :
    ((List.range (n + 1)).map (fun k => if p k then 0 else 2 ^ k)).sum =
      ((List.range n).map (fun k => if p k then 0 else 2 ^ k)).sum + if p n then 0 else 2 ^ n := by
  rw [List.range_succ, List.map_append, List.sum_append, List.map_singleton, List.sum_singleton]

/-- The sum of the powers of 2 below 2^n whose exponents `p` does not mask is below 2^n. -/
theorem sum_maskedPowers_lt (p : Nat → Prop) [DecidablePred p] (n : Nat) :
    ((List.range n).map (fun k => if p k then 0 else 2 ^ k)).sum < 2 ^ n := by
  induction n with
  | zero => simp
  | succ n ih =>
    rw [sum_maskedPowers_succ, Nat.pow_succ]
    split <;> omega

/-- A sum of distinct powers of 2 has just their bits. -/
theorem testBit_sum_maskedPowers (p : Nat → Prop) [DecidablePred p] (n k : Nat) :
    ((List.range n).map (fun k => if p k then 0 else 2 ^ k)).sum.testBit k = decide (k < n ∧ ¬ p k) := by
  induction n with
  | zero => simp
  | succ n ih =>
    have hlow := sum_maskedPowers_lt p n
    rw [sum_maskedPowers_succ]
    by_cases hp : p n
    · rw [if_pos hp, Nat.add_zero, ih]
      grind
    · rw [if_neg hp, Nat.add_comm]
      obtain hlt | rfl | hgt := Nat.lt_trichotomy k n
      · rw [Nat.testBit_two_pow_add_gt hlt, ih]
        grind
      · rw [Nat.testBit_two_pow_add_eq, Nat.testBit_lt_two_pow hlow]
        simp [hp]
      · have hpow := Nat.pow_le_pow_right Nat.two_pos hgt
        rw [Nat.testBit_lt_two_pow (by omega), decide_eq_false (by omega)]

theorem agValid_getLsbD (u : State) (ctx : Nat) {k : Nat} (hk : k < 64) :
    (BitVec.ofNat 64 (agValid u ctx)).getLsbD k = decide (k < 16 ∧ agReg u ctx k ≠ 0) := by
  rw [BitVec.getLsbD_ofNat, decide_eq_true hk, Bool.true_and, agValid]
  exact testBit_sum_maskedPowers (fun n => agReg u ctx n = 0) 16 k

section Slres

variable {u : State} {c : CoreId} {f : FQ} {x : Context}

theorem bodySlres_valid (hsel : f.aux.extractLsb' 0 2 = 0) :
    bodySlres f c u = .retire (setGOf u c f.rc (BitVec.ofNat 64 (agValid u (ctxNo u c)))) := by
  simp only [bodySlres, hsel]
  rfl

variable (hx : tabFind u.ctxs (ctxNo u c) = some x)

include hx

theorem bodySlres_sticky (hsel : f.aux.extractLsb' 0 2 = 1) :
    let old := setGOf u c f.rc ((tabGet 0 x.sticky (coreTile u c / 4)).setWidth 64)
    bodySlres f c u = .retire (if f.aux.getLsbD 2 then
      modCtx old (ctxNo u c) (fun y => { y with sticky := tabSet 0 y.sticky (coreTile u c / 4) 0 }) else old) := by
  simp only [bodySlres, hsel, hx]
  rfl

theorem bodySlres_scanned (hsel : f.aux.extractLsb' 0 2 = 2) :
    bodySlres f c u = .retire (setGOf u c f.rc (BitVec.ofNat 64 (tabGet 0 x.scanned (coreTile u c / 4)))) := by
  simp only [bodySlres, hsel, hx]
  rfl

end Slres

/-- Settles O48: SPAWN ends by `spawnEnters_of` once its packet is read, TTREAD by the values of `taskValue` or an entry of the
timetable, SKEWACK by `skewAnswer`, AGSET by `agsetEnd`, and the mask of SLRES by the bits of a sum of powers. -/
theorem taskAndGeneratorWords : Obligations.TaskAndGeneratorWords := by
  unfold Obligations.TaskAndGeneratorWords
  refine fun s u c => ⟨fun f => ⟨fun tile cl pk hs => ⟨fun h => ?segWaited, fun h => ?vaWaited⟩,
      fun r o v hs hseg hgrant hsound => ⟨fun h => ⟨fun b hb => ?segBad, fun y hgood hname hctx => ?seg⟩,
        fun h => ⟨fun b hb => ?vaBad, fun hgood hle => ?vaOutside, fun y w hgood hlt hx hctx => ?va⟩⟩⟩,
    fun f t q k l hc h hk hl => ?ttread,
    fun f h => ⟨fun hle => traps_of h rfl (bodySkewack_noQueue hle),
      fun hlt hne huser => traps_of h rfl (bodySkewack_foreign hlt hne huser), fun hlt hown => ?skewack⟩,
    fun f => ⟨fun h r o v hseg hgrant hsound => ⟨fun b hne hb => ?agBad, fun hgood => ⟨fun hnamed => ?agWait,
        fun hfree => ?agset⟩⟩,
      fun h => completes_of h rfl ?agget,
      fun h x hx => ⟨fun hsel => ⟨_, completes_of h rfl (bodySlres_valid hsel), fun k hk => agValid_getLsbD u _ hk⟩,
        fun hsel => completes_of h rfl (bodySlres_sticky hx hsel), fun hsel => completes_of h rfl (bodySlres_scanned hx hsel)⟩⟩⟩
  case segWaited => exact spawnEnters_of h rfl rfl (bodySpawn_waited hs).1
  case vaWaited => exact spawnEnters_of h rfl rfl (bodySpawn_waited hs).2
  case segBad =>
    exact traps_of h rfl ((bodySpawn_new hs).1.trans (run_bind_error (spawnPacket_bad hseg hgrant hsound hb)))
  case seg =>
    refine spawnEnters_of h rfl hctx ((bodySpawn_new hs).1.trans ?_)
    exact (run_bind_ok (spawnPacket_good hseg hgrant hsound hgood)).trans (congrArg Ex.run (spawnToSegment_named hname))
  case vaBad =>
    exact traps_of h rfl ((bodySpawn_new hs).2.trans (run_bind_error (spawnPacket_bad hseg hgrant hsound hb)))
  case vaOutside =>
    refine traps_of h rfl ((bodySpawn_new hs).2.trans ?_)
    exact (run_bind_ok (spawnPacket_good hseg hgrant hsound hgood)).trans (congrArg Ex.run (spawnToAddress_outside hle))
  case va =>
    refine spawnEnters_of h rfl hctx ((bodySpawn_new hs).2.trans ?_)
    exact (run_bind_ok (spawnPacket_good hseg hgrant hsound hgood)).trans (congrArg Ex.run (spawnToAddress_translated hlt hx))
  case ttread =>
    subst hc
    have hvalue : f.fn.toNat ≠ 4 → Completes s (.ttread f)
        (setGOf u (.tile t q) f.rd (BitVec.ofNat 64 (taskValue k l f.fn.toNat))) :=
      fun hfn => completes_of h rfl (bodyTtread_value hk hl hfn)
    refine ⟨fun hfn => ?_, fun hfn => ?_, fun hfn => ?_, fun hfn => ?_,
      fun hfn hle => traps_of h rfl (bodyTtread_pastTasks hk hl hfn hle),
      fun hfn hlt hzero => completes_of h rfl (bodyTtread_default hk hl hfn hlt hzero),
      fun va r v n hfn hlt hne hva hx hread => completes_of h rfl (bodyTtread_timetable hk hl hfn hlt hne hva hx hread),
      fun hfn => ?_⟩
    all_goals
      rw [hfn] at hvalue
      exact hvalue (by decide)
  case skewack =>
    have hdone := completes_of h rfl (bodySkewack_own hlt hown)
    rw [skewAnswer] at hdone
    refine ⟨fun hnone => ?_, fun id l hsome => ?_⟩
    · rwa [hnone] at hdone
    · rwa [hsome] at hdone
  case agBad =>
    exact traps_of h rfl ((bodyAgset_granted hseg hgrant hsound).trans (agsetEnd_bad (agFail_of_bad hne hb) _))
  case agWait =>
    refine waits_of h rfl ((bodyAgset_granted hseg hgrant hsound).trans ?_)
    exact (agsetEnd_good (agFail_of_good hgood) _).trans (if_pos hnamed)
  case agset =>
    refine completes_of h rfl ((bodyAgset_granted hseg hgrant hsound).trans ?_)
    exact (agsetEnd_good (agFail_of_good hgood) _).trans (if_neg (Bool.eq_false_iff.1 hfree))
  case agget => rw [bodyAgget, agField_doubleword]

end Sys2Proof.Proofs.TaskWords
